-- ==== Sys2Proof/Word.lean ====
section
/-!
DEFINITION. The word types of the module and their plainest arithmetic.

A `Byte` is the smallest addressable unit of GDDR, host memory and the scratchpads; a `Word` is what a
scalar register, an FP32 value or an INT32 value holds; a `DWord` is a set-up register, a PVIS word or a
device virtual address field.
-/
namespace Sys2Proof

/-- Eight bits: one byte of memory. -/
abbrev Byte := BitVec 8

/-- Thirty-two bits: a scalar register (R18), an FP32 or an INT32 value. -/
abbrev Word := BitVec 32

/-- Sixty-four bits: a PVIS word (R285), a 64-bit register. -/
abbrev DWord := BitVec 64

/-- A logical core number: logical cluster × 16 + core (R18); BRN-A80 has 81,920 (R2). -/
abbrev CoreId := Fin 81920

/-- A logical cluster number (R18); BRN-A80 has 5,120 (R2). -/
abbrev ClusterId := Fin 5120

end Sys2Proof
end

