-- ==== Sys2Proof/Config.lean ====
section
/-!
DEFINITION. What the manual fixes per grade, what an implementation fixes, and the free values.

Every `opaque` constant below has no body: no proof can see a value of it, so a statement that mentions one holds
whatever it is. A free value that differs from use to use is the constant applied to the counter `State.free`.
-/
namespace Sys2Proof

/-- The two grades of the module (R2); the value is the fused bit of SEC_STATUS (R3). -/
inductive Grade where
  | a80
  | s64
  deriving DecidableEq, Repr

namespace Config

/-- Usable logical clusters (R2). -/
def clusters : Grade → Nat
  | .a80 => 5120
  | .s64 => 4096

/-- Logical clusters per die (R18). -/
def clustersPerDie : Grade → Nat
  | .a80 => 1280
  | .s64 => 1024

/-- Usable clusters per voltage island (R45). -/
def clustersPerIsland : Grade → Nat
  | .a80 => 20
  | .s64 => 16

/-- Fabric ports of the grade (R2). -/
def ports : Grade → Nat
  | .a80 => 16
  | .s64 => 8

/-- Flash ports of the grade (R2). -/
def flashPorts : Grade → Nat
  | .a80 => 4
  | .s64 => 2

/-- GDDR sites of the grade (R2). -/
def sites : Grade → Nat
  | .a80 => 16
  | .s64 => 12

/-- In-fabric reduction units: four, or fused off (R2). -/
def reduction : Grade → Bool
  | .a80 => true
  | .s64 => false

/-- The grade bit of SEC_STATUS, QUERY item 0 and SYS item 4 (R3, R295, R369). -/
def gradeBit : Grade → Nat
  | .a80 => 0
  | .s64 => 1

/-- Free value: an undefined 32-bit word (R43 and wherever the manual leaves a word open). -/
opaque freeWord : Nat → Word

/-- Free value: an undefined byte (R140, R160, R385, R443). -/
opaque freeByte : Nat → Byte

/-- Free value: an undefined choice of order or sign (R21, R41, R75, R168, R326). -/
opaque freeBit : Nat → Bool

/-- Free value: the result of gate function `f` (R300 numbering) at an input the table of R103 does not
fix. The manual bounds it (R104) and gives no formula for its bits. -/
opaque gateResult : Nat → Word → Word

/-- Free value: the bits a narrowing of an FP32 value to format `f` leaves where R78 and R79 state no result (a
fraction or an out-of-range value to INT32, an MXFP6 or MXINT8 target, an element of a group that holds a NaN). -/
opaque narrowOpen : Nat → Word → Nat

/-- Free value: the address of an object, by number, that no block places (R236). -/
opaque unplacedVa : Nat → Nat

/-- SHA-384 of a byte string (R264, R485): the manual names the standard function and gives no algorithm. -/
opaque sha384 : List Byte → BitVec 384

/-- ECDSA on brainpoolP384r1 (R275): does the signature verify over the hash with the key whose hash is given. -/
opaque ecdsaVerifies : BitVec 384 → BitVec 384 → BitVec 768 → Bool

/-- The device identity key's signature over a report's hash (R489); the private key is never read out (R488). -/
opaque identitySign : BitVec 384 → BitVec 768

/-- The certificate chain of R488, DER-encoded, fixed at manufacture. -/
opaque certChain : List Byte

/-- ROM version of the implementation (R280, R369). -/
opaque romVersion : Word

/-- Firmware patch level of the firmware whose hash is given (R369). -/
opaque patchLevel : BitVec 384 → Word

/-- Native words a role's PVIS words translate to (R266, R284: not part of the contract). -/
opaque nativeWords : List DWord → Nat

/-- Steps of work of an instruction, given by its words, for the commands that no rule counts (R273): line-buffer
declarations, the halo exchange, and the macros KVAPP, SAMPLE, VERIFY, SMODAL, SSCAN and SCELL. -/
opaque commandSteps : List DWord → Nat

/-- Hash of the ROM translator and patch (R489). -/
opaque translatorHash : BitVec 384

/-- Hash of the public fuse array (R489). -/
opaque fuseHash : BitVec 384

/-- Joentyar's enterprise number (R481). -/
opaque enterpriseNumber : Word

/-- The module's PLDM terminus identifier (R481: GetTID is supported, no value is given). -/
opaque tid : Byte

/-- Version of PLDM Type 0 the module reports (R481 names DSP0240 and no version). -/
opaque pldmBaseVersion : List Byte

/-- The command list of GetPLDMCommands in the encoding of DSP0240 (R481 names the commands, not their bytes). -/
opaque pldmCommands : List Byte

/-- The Platform Descriptor Records the module reports (R482): the manual names the sensors, not the bytes. -/
opaque pdrs : Nat → List Byte

/-- How many Platform Descriptor Records there are. -/
opaque pdrCount : Nat

/-- The module's 8-byte identity tag sent in identity flits (R406). -/
opaque identityTag : DWord

/-- The not_ready code of the vendor-defined message set (R480): named, no value given. -/
opaque vendorNotReady : Byte

end Config
end Sys2Proof
end

