-- ==== Sys2Proof/Records.lean ====
section
/-!
DEFINITION. The records the manual lays out: status and event codes, images, tables, streams, branches, pages,
lists, packets. Each is the typed form of a table of the manual; the rule stands in its docstring.
-/
namespace Sys2Proof

/-- One PVIS instruction: the primary word and up to three extension words (R285). -/
structure PvisWords where
  w  : DWord
  e1 : DWord := 0
  e2 : DWord := 0
  e3 : DWord := 0
  deriving DecidableEq, Repr, Inhabited

/-- Status codes of completion records (R374). -/
inductive Status where
  | ok | aborted | abortLate | abortNoTarget | descriptorInvalid
  | mmuFaultUnresolved | saveFault | poisonedData
  | engineAbsent | gradeUnsupported | imageRejected | imageSignatureBad
  | streamMoved | streamAbsent | participantLost | collectiveTimeout
  | contextPreempted | contextKilled | programReplaced | deviceFailing
  deriving DecidableEq, Repr, Inhabited

/-- The value of a status code (R374). -/
def Status.code : Status → Nat
  | .ok => 0x00 | .aborted => 0x01 | .abortLate => 0x02 | .abortNoTarget => 0x03 | .descriptorInvalid => 0x04
  | .mmuFaultUnresolved => 0x10 | .saveFault => 0x11 | .poisonedData => 0x12
  | .engineAbsent => 0x20 | .gradeUnsupported => 0x21 | .imageRejected => 0x22 | .imageSignatureBad => 0x23
  | .streamMoved => 0x30 | .streamAbsent => 0x31 | .participantLost => 0x40 | .collectiveTimeout => 0x41
  | .contextPreempted => 0x50 | .contextKilled => 0x51 | .programReplaced => 0x60 | .deviceFailing => 0x70

/-- Event codes (R376, R448). -/
inductive EventCode where
  | contextPreempted | contextResumed | clusterRetiring | clusterRetired | modelReload
  | siteState | siteOffline | driveOffline | lcHeld | lcReleased | ringError | deviceFailing | floorUnmet
  | portDown | portDegraded | portActive | moduleLost | takeoverBegin | takeoverReady
  | peerSlow | peerNormal | buddyPushDone | shardCopyDone | linkFailing
  deriving DecidableEq, Repr, Inhabited

/-- The value of an event code (R376, R448). -/
def EventCode.code : EventCode → Nat
  | .contextPreempted => 0x0001 | .contextResumed => 0x0002 | .clusterRetiring => 0x0010
  | .clusterRetired => 0x0011 | .modelReload => 0x0012 | .siteState => 0x0020 | .siteOffline => 0x0021
  | .driveOffline => 0x0030 | .lcHeld => 0x0040 | .lcReleased => 0x0041 | .ringError => 0x0050
  | .deviceFailing => 0x0060 | .floorUnmet => 0x0070
  | .portDown => 0x0080 | .portDegraded => 0x0081 | .portActive => 0x0082 | .moduleLost => 0x0083
  | .takeoverBegin => 0x0084 | .takeoverReady => 0x0085 | .peerSlow => 0x0086 | .peerNormal => 0x0087
  | .buddyPushDone => 0x0088 | .shardCopyDone => 0x0089 | .linkFailing => 0x008A

/-- The status an event record carries (R376, R448). -/
def EventCode.status : EventCode → Status
  | .contextPreempted => .contextPreempted
  | .modelReload => .poisonedData
  | .deviceFailing => .deviceFailing
  | .moduleLost => .participantLost
  | .linkFailing => .deviceFailing
  | _ => .ok

/-- Fault record kinds (R228). -/
inductive FaultKind where
  | notMapped | writeDenied | badEntry | physicalAbsent | reservedTarget | tableReadError | hostAccessError
  | kvPoolEmpty | tokenOrder | reservedMarker | region | windowRange | gateRows | lengthTable | kvListFull
  | branch | controlPoison | linkRefused
  deriving DecidableEq, Repr, Inhabited

/-- The value of a fault kind (R228). -/
def FaultKind.code : FaultKind → Nat
  | .notMapped => 0x01 | .writeDenied => 0x02 | .badEntry => 0x03 | .physicalAbsent => 0x04
  | .reservedTarget => 0x05 | .tableReadError => 0x06 | .hostAccessError => 0x07 | .kvPoolEmpty => 0x10
  | .tokenOrder => 0x20 | .reservedMarker => 0x21 | .region => 0x22 | .windowRange => 0x23 | .gateRows => 0x24
  | .lengthTable => 0x25 | .kvListFull => 0x26 | .branch => 0x27 | .controlPoison => 0x28 | .linkRefused => 0x30

/-- Kinds marked resolvable (R228). -/
def FaultKind.resolvable : FaultKind → Bool
  | .notMapped | .writeDenied | .badEntry | .physicalAbsent | .reservedTarget | .tableReadError
  | .kvPoolEmpty => true
  | _ => false

/-- Sources of a fault record (R227). -/
inductive FaultSource where
  | coreDma | tableGather | pageAllocator | flashHelper | mover | translator | streamCopy | engine
  | controlUnit | linkSupervisor | bookkeeping
  deriving DecidableEq, Repr, Inhabited

/-- The value of a fault source (R227). -/
def FaultSource.code : FaultSource → Nat
  | .coreDma => 0 | .tableGather => 1 | .pageAllocator => 2 | .flashHelper => 3 | .mover => 4
  | .translator => 5 | .streamCopy => 6 | .engine => 7 | .controlUnit => 8 | .linkSupervisor => 9
  | .bookkeeping => 10

/-- A stream-table entry (R138). -/
structure StreamEntry where
  statePtr : Nat := 0
  anchorPtr : Nat := 0
  stateSize : Nat := 0
  kind : Nat := 0
  precision : Nat := 0
  residency : Nat := 0
  reset : Bool := false
  nextChunk : Nat := 0
  horizon : Nat := 0
  layer : Nat := 0
  part : Nat := 0
  parts : Nat := 0
  channels : Nat := 0
  modes : Nat := 0
  stepCount : Nat := 0
  exportSeq : Nat := 0
  deriving DecidableEq, Repr, Inhabited

/-- A branch record (R192): state 0 free, 1 live, 2 verifying. -/
structure BranchRec where
  state : Nat := 0
  parent : Nat := 0
  sequence : Nat := 0
  listBlock : Nat := 0
  length : Nat := 0
  forkPosition : Nat := 0
  children : Nat := 0
  generation : Nat := 0
  pending : Nat := 0
  verifyBase : Nat := 0
  hostTag : Nat := 0
  deriving DecidableEq, Repr, Inhabited

/-- A page-list entry (R170). -/
structure ListEntry where
  keyPage : Nat := 0
  valuePage : Nat := 0
  firstPosition : Nat := 0
  count : Nat := 0
  deriving DecidableEq, Repr, Inhabited

/-- A page list: its header (R169) and its entries in use, in ascending first_position order (R170). -/
structure PageList where
  capacity : Nat := 0
  length : Nat := 0
  budget : Nat := 0
  window : Nat := 0
  layer : Nat := 0
  kvHead : Nat := 0
  latent : Bool := false
  ring : Bool := false
  width : Nat := 0
  format : Nat := 0
  group : Nat := 0
  entries : List ListEntry := []
  deriving DecidableEq, Repr, Inhabited

/-- A page descriptor (R166); tier 0 free, 1 gddr, 2 spilling, 3 host, 4 flash, 5 fetching (R167). -/
structure PageDesc where
  refcount : Nat := 0
  readers : Nat := 0
  tier : Nat := 0
  owner : Nat := 0xFF
  unobserved : Bool := false
  content : Nat := 0
  poisoned : Bool := false
  fill : Nat := 0
  layer : Nat := 0
  kvHead : Nat := 0
  score : Word := 0
  useStamp : Nat := 0
  spillAddr : Nat := 0
  /-- the model's own: the frame the page is in, while it has one (tiers gddr, spilling and fetching) -/
  frame : Nat := 0
  /-- the model's own: spill_addr is a slot of the flash extent -/
  flash : Bool := false
  deriving DecidableEq, Repr, Inhabited

/-- A length-table row (R172). -/
structure LenRow where
  sequence : Nat := 0
  branch : Nat := 0
  append : Bool := false
  mask : Nat := 0
  ring : Bool := false
  start : Nat := 0
  length : Nat := 0
  listBlock : Nat := 0
  maskBlock : Nat := 0
  deriving DecidableEq, Repr, Inhabited

/-- A stream-list entry of a RUN (R365). -/
structure StreamRef where
  stream : Nat
  final : Bool := false
  chunk : Nat := 0
  deriving DecidableEq, Repr, Inhabited

/-- What the image declares of an attention layer (R267, kind 1; R163, R169, R175, R184). -/
structure AttnDecl where
  layer : Nat := 0
  keyHeads : Nat := 0
  hd : Nat := 0
  format : Nat := 0
  group : Nat := 1
  /-- bit h: key head h is privileged (R184) -/
  privileged : Nat := 0
  rank : Nat := 0
  /-- 0 expand, 1 absorb (R184) -/
  readForm : Nat := 0
  /-- FP32 score scale; 0 selects 1/√hd × log2 e (R175) -/
  scoreScale : Word := 0
  deriving DecidableEq, Repr, Inhabited

/-- What the image declares of a stream layer (R267, kind 2; R155). -/
structure StreamDecl where
  layer : Nat := 0
  kind : Nat := 0
  channels : Nat := 0
  modes : Nat := 0
  /-- 0 none, 1 whole chunk, 2 truncated window (R155) -/
  lookForm : Nat := 0
  window : Nat := 0
  inputFormat : Nat := 0
  deriving DecidableEq, Repr, Inhabited

/-- Kinds of object (R267). -/
inductive ObjKind where
  | tensor (dims : List Nat)
  | attention (d : AttnDecl)
  | stream (d : StreamDecl)
  | table (number format dim rowBytes : Nat)
  | counter (count : Nat)
  | halo (producer consumer rows flagA flagB : Nat)
  deriving DecidableEq, Repr, Inhabited

/-- An object declaration (R267). -/
structure ObjDecl where
  number : Nat
  kind : ObjKind
  /-- 0 model space, 1 context space, 2 weight region, 3 working region -/
  space : Nat := 1
  format : Nat := 0
  layout : Nat := 0
  bytes : Nat := 0
  site : Nat := 0xFF
  exclusiveWrite : Bool := false
  deriving DecidableEq, Repr, Inhabited

/-- A section-table entry (R263). -/
structure Section where
  type : Nat
  required : Bool := false
  offset : Nat := 0
  size : Nat := 0
  /-- the role a type-10 section replaces (R276, R529) -/
  role : Nat := 0
  deriving DecidableEq, Repr, Inhabited

/-- A role: its number and its PVIS words (R263, R264). -/
structure RoleCode where
  role : Nat
  words : List DWord
  deriving DecidableEq, Repr, Inhabited

/-- A placement-map entry (R265). -/
structure PlaceEntry where
  role : Nat
  first : Nat
  count : Nat
  layerSet : Nat := 0xFFFF
  deriving DecidableEq, Repr, Inhabited

/-- A flag of the flag and queue map (R268 type 1): class 0 cluster, 1 device, 2 host (R323). -/
structure FlagDecl where
  number : Nat
  cls : Nat
  hostSets : Bool := false
  hostWaits : Bool := false
  deriving DecidableEq, Repr, Inhabited

/-- A hatband enrolment (R268 type 3): a virtual line and a range of roles. -/
structure HatDecl where
  line : Nat
  firstRole : Nat
  lastRole : Nat
  deriving DecidableEq, Repr, Inhabited

/-- A channel (R268 type 4); `remote` is the consumer's module when it is another one (R413). -/
structure ChanDecl where
  number : Nat
  producerRole : Nat := 0
  producerCore : Nat := 0
  consumerRole : Nat := 0
  consumerCore : Nat := 0
  /-- queue-end code of the consumer's input end: qd_in 7, or qx_in 10 for a ring channel (R25, R268) -/
  consumerEnd : Nat := 7
  remote : Option (Nat × Nat × Nat) := none
  deriving DecidableEq, Repr, Inhabited

/-- A layer-order record (R269). -/
structure LayerOrder where
  layer : Nat
  layerSet : Nat := 0xFFFF
  weights : List Nat := []
  lookahead : Nat := 0
  deriving DecidableEq, Repr, Inhabited

/-- A preemption point (R272). -/
structure PreemptPoint where
  role : Nat
  offset : Nat
  saveMap : Nat := 0xFFFF
  deriving DecidableEq, Repr, Inhabited

/-- A signature section (R275). -/
structure Signature where
  slot : Nat
  size : Nat := 128
  zerosOk : Bool := true
  value : BitVec 768 := 0
  deriving DecidableEq, Repr, Inhabited

/-- Initial contents of one weight line: cluster, core in cluster, line, 32 bytes (R14, R263 type 8). -/
structure WeightLine where
  cluster : Nat
  core : Nat
  line : Nat
  data : BitVec 256
  deriving DecidableEq, Repr, Inhabited

/-- A program or model image, as the mover reads it (R262 to R276). `hash` is the SHA-384 of R264, computed by
the mover as it reads; `reservedClear` says that no bit outside the table of R262 is set. -/
structure Image where
  magic : Nat := 0x4D49_5050
  imageMajor : Nat := 1
  imageMinor : Nat := 0
  pvisVersion : Nat := 0x0100
  imageBytes : Nat := 0
  model : Bool := false
  signed : Bool := false
  clusters : Nat := 0
  ports : Nat := 0
  flash : Nat := 0
  reduction : Bool := false
  sites : Nat := 0
  weightLines : Nat := 0
  modelHash : BitVec 384 := 0
  reservedClear : Bool := true
  hash : BitVec 384 := 0
  sections : List Section := []
  roles : List RoleCode := []
  placement : List PlaceEntry := []
  objects : List ObjDecl := []
  flags : List FlagDecl := []
  /-- kind-4 object numbers in map order (R268 type 2) -/
  counters : List Nat := []
  hatbands : List HatDecl := []
  channels : List ChanDecl := []
  layers : List LayerOrder := []
  points : List PreemptPoint := []
  signature : Option Signature := none
  weights : List WeightLine := []
  /-- initial contents of GDDR weight objects: object number, byte offset, bytes (R263 type 8) -/
  objectBytes : List (Nat × Nat × List Byte) := []
  deriving DecidableEq, Repr, Inhabited

/-- An object placement of R363 and R364. -/
structure ObjPlace where
  object : Nat
  address : Nat
  deriving DecidableEq, Repr, Inhabited

/-- The model placement block (R363). -/
structure ModelBlock where
  root : DWord := 0
  poolVa : Nat := 0
  poolPages : Nat := 0
  descVa : Nat := 0
  streamPoolVa : Nat := 0
  streamPoolSlots : Nat := 0
  tableCacheVa : Nat := 0
  tableCacheUnits : Nat := 1
  updateCacheVa : Nat := 0
  updateCacheUnits : Nat := 0
  places : List ObjPlace := []
  reservedClear : Bool := true
  deriving DecidableEq, Repr, Inhabited

/-- The context block (R364), with the contents the host has written into the context's tables before its first
job (R140, R193, R170): stream entries by number, branch records by number, page lists by list block and index. -/
structure CtxBlock where
  root : DWord := 0
  streamTable : Nat := 0
  streamEntries : Nat := 0
  branchTable : Nat := 0
  saveArea : Nat := 0
  saveBytes : Nat := 0
  swapArea : Nat := 0
  spillArea : Nat := 0
  spillBytes : Nat := 0
  seed : DWord := 0
  flagArea : Nat := 0
  flagTable : Nat := 0
  places : List ObjPlace := []
  reservedClear : Bool := true
  streams : List (Nat × StreamEntry) := []
  branches : List (Nat × BranchRec) := []
  lists : List (Nat × PageList) := []
  /-- the entries of the host flag table: vector and send bit by virtual flag (R364) -/
  flagVectors : List (Nat × Nat) := []
  deriving DecidableEq, Repr, Inhabited

/-- A table descriptor (R240). -/
structure TableDesc where
  table : Nat := 0
  format : Nat := 0
  writable : Bool := false
  drives : Nat := 1
  stripeLog2 : Nat := 0
  dim : Nat := 32
  rowBytes : Nat := 32
  rows : Nat := 1
  salt : DWord := 0
  nsid : Nat := 1
  shards : Nat := 1
  localShard : Nat := 0
  firstLba : Nat := 0
  shardMap : Nat := 0
  buddyShard : Nat := 0xFFFF
  hedgeUs : Nat := 0
  buddyFirstLba : Nat := 0
  deriving DecidableEq, Repr, Inhabited

/-- One shard-map entry: the owner's coordinates and the buddy's, if the shard has one (R240). -/
structure ShardEntry where
  owner : Nat × Nat × Nat := (0, 0, 0)
  buddy : Option (Nat × Nat × Nat) := none
  deriving DecidableEq, Repr, Inhabited

/-- An operation entry of a collective descriptor (R419). -/
structure CollOp where
  op : Nat := 1
  srcFp32 : Bool := false
  root : Nat := 0
  trigger : Nat := 0
  done : Nat := 0
  bufferVa : Nat := 0
  bytes : Nat := 0
  bucketMib : Nat := 4
  deriving DecidableEq, Repr, Inhabited

/-- A collective descriptor (R418). -/
structure CollDesc where
  group : Nat := 0
  shape : Nat := 0
  dims : Nat := 1
  origin : Nat × Nat × Nat := (0, 0, 0)
  extent : Nat × Nat × Nat := (1, 1, 1)
  wireFp32 : Bool := false
  watchdogMs : Nat := 0
  context : Nat := 0
  stagingVa : Nat := 0
  stagingBytes : Nat := 0
  ops : List CollOp := []
  reservedClear : Bool := true
  deriving DecidableEq, Repr, Inhabited

/-- A packet header and its data (R411). -/
structure Packet where
  ptype : Nat := 0
  dest : Nat × Nat × Nat := (0, 0, 0)
  src : Nat × Nat × Nat := (0, 0, 0)
  context : Nat := 0xFF
  poison : Bool := false
  lc : Bool := false
  address : Nat := 0
  /-- the 8-byte tag and return address of a request whose response must find its way back (R411) -/
  tag : Nat := 0
  data : List Byte := []
  deriving DecidableEq, Repr, Inhabited

/-- The header fields of a received flit (R405). -/
structure FlitHdr where
  vc : Nat := 0
  cls : Nat := 0
  creditValid : Bool := false
  seq : Nat := 0
  ack : Nat := 0
  creditVc : Nat := 0
  creditCls : Nat := 0
  /-- CRC and codeword both good after FEC decoding (R407) -/
  good : Bool := true
  deriving DecidableEq, Repr, Inhabited

/-- The payload of an idle or identity flit (R406). -/
structure IdleInfo where
  health : Nat := 0
  grade : Grade := .a80
  coord : Nat × Nat × Nat := (0, 0, 0)
  port : Nat := 0
  /-- credit returns: vc, class, count -/
  credits : List (Nat × Nat × Nat) := []
  version : Nat := 1
  tag : DWord := 0
  /-- the sender is a spare (R400, LNK_PORT_STATUS partner_spare) -/
  spare : Bool := false
  /-- the partner's torus extents (R404) -/
  extents : Nat × Nat × Nat := (1, 1, 1)
  deriving DecidableEq, Repr, Inhabited

/-- One telemetry sample set (R478, R482): unavailable readings are `none`. -/
structure Telemetry where
  seq : Nat := 0
  powerW : Option Nat := none
  inputV : Option Nat := none
  inputA : Option Nat := none
  dieTemp : List (Option Nat) := []
  siteTemp : List (Option Nat) := []
  aux3v3 : Bool := false
  deriving DecidableEq, Repr, Inhabited

/-- Where a translation is cached: a cluster's TLB or a brim die's (R225). -/
inductive TlbId where
  | cluster (c : ClusterId)
  | brim (d : Fin 4)
  deriving DecidableEq, Repr

/-- What the ROM finds in a firmware slot (R485): signature and key, security version. -/
structure SlotCheck where
  signatureOk : Bool := true
  keyFuse : Nat := 0
  svn : Nat := 0
  hash : BitVec 384 := 0
  deriving DecidableEq, Repr, Inhabited

end Sys2Proof
end

