-- ==== Sys2Proof/Syntax.lean ====
section
/-!
DEFINITION. The commands of the block: one constructor per row of spec/opcode_table.json, with the operands the
row's rule gives it. A PVIS instruction names the core that issues it and the words it is made of (R285); a
command about a descriptor names the descriptor by its number of fetch; an event names what happened and carries
what the outside world contributes to it (what was read, sensed or received).
-/
namespace Sys2Proof

/-- A command, operation or event of the module (spec/opcode_table.json). -/
inductive Instr where
  /-- `DOORBELL_POLL` (R355): Every 2 µs on an active ring, or every 100 µs on an idle one, the ring walker
  reads the ring's doorbell record as one 8-byte read. -/
  | doorbellPoll (ring : Fin 64) (record : DWord) (linkOk : Bool) (stores : List Host.Cell)
  /-- `RING_IDLE_TIMEOUT` (R355): An active submission ring whose tail has not changed for 1 ms becomes idle.
  -/
  | ringIdleTimeout (ring : Fin 64)
  /-- `HIF_KICK` (R356): A host write of a sequence to HIF_KICK_n makes ring n active and starts a read of its
  doorbell record. -/
  | hifKick (ring : Fin 64) (seq : Word)
  /-- `KICK_REPOLL` (R356): While the doorbell record's sequence is behind the kicked value, the walker reads
  the record again every 1 µs, up to 64 times, and then falls back to normal polling. -/
  | kickRepoll (ring : Fin 64) (record : DWord) (linkOk : Bool)
  /-- `DESCRIPTOR_FETCH` (R357): Once a completion slot can be reserved, the walker copies the next descriptor
  of a ring whole, taking latency-critical rings first. -/
  | descriptorFetch (ring : Fin 64) (d : BitVec 512) (linkOk : Bool)
  /-- `COMPLETION_HEAD_POLL` (R524): While a completion ring has no free slot, the walker reads its head
  record every 2 µs and takes a new count only if it lies in range. -/
  | completionHeadPoll (cq : Fin 64) (count : Word)
  /-- `COALESCING_TIMER` (R373): When the oldest record not yet covered has waited for the time threshold, the
  ring's MSI-X vector is sent. -/
  | coalescingTimer (cq : Fin 64)
  /-- `LOAD_MODEL` (R277): Reads, hashes, checks and translates a model image, and then writes its weights and
  banks to make the model resident. -/
  | loadModel (id : Nat) (img : Image) (blk : ModelBlock)
  /-- `LOAD_PROGRAM_LOAD_ROLES` (R362): LOAD_PROGRAM op 0 translates a program image and loads its roles into
  the instruction-store banks. -/
  | loadProgramLoadRoles (id : Nat) (img : Image)
  /-- `LOAD_PROGRAM_CREATE_CONTEXT` (R364): LOAD_PROGRAM op 1 creates a context from a context block, binding
  its flags, lines and counters and checking that its areas are pinned. -/
  | loadProgramCreateContext (id : Nat) (img : Option Image) (blk : CtxBlock)
  /-- `LOAD_PROGRAM_END_CONTEXT` (R362): LOAD_PROGRAM op 2 ends a context, kills its unfinished jobs and
  returns its resources. -/
  | loadProgramEndContext (id : Nat)
  /-- `BANK_LOAD` (R37): A bank load that waited for the bank's fetch count to reach zero writes the
  translated words into the bank. -/
  | bankLoad (cl : ClusterId)
  /-- `RUN` (R365): Accepts a RUN descriptor with its stream list, length table and argument words. -/
  | run (id : Nat)
  /-- `RUN_JOB_START` (R142): When chunk order allows, the module checks the job's streams, brings them in,
  applies reset and anchors, pins them and starts the context's roles. -/
  | runJobStart (id : Nat)
  /-- `SOFT_PREEMPT_TIMEOUT` (R387): A soft preemption request not met within soft_timeout turns into a hard
  preemption of the cluster. -/
  | softPreemptTimeout (cl : ClusterId)
  /-- `CLUSTER_SAVE` (R389): Once a cluster's cores have stopped, the mover writes the context's cluster and
  core records to its save area. -/
  | clusterSave (cl : ClusterId)
  /-- `CLUSTER_RESTORE` (R392): After the preempting job ends, the mover restores a saved context cluster by
  cluster, earliest saved first, and posts context_resumed. -/
  | clusterRestore (cl : ClusterId)
  /-- `JOB_COMPLETION` (R342): When every role of a job has executed END, a host-visible fence runs over the
  job's writes and its completion record is posted. -/
  | jobCompletion (id : Nat)
  /-- `COPY` (R367): Copies bytes between host memory and GDDR. -/
  | copy (id : Nat)
  /-- `SIGNAL` (R330): Sets or clears a device flag of a named context. -/
  | signal (id : Nat)
  /-- `WAIT` (R330): Holds its ring until a named device flag has the named value. -/
  | wait (id : Nat)
  /-- `WAIT_SATISFIED` (R330): The device flag reaches the value a WAIT holds for, and the WAIT completes and
  releases its ring. -/
  | waitSatisfied (id : Nat)
  /-- `FENCE_DESCRIPTOR` (R367): Completes once every write of the jobs completed before it is host-visible.
  -/
  | fenceDescriptor (id : Nat)
  /-- `FENCE_INVALIDATE` (R226): A FENCE with the invalidate option drops the overlapping TLB entries, drains
  the walks and accesses in flight, and then completes. -/
  | fenceInvalidate (id : Nat)
  /-- `STREAM_EXPORT` (R157): Writes a stream's state blob (header, state words, trailer) and advances
  export_seq. -/
  | streamExport (id : Nat)
  /-- `STREAM_EXPORT_MOVE` (R158): An export with the move flag ends the stream's waiting jobs with
  STREAM_MOVED, writes the blob and sets residency moved. -/
  | streamExportMove (id : Nat)
  /-- `STREAM_IMPORT` (R159): Reads a blob into a stream's pool slot, converting its precision and checking
  the CRC. -/
  | streamImport (id : Nat)
  /-- `TABLE_BIND` (R243): Checks a table descriptor and binds the table's shard to drives, optionally
  prefetching a warm key list. -/
  | tableBind (id : Nat) (d : TableDesc) (shards : List ShardEntry) (warm : List (BitVec 128))
  /-- `TABLE_UNBIND` (R368): TABLE_BIND with the unbind bit set unbinds a table. -/
  | tableUnbind (id : Nat)
  /-- `TABLE_BIND_SPILL_EXTENT` (R368): TABLE_BIND with the spill bit set binds a flash spill extent for the
  header's context. -/
  | tableBindSpillExtent (id : Nat) (d : TableDesc)
  /-- `TABLE_FLUSH` (R260): Writes back every dirty page and issues Flush on every drive written, then
  completes. -/
  | tableFlush (id : Nat)
  /-- `COLLECTIVE_GROUP` (R419): Checks and declares a collective group with its operation entries. -/
  | collectiveGroup (id : Nat) (d : CollDesc)
  /-- `COLLECTIVE_GROUP_DISSOLVE` (R368): COLLECTIVE_GROUP with the dissolve bit set dissolves a group on this
  module. -/
  | collectiveGroupDissolve (id : Nat)
  /-- `ABORT` (R378): Resolves an abort of the oldest unfinished descriptor with the target tag on the target
  ring. -/
  | abort (id : Nat)
  /-- `ABORT_CONTEXT_WIDE` (R378): An abort with the context-wide bit set ends every unfinished descriptor of
  the context other than ABORT. -/
  | abortContextWide (id : Nat)
  /-- `QUERY_DEVICE` (R369): QUERY item 0 writes the grade, versions, resources, save size and model hash. -/
  | queryDevice (id : Nat)
  /-- `QUERY_SITES` (R369): QUERY item 1 writes the state, rate, temperature and usable bytes of each GDDR
  site. -/
  | querySites (id : Nat)
  /-- `QUERY_DRIVES` (R369): QUERY item 2 writes the state and capacity of each flash port's drive. -/
  | queryDrives (id : Nat)
  /-- `QUERY_CONTEXTS` (R369): QUERY item 3 writes the state, class, exclusive bit and running jobs of each
  context. -/
  | queryContexts (id : Nat)
  /-- `QUERY_JOB` (R369): QUERY item 4 writes the state and progress of the oldest unfinished descriptor with
  a given tag on a given ring. -/
  | queryJob (id : Nat)
  /-- `HIF_SQ_CTRL_WRITE` (R517): A write to a submission ring's control register applies its fields and its
  enable, which is refused against a disabled or event completion ring. -/
  | hifSqCtrlWrite (ring : Fin 64) (v : Word)
  /-- `HIF_CQ_CTRL_WRITE` (R517): A write to a completion ring's control register applies its fields and its
  enable, and the enable cannot be cleared while the ring is in use. -/
  | hifCqCtrlWrite (cq : Fin 64) (v : DWord)
  /-- `HIF_CTRL_WRITE` (R518): A write to HIF_CTRL sets the kick and BAR4 enables and the event ring, subject
  to the event-ring rules. -/
  | hifCtrlWrite (v : Word)
  /-- `MMU_FAULT_CTRL_WRITE` (R520): A write to the fault ring's control register applies its fields, and an
  enable from 0 to 1 restarts the ring at record 0 with phase 1. -/
  | mmuFaultCtrlWrite (v : Word)
  /-- `FLP_QUEUES_WRITE` (R521): A write to FLP_QUEUES_n is checked and then applied at bring-up, or by
  recreating the drive's queues when no binding and no context exists. -/
  | flpQueuesWrite (port : Fin 4) (v : DWord)
  /-- `LNK_PORT_ENABLE` (R522): A write of 1 to a port's enable, from disabled, refused or down, starts
  detect. -/
  | lnkPortEnable (port : Fin 16)
  /-- `LNK_PORT_DISABLE` (R522): A write of 0 to a port's enable disables the port, and on an active port
  raises port_down with reason 3. -/
  | lnkPortDisable (port : Fin 16)
  /-- `LNK_PORT_RETRAIN` (R522): A write of the retrain bit puts an active port into retrain. -/
  | lnkPortRetrain (port : Fin 16)
  /-- `LNK_COORD_WRITE` (R414): Sets the module's coordinates, extents and spare bit, accepted only while
  every port is disabled. -/
  | lnkCoordWrite (v : DWord)
  /-- `LNK_BUDDY_CTRL_WRITE` (R435): Sets the buddy mode and the export settings, accepted only while no
  context exists. -/
  | lnkBuddyCtrlWrite (v : DWord)
  /-- `LNK_BUDDY_AREA_WRITE` (R437): Sets the buddy area and restarts the push of the buddy area. -/
  | lnkBuddyAreaWrite (v : DWord)
  /-- `LNK_DECLARE_LOST` (R430): On a spare, a host write of lost declares member x of its X ring lost at
  once. -/
  | lnkDeclareLost (x : Byte)
  /-- `LNK_DECLARE_RELEASE` (R442): On a spare, a host write of release ends the takeover of member x and
  returns the spare to spare duty. -/
  | lnkDeclareRelease (x : Byte)
  /-- `CRN_PREEMPT_WRITE` (R387): Sets the save-map, hard-preemption and soft-timeout settings, which take
  effect at the next preemption request. -/
  | crnPreemptWrite (v : DWord)
  /-- `CRN_MBOX_OUT_READY_CLEAR` (R523): The host clears out_ready, after which a waiting outbound reply may
  be written. -/
  | crnMboxOutReadyClear
  /-- `MAILBOX_INBOUND` (R481): A host write of the inbound length word sets in_busy and hands an MCTP message
  to the Crown. -/
  | mailboxInbound (msg : List Byte)
  /-- `MAILBOX_OUTBOUND` (R523): The Crown writes a reply to the outbound buffer, sets out_ready and
  optionally sends the MSI-X vector. -/
  | mailboxOutbound (msg : List Byte)
  /-- `PWR_CEILING_WRITE` (R463): Sets the host power ceiling, which takes effect at the next enforcer
  interval. -/
  | pwrCeilingWrite (v : Word)
  /-- `PWR_FLOOR_WRITE` (R461): Sets an island's floor rate, which takes effect at its next loop interval. -/
  | pwrFloorWrite (isl : Fin 256) (v : Word)
  /-- `PWR_PIN_WRITE` (R462): Sets or clears an island's voltage pin, which takes effect at its next loop
  interval. -/
  | pwrPinWrite (isl : Fin 256) (v : Word)
  /-- `PWR_STATUS_FLOOR_UNMET_CLEAR` (R515): An RW1C write clears floor_unmet, which is set again at once if
  the condition still holds. -/
  | pwrStatusFloorUnmetClear
  /-- `VIS_CLSEL_WRITE` (R472): Sets a context's cluster counter selectors, applied at that context's next job
  start in each cluster and zeroing the changed counters. -/
  | visClselWrite (ctx : Fin 16) (v : DWord)
  /-- `VIS_BRSEL_WRITE` (R473): Sets a brim counter's selector and filter at once and zeroes the counter. -/
  | visBrselWrite (n : Fin 64) (v : Word)
  /-- `VIS_SNAP_GO` (R476): A write of go starts a host snapshot of a context's or the brim counters, clearing
  them if asked, to VIS_SNAP_ADDR. -/
  | visSnapGo (v : Word)
  /-- `SEC_POLICY_WRITE` (R486): Sets the signing and BAR4 policy, and a write of lock freezes the register
  and refuses key operations until PERST# release. -/
  | secPolicyWrite (v : Word)
  /-- `REGISTER_WRITE` (R511): A write to any other BAR0 register, including 64-bit writes in halves and
  writes of a bad size or alignment. -/
  | registerWrite (off : BitVec 16) (size : Nat) (v : DWord)
  /-- `BAR4_ACCESS` (R519): A host read or write through BAR4 reaches GDDR directly, with poisoned or zero
  reads and discarded writes at absent or reserved ranges. -/
  | bar4Access (off : Nat) (len : Nat) (wr : Option (List Byte))
  /-- `FAULT_RECORD_DRAIN` (R232): A fault record waiting in the collector's buffer is written once the fault
  ring has room. -/
  | faultRecordDrain
  /-- `FAULT_RESPONSE_READ` (R230): As the fault ring's head advances, the collector reads the response of
  each record in order and retries or abandons the operations waiting on it. -/
  | faultResponseRead (head : Word) (resps : List Byte)
  /-- `FAULT_SERVICE_TIMEOUT` (R230): A resolvable record with no response read within the service time ends
  its waiting operations as on abandon. -/
  | faultServiceTimeout (seq : Nat)
  /-- `TLB_MISS_WALK` (R225): A TLB miss starts a page-table walk on the walker pool of its brim die, shared
  by misses to the same page. -/
  | tlbMissWalk (tlb : TlbId) (ctx : Nat) (va : BitVec 48) (write : Bool)
  /-- `NOP` (R295): Does nothing. -/
  | nop (c : CoreId) (p : PvisWords)
  /-- `LI` (R295): Loads an immediate into a scalar register. -/
  | li (c : CoreId) (p : PvisWords)
  /-- `ALU` (R295): Applies an integer operation to two scalar registers. -/
  | alu (c : CoreId) (p : PvisWords)
  /-- `ALUI` (R295): Applies an integer operation to a scalar register and an immediate. -/
  | alui (c : CoreId) (p : PvisWords)
  /-- `SYS` (R295): Reads a system item, such as the core, cluster, grade or a RUN argument, into a register.
  -/
  | sys (c : CoreId) (p : PvisWords)
  /-- `BR` (R295): Branches by a signed word offset when its condition holds. -/
  | br (c : CoreId) (p : PvisWords)
  /-- `LOOP` (R295): Decrements a counter register and branches back while it is not zero. -/
  | loop (c : CoreId) (p : PvisWords)
  /-- `LEVEL` (R34): Reads a queue's level into a register. -/
  | level (c : CoreId) (p : PvisWords)
  /-- `COND` (R295): Waits for the masked engines, then reads and optionally clears the condition word. -/
  | cond (c : CoreId) (p : PvisWords)
  /-- `BANK` (R38): Switches the core to the other instruction-store bank, waiting until that bank is ready.
  -/
  | bank (c : CoreId) (p : PvisWords)
  /-- `BANK_READY` (R38): A bank that a core waits to switch to becomes ready, and the core starts fetching
  from it. -/
  | bankReady (c : CoreId)
  /-- `END` (R38): Ends the core's role and removes its contribution to the bank's fetch count. -/
  | endRole (c : CoreId) (p : PvisWords)
  /-- `QTOK` (R297): Pushes a token entry into a queue end. -/
  | qtok (c : CoreId) (p : PvisWords)
  /-- `QSKIP` (R297): Pops and discards entries of a queue end. -/
  | qskip (c : CoreId) (p : PvisWords)
  /-- `QWAIT` (R297): Waits until a queue's level compares true with a value. -/
  | qwait (c : CoreId) (p : PvisWords)
  /-- `QWAIT_SATISFIED` (R297): The queue level a QWAIT waits for is reached and the control unit resumes. -/
  | qwaitSatisfied (c : CoreId)
  /-- `QUEUE_PUSH_RESUME` (R29): A push that waited on a full queue completes once a slot frees. -/
  | queuePushResume (c : CoreId) (e : Fin 12)
  /-- `QUEUE_POP_RESUME` (R29): A pop that waited on an empty queue completes once an entry arrives. -/
  | queuePopResume (c : CoreId) (e : Fin 12)
  /-- `TOKEN_ARRIVAL` (R31): A token entry reaches the head of an input end, and the command waiting for it
  starts or ends its context. -/
  | tokenArrival (c : CoreId) (e : Fin 12)
  /-- `MMA` (R298): Runs one tile command on the matrix array in glove, mitten or broadcast mode. -/
  | mma (c : CoreId) (p : PvisWords)
  /-- `COMBINE` (R299): Adds partials popped from qx_in into an accumulator set and optionally drains it. -/
  | combine (c : CoreId) (p : PvisWords)
  /-- `DRAIN` (R299): Drains an accumulator set to an output end. -/
  | drain (c : CoreId) (p : PvisWords)
  /-- `GATE` (R300): Runs tiles through the gate pipeline's scale, function, scale and narrowing stages. -/
  | gate (c : CoreId) (p : PvisWords)
  /-- `GLSTM` (R105): Runs the fused LSTM combination over gate tiles. -/
  | glstm (c : CoreId) (p : PvisWords)
  /-- `GGRU` (R106): Runs the fused GRU combination over gate tiles. -/
  | ggru (c : CoreId) (p : PvisWords)
  /-- `GCACC` (R108): Runs compensated accumulation on twin-word pairs held in carry rows. -/
  | gcacc (c : CoreId) (p : PvisWords)
  /-- `VADD` (R302): Lane-wise addition. -/
  | vadd (c : CoreId) (p : PvisWords)
  /-- `VMUL` (R302): Lane-wise multiplication. -/
  | vmul (c : CoreId) (p : PvisWords)
  /-- `VFMA` (R302): Lane-wise fused multiply-add. -/
  | vfma (c : CoreId) (p : PvisWords)
  /-- `VCMP` (R302): Lane-wise comparison that writes a mask register. -/
  | vcmp (c : CoreId) (p : PvisWords)
  /-- `VSEL` (R302): Lane-wise select under a mask, or pass-through. -/
  | vsel (c : CoreId) (p : PvisWords)
  /-- `VMIN` (R302): Lane-wise IEEE minimum. -/
  | vmin (c : CoreId) (p : PvisWords)
  /-- `VMAX` (R302): Lane-wise IEEE maximum. -/
  | vmax (c : CoreId) (p : PvisWords)
  /-- `VLD` (R303): Loads scratchpad lines into a queue, the broadcast register or carry rows. -/
  | vld (c : CoreId) (p : PvisWords)
  /-- `VST` (R303): Stores qv_out entries or carry rows to scratchpad lines. -/
  | vst (c : CoreId) (p : PvisWords)
  /-- `VBC` (R303): Pops one entry into the broadcast register. -/
  | vbc (c : CoreId) (p : PvisWords)
  /-- `LBDECL` (R304): Declares a line buffer. -/
  | lbdecl (c : CoreId) (p : PvisWords)
  /-- `CONV` (R305): Runs a direct convolution over an output row range. -/
  | conv (c : CoreId) (p : PvisWords)
  /-- `HSEND` (R306): Sends halo rows into the consumer's next halo slot under its flag. -/
  | hsend (c : CoreId) (p : PvisWords)
  /-- `HRECV` (R306): Receives halo rows from a halo slot into the line buffer and clears the flag. -/
  | hrecv (c : CoreId) (p : PvisWords)
  /-- `DMARD` (R307): Brings data into the core from an object or the scratchpad. -/
  | dmard (c : CoreId) (p : PvisWords)
  /-- `DMAWR` (R307): Sends data out of the core to an object, remote lines or a remote queue. -/
  | dmawr (c : CoreId) (p : PvisWords)
  /-- `ATTN` (R309): Runs the attention pass for the rows of a length table. -/
  | attn (c : CoreId) (p : PvisWords)
  /-- `PAGE_FETCH_DONE` (R187): A fetch back completes, the page becomes tier gddr and its waiting pass
  resumes. -/
  | pageFetchDone (page : Nat) (readOk : Bool)
  /-- `KVAPP` (R310): Appends keys, values or latent rows to lists, plainly or as a verifying append. -/
  | kvapp (c : CoreId) (p : PvisWords)
  /-- `KVPF` (R310): Prefetches the spilled pages of a position range. -/
  | kvpf (c : CoreId) (p : PvisWords)
  /-- `PAGE_SPILL` (R186): When the free stack falls below the reserve, a victim page is copied to host memory
  or flash. -/
  | pageSpill (forBestEffort : Bool)
  /-- `SPILL_COPY_DONE` (R186): A spill copy completes, and once readers is 0 the page moves to tier host or
  flash and its frame is freed. -/
  | spillCopyDone (page : Nat)
  /-- `BFORK` (R195): Forks a child branch from a parent at a position. -/
  | bfork (c : CoreId) (p : PvisWords)
  /-- `BKILL` (R195): Kills a branch and drops its references. -/
  | bkill (c : CoreId) (p : PvisWords)
  /-- `BPRUNE` (R195): Kills a branch and all of its descendants. -/
  | bprune (c : CoreId) (p : PvisWords)
  /-- `KILL_WAIT_DONE` (R198): A kill or prune applies once the jobs naming its branches have ended. -/
  | killWaitDone (ctx : Fin 16) (branch : Nat)
  /-- `BCOMMIT` (R204): Ends a verification, keeping a accepted candidates and rolling back the lists. -/
  | bcommit (c : CoreId) (p : PvisWords)
  /-- `SAMPLE` (R312): Chooses the token at one position of a branch from its logits. -/
  | sample (c : CoreId) (p : PvisWords)
  /-- `VERIFY` (R313): Decides the accepted count of a verifying branch in match or ratio mode. -/
  | verify (c : CoreId) (p : PvisWords)
  /-- `SMODAL` (R150): Per-step update of modal long-convolution streams. -/
  | smodal (c : CoreId) (p : PvisWords)
  /-- `SSCAN` (R152): One phase of the chunked-scan form. -/
  | sscan (c : CoreId) (p : PvisWords)
  /-- `SCELL` (R154): One step of a gated-cell stream. -/
  | scell (c : CoreId) (p : PvisWords)
  /-- `SRESET` (R143): Sets reset on streams and applies it at this point of the program. -/
  | sreset (c : CoreId) (p : PvisWords)
  /-- `SANCHOR` (R314): Sets anchor_ptr and reset on streams. -/
  | sanchor (c : CoreId) (p : PvisWords)
  /-- `GATHER` (R247): Hands a bag of keys to the gather engine for hashing, lookup and pooling. -/
  | gather (c : CoreId) (p : PvisWords)
  /-- `GATHER_BAG_DELIVER` (R248): Once every row of a bag has arrived, the engine pools them and pushes the
  result into the destination queues. -/
  | gatherBagDeliver (bag : Nat)
  /-- `TPF` (R253): Prefetches the table pages of a key list. -/
  | tpf (c : CoreId) (p : PvisWords)
  /-- `SCATTER` (R257): Adds delta rows for keys into the owning module's update cache. -/
  | scatter (c : CoreId) (p : PvisWords)
  /-- `TABLE_FILL_DONE` (R251): A table-cache fill completes, clears filling and serves its joined lookups. -/
  | tableFillDone (table : Nat) (copy : Nat) (page : Nat)
  /-- `WRITE_BACK` (R259): With the update cache three quarters full, dirty pages are merged, written to flash
  and sent to the buddy. -/
  | writeBack (table : Nat) (page : Nat)
  /-- `FSET` (R316): Sets a flag once the earlier commands of the masked engines have completed. -/
  | fset (c : CoreId) (p : PvisWords)
  /-- `FCLR` (R316): Clears a flag once the earlier commands of the masked engines have completed. -/
  | fclr (c : CoreId) (p : PvisWords)
  /-- `FWAITS` (R316): Waits until a flag is set. -/
  | fwaits (c : CoreId) (p : PvisWords)
  /-- `FWAITC` (R316): Waits until a flag is clear. -/
  | fwaitc (c : CoreId) (p : PvisWords)
  /-- `FLAG_WAIT_SATISFIED` (R327): A flag's home serves a change that satisfies a registered wait, and the
  waiter resumes. -/
  | flagWaitSatisfied (c : CoreId)
  /-- `HBARR` (R334): Records the core's arrival on a hatband line. -/
  | hbarr (c : CoreId) (p : PvisWords)
  /-- `HBWAIT` (R334): Waits for the release of the phase in which the core arrived. -/
  | hbwait (c : CoreId) (p : PvisWords)
  /-- `HATBAND_RELEASE` (R333): When every enrolled tap has arrived, the keeper inverts the release sense and
  releases the waiting taps. -/
  | hatbandRelease (line : Fin 16)
  /-- `CTAKE` (R40): Atomically takes n from a work counter. -/
  | ctake (c : CoreId) (p : PvisWords)
  /-- `CPEEK` (R40): Reads a work counter's value, epoch and wrap bit. -/
  | cpeek (c : CoreId) (p : PvisWords)
  /-- `CSET` (R40): Sets a work counter and advances its epoch. -/
  | cset (c : CoreId) (p : PvisWords)
  /-- `FENCE` (R319): Stalls issue until the masked engines' writes are visible at the scope. -/
  | fence (c : CoreId) (p : PvisWords)
  /-- `EVMARK` (R320): Raises the program marker event. -/
  | evmark (c : CoreId) (p : PvisWords)
  /-- `EVSNAP` (R476): Writes a snapshot of the cluster's visor counters for the issuing context. -/
  | evsnap (c : CoreId) (p : PvisWords)
  /-- `NULL_ENGINE_COMMAND` (R50): A raw native command aimed at a fused-off engine pushes poisoned tokens and
  raises ENGINE_ABSENT. -/
  | nullEngineCommand (c : CoreId) (ends : List (Fin 12)) (tok : Option (BitVec 6))
  /-- `CLUSTER_RETIRE` (R47): A cluster whose errors pass the limits is preempted, copied to its island's
  liner and remapped. -/
  | clusterRetire (cl : ClusterId) (badLines : List (Nat × Nat))
  /-- `FAILING_PORT_DISABLE` (R446): 5 ms after a FAILING declaration, the module disables its ports. -/
  | failingPortDisable
  /-- `GDDR_TEMP_READ` (R214): Every 1 ms each site controller reads its devices' temperatures and updates the
  site's state. -/
  | gddrTempRead (site : Fin 16) (t0 t1 : Nat)
  /-- `POISON_BLOCK_MERGE` (R219): A full poison directory merges the 64 KiB block with the most entries into
  one block entry. -/
  | poisonBlockMerge (site : Fin 16)
  /-- `NVME_COMPLETION_POLL` (R237): The flash queue helper polls a drive's completion queues by phase tag and
  completes the NVMe commands it finds. -/
  | nvmeCompletionPoll (port : Fin 4) (done : List (Nat × Bool))
  /-- `DRIVE_BRING_UP` (R238): After service-ready the helper trains each flash port, enables the controller
  and creates its queues. -/
  | driveBringUp (port : Fin 4) (gen width lbas grant : Nat) (nsids : List Nat) (wrr : Bool)
  /-- `DRIVE_READY_TIMEOUT` (R238): A drive not ready within its ready timeout is marked offline. -/
  | driveReadyTimeout (port : Fin 4)
  /-- `HEDGE_TIMEOUT` (R255): A page read not delivered within hedge_us is sent to the buddy copy's holder. -/
  | hedgeTimeout (read : Nat)
  /-- `NVME_COMMAND_TIMEOUT` (R255): An NVMe command not complete in 100 ms is aborted, and its read is
  retried once. -/
  | nvmeCommandTimeout (port : Fin 4) (cid : Nat)
  /-- `READ_GIVE_UP` (R255): A row still without data after 200 ms is delivered poisoned. -/
  | readGiveUp (read : Nat)
  /-- `REMOTE_ROW_TIMEOUT` (R255): A remote row request unanswered for 100 ms is treated as an NVMe timeout on
  that copy. -/
  | remoteRowTimeout (read : Nat)
  /-- `PORT_DETECT_TIMEOUT` (R403): A port in detect without signal for 100 ms returns to disabled and retries
  every 1 s. -/
  | portDetectTimeout (port : Fin 16)
  /-- `PORT_EQUALISE_DONE` (R403): Equalisation of a port completes or fails within 60 ms. -/
  | portEqualiseDone (port : Fin 16) (lanes : Byte)
  /-- `PORT_FEC_LOCK_DONE` (R403): Codeword lock with the required error rate completes, and the port moves to
  identify. -/
  | portFecLockDone (port : Fin 16) (lanes : Byte)
  /-- `IDENTITY_FLIT` (R404): A received identity flit is checked, and the link is refused or moves to
  credit_init. -/
  | identityFlit (port : Fin 16) (info : IdleInfo)
  /-- `CREDIT_INIT_DONE` (R403): Both sides' credit announcements are received and the port becomes active. -/
  | creditInitDone (port : Fin 16) (credits : List (Nat × Nat × Nat))
  /-- `DATA_FLIT` (R407): A received data flit is accepted and acknowledged, or discarded with a nak. -/
  | dataFlit (port : Fin 16) (h : FlitHdr) (pkt : Option Packet)
  /-- `IDLE_FLIT` (R406): A received idle flit delivers health state and credit returns. -/
  | idleFlit (port : Fin 16) (h : FlitHdr) (info : IdleInfo)
  /-- `NAK_FLIT` (R407): A received nak makes the sender resend its replay buffer from the named seq. -/
  | nakFlit (port : Fin 16) (h : FlitHdr) (seq : Nat)
  /-- `NAK_REPEAT` (R407): Every 2 µs while it still waits, the receiver sends its nak again. -/
  | nakRepeat (port : Fin 16)
  /-- `RETRAIN_DONE` (R403): A retrain completes and the port resumes from its oldest unacknowledged flit, or
  goes down. -/
  | retrainDone (port : Fin 16) (lanes : Byte)
  /-- `HEARTBEAT_IDLE` (R406): At least every 1 µs a port sends an idle flit as a heartbeat. -/
  | heartbeatIdle (port : Fin 16)
  /-- `LOSS_OF_SIGNAL` (R427): Loss of signal on every lane in use marks an active port down. -/
  | lossOfSignal (port : Fin 16)
  /-- `PORT_SILENCE_TIMEOUT` (R427): An active port that decodes no good codeword for 10 µs goes down. -/
  | portSilenceTimeout (port : Fin 16)
  /-- `HELD_PACKET_TIMEOUT` (R428): Packets held for a down port pair for 5 ms are discarded. -/
  | heldPacketTimeout (port : Fin 16)
  /-- `REQUEST_TIMEOUT` (R429): A fabric request unanswered for 100 ms ends its job with PARTICIPANT_LOST. -/
  | requestTimeout (tag : Nat)
  /-- `WRITE_PACKET` (R412): A received remote write is translated at the destination, applied, and
  acknowledged once visible. -/
  | writePacket (pkt : Packet)
  /-- `READ_REQUEST_PACKET` (R411): A received read request is served and answered with a read response. -/
  | readRequestPacket (pkt : Packet)
  /-- `READ_RESPONSE_PACKET` (R411): A received read response delivers data to the requesting command. -/
  | readResponsePacket (pkt : Packet)
  /-- `WRITE_ACKNOWLEDGEMENT` (R412): A received write acknowledgement lets fences and flag ops that cover the
  write complete. -/
  | writeAcknowledgement (pkt : Packet)
  /-- `REMOTE_QUEUE_PUSH` (R413): A received remote queue push is held per channel and moved into the
  consumer's qd_in as slots free. -/
  | remoteQueuePush (pkt : Packet)
  /-- `FLAG_CHANGE_PACKET` (R411): A received flag change is applied to the named flag. -/
  | flagChangePacket (pkt : Packet)
  /-- `ROW_REQUEST` (R249): A received row request is served from the owner's cache or drives and answered
  with a row response. -/
  | rowRequest (pkt : Packet)
  /-- `ROW_RESPONSE` (R249): A received row response delivers the row into its reserved buffer. -/
  | rowResponse (pkt : Packet)
  /-- `COLLECTIVE_DATA` (R424): Received collective data is summed by the reduction unit into staging and
  forwarded, or written to the buffer. -/
  | collectiveData (pkt : Packet)
  /-- `COLLECTIVE_GRANT` (R421): A received grant allows the next bucket to be sent. -/
  | collectiveGrant (pkt : Packet)
  /-- `COLLECTIVE_TRIGGER` (R420): When its turn has come and its trigger flag is set, a collective operation
  starts. -/
  | collectiveTrigger (group : Fin 64)
  /-- `COLLECTIVE_OPERATION_DONE` (R420): A collective operation ends and sets its done flag once its writes
  are visible. -/
  | collectiveOperationDone (group : Fin 64)
  /-- `COLLECTIVE_WATCHDOG` (R426): A bucket without progress for watchdog_ms ends the operation with
  COLLECTIVE_TIMEOUT. -/
  | collectiveWatchdog (group : Fin 64)
  /-- `HEALTH_PACKET` (R444): A received health packet records a peer's slow, normal or failing state. -/
  | healthPacket (xyz : Nat × Nat × Nat) (state reason site : Nat)
  /-- `SLOW_HEALTH_TIMER` (R444): Every 100 ms while slow, the module sends health packets to the members of
  its groups. -/
  | slowHealthTimer
  /-- `SLOW_EXTENSION_END` (R445): 1 s after a peer's last slow packet, the watchdog extension ends. -/
  | slowExtensionEnd (xyz : Nat × Nat × Nat)
  /-- `SILENCE_REPORT` (R430): A received silence report tells the spare that a neighbour's links to a member
  went silent. -/
  | silenceReport (reporter : Nat) (xyz : Nat × Nat × Nat)
  /-- `SILENCE_ENDED` (R430): A received message tells the spare that a neighbour's links to a member
  returned. -/
  | silenceEnded (reporter : Nat) (xyz : Nat × Nat × Nat)
  /-- `SILENCE_DECLARATION_TIMEOUT` (R430): After 1 ms of total silence around a member, the spare declares it
  lost. -/
  | silenceDeclarationTimeout (x : Byte)
  /-- `SUPERVISOR_LOST` (R432): A received lost message raises module_lost, applies detour routes and ends the
  jobs that depend on the lost module. -/
  | supervisorLost (xyz : Nat × Nat × Nat) (reason : Nat)
  /-- `SUPERVISOR_TAKEOVER_READY` (R432): A received takeover ready message about a lost member. -/
  | supervisorTakeoverReady (xyz : Nat × Nat × Nat) (reason : Nat)
  /-- `SUPERVISOR_RELEASE` (R442): A received release message restores normal routes for the coordinate. -/
  | supervisorRelease (xyz : Nat × Nat × Nat)
  /-- `CABLE_CUT_TIMEOUT` (R431): Both − ports of a direction down for 2 ms with no declaration make the
  module FAILING with reason link. -/
  | cableCutTimeout (dim : Fin 3)
  /-- `TAKEOVER_BEGIN` (R439): The spare finishes copying the lost member's header and blob slots and raises
  takeover_begin. -/
  | takeoverBegin (header slots : List Byte)
  /-- `TAKEOVER_LOAD_MODEL` (R440): LOAD_MODEL on a spare with an active takeover writes its weights from the
  buddy when possible and raises takeover_ready. -/
  | takeoverLoadModel (id : Nat) (img : Image) (blk : ModelBlock) (buddyHash : BitVec 384) (ws : List WeightLine)
      (objs : List (Nat × Nat × List Byte))
  /-- `SHARD_COPY_DONE` (R441): The spare's background copy of a shard ends and raises shard_copy_done. -/
  | shardCopyDone (table : Nat) (copy : Nat)
  /-- `VOLTAGE_LOOP_INTERVAL` (R457): Every 10 µs each island's loop sets its voltage to its bounded
  preference. -/
  | voltageLoopInterval (isl : Fin 256) (busy total rate : Nat) (limiting : Bool)
  /-- `ENFORCER_INTERVAL` (R460): Every 100 µs the limit enforcer compares input power with the ceiling and
  moves the common cap. -/
  | enforcerInterval (watts : Nat)
  /-- `THERMAL_ESTIMATE` (R464): Every 100 µs the estimator forms hot spots and lowers or releases thermal
  caps. -/
  | thermalEstimate (isl : Fin 256) (estimate dieHottest : Nat)
  /-- `WARMUP_END` (R466): After 100 ms of readings the thermal estimator leaves warm-up. -/
  | warmupEnd
  /-- `THERMAL_TRIP` (R464): A sensor at 115 °C switches the regulators off and latches THERMTRIP_N. -/
  | thermalTrip
  /-- `POWER_BRAKE_ASSERT` (R465): PWR_BRAKE_N driven low caps every island at 0.55 V. -/
  | powerBrakeAssert
  /-- `POWER_BRAKE_DEASSERT` (R465): PWR_BRAKE_N driven high again lets the brake release. -/
  | powerBrakeDeassert
  /-- `INPUT_OVERCURRENT` (R465): Input current above 45 A for 20 µs applies the brake. -/
  | inputOvercurrent
  /-- `BRAKE_RELEASE` (R465): 1 ms after the current falls below 42 A, the brake releases to the common cap.
  -/
  | brakeRelease
  /-- `UV_HOLD` (R458): An island supply below 0.50 V holds every handshake request in the island. -/
  | uvHold (isl : Fin 256)
  /-- `UV_RELEASE` (R458): An island supply back above 0.52 V ends the hold. -/
  | uvRelease (isl : Fin 256)
  /-- `UV_HOLD_TIMEOUT` (R458): A hold longer than 10 ms makes the module FAILING. -/
  | uvHoldTimeout (isl : Fin 256)
  /-- `INPUT_POWER_ON` (R498): Input rising above 45 V starts the power-up sequence up to PWR_OK. -/
  | inputPowerOn (slot : Fin 8) (railsOk : Bool)
  /-- `INPUT_UNDERVOLTAGE` (R500): Input below 43 V, or a rail leaving regulation, shuts the module down. -/
  | inputUndervoltage
  /-- `INPUT_OVERVOLTAGE` (R497): Input above 61 V switches the module off and asserts THERMTRIP_N. -/
  | inputOvervoltage
  /-- `PERST_ASSERT` (R502): Assertion of PERST# resets the module's host-side state and holds GDDR and the
  drives in reset. -/
  | perstAssert
  /-- `PERST_RELEASE` (R487): Release of PERST# starts the timer and the boot: ROM verification, link training
  and self-test. -/
  | perstRelease (a b : SlotCheck) (bistFails : List Nat) (link : Word)
  /-- `GDDR_TRAINING` (R213): Each site trains at 40, 36 or 32 Gb/s, or goes offline. -/
  | gddrTraining (site : Fin 16) (rate : Nat)
  /-- `SERVICE_READY` (R487): The Crown sets service_ready, enabling ring fetches and the pending enables. -/
  | serviceReady (drives : BitVec 4)
  /-- `TELEMETRY_SAMPLE` (R478): Every 1 ms the sequencer samples the sensors into the snapshot buffer. -/
  | telemetrySample (t : Telemetry)
  /-- `CROWN_WATCHDOG_EXPIRY` (R479): 250 ms without a heartbeat resets the Crown alone and raises
  crown_reset. -/
  | crownWatchdogExpiry
  /-- `CROWN_RETURN` (R479): The reset Crown returns to service, ends every context and posts the outstanding
  completions. -/
  | crownReturn (a b : SlotCheck)
  /-- `SMBUS_FALLBACK` (R481): If the controller has not started I3C within 1 s of PWR_OK, MCTP runs over
  SMBus. -/
  | smbusFallback
  /-- `SET_ENDPOINT_ID` (R481): MCTP control message that assigns the EID. -/
  | setEndpointId (eid : Byte)
  /-- `GET_ENDPOINT_ID` (R481): MCTP control message that returns the EID. -/
  | getEndpointId
  /-- `GET_MCTP_VERSION_SUPPORT` (R481): MCTP control message that returns version support. -/
  | getMctpVersionSupport
  /-- `GET_MESSAGE_TYPE_SUPPORT` (R481): MCTP control message that returns the message types. -/
  | getMessageTypeSupport
  /-- `GET_VENDOR_DEFINED_MESSAGE_SUPPORT` (R481): MCTP control message that returns vendor-defined support.
  -/
  | getVendorDefinedMessageSupport
  /-- `GETTID` (R481): PLDM Type 0 GetTID. -/
  | gettid
  /-- `GETPLDMVERSION` (R481): PLDM Type 0 GetPLDMVersion. -/
  | getpldmversion
  /-- `GETPLDMTYPES` (R481): PLDM Type 0 GetPLDMTypes. -/
  | getpldmtypes
  /-- `GETPLDMCOMMANDS` (R481): PLDM Type 0 GetPLDMCommands. -/
  | getpldmcommands
  /-- `GETSENSORREADING` (R482): Returns a numeric sensor reading from the newest snapshot. -/
  | getsensorreading (sensor : Nat)
  /-- `GETSTATESENSORREADINGS` (R482): Returns the health or Crown state sensor. -/
  | getstatesensorreadings (sensor : Nat)
  /-- `GETNUMERICEFFECTERVALUE` (R482): Returns the management ceiling. -/
  | getnumericeffectervalue (effecter : Nat)
  /-- `SETNUMERICEFFECTERVALUE` (R482): Sets the management ceiling, clamped to 600 to 2,000 W. -/
  | setnumericeffectervalue (effecter : Nat) (v : Nat)
  /-- `GETPDRREPOSITORYINFO` (R482): Returns PDR repository information. -/
  | getpdrrepositoryinfo
  /-- `GETPDR` (R482): Returns a PDR. -/
  | getpdr (record : Nat)
  /-- `POLLFORPLATFORMEVENTMESSAGE` (R483): Drains the oldest alert from the alert queue. -/
  | pollforplatformeventmessage
  /-- `REQUESTUPDATE` (R484): Starts a firmware update, or refuses a second one with ALREADY_IN_UPDATE_MODE.
  -/
  | requestupdate
  /-- `GETPACKAGEDATA` (R484): PLDM Type 5 GetPackageData, which has no package data. -/
  | getpackagedata
  /-- `PASSCOMPONENTTABLE` (R484): Passes the component table. -/
  | passcomponenttable (classification ident : Nat)
  /-- `UPDATECOMPONENT` (R484): Starts the transfer of the firmware component. -/
  | updatecomponent (ident size : Nat)
  /-- `REQUESTFIRMWAREDATA` (R484): Transfers up to 4,096 bytes of the component into the slot that did not
  boot. -/
  | requestfirmwaredata (offset : Nat) (data : List Byte)
  /-- `TRANSFERCOMPLETE` (R484): Ends the component transfer. -/
  | transfercomplete (result : Nat)
  /-- `VERIFYCOMPLETE` (R484): Reports the result of checking the signature and security version. -/
  | verifycomplete (chk : SlotCheck)
  /-- `APPLYCOMPLETE` (R484): Reports that the component has been applied. -/
  | applycomplete (result : Nat)
  /-- `ACTIVATEFIRMWARE` (R484): Makes the new slot preferred for delayed activation. -/
  | activatefirmware (delayed : Bool)
  /-- `GETSTATUS` (R484): Returns the update status. -/
  | getstatus
  /-- `CANCELUPDATE` (R484): Cancels the update. -/
  | cancelupdate
  /-- `KEYENROL` (R486): Signed vendor message that enrols an image-signing key in fuses. -/
  | keyenrol (slot : Fin 4) (key : BitVec 384) (signer : Fin 2) (sig : BitVec 768)
  /-- `KEYREVOKE` (R486): Signed vendor message that revokes a key in fuses. -/
  | keyrevoke (firmware : Bool) (slot : Fin 4) (signer : Fin 2) (sig : BitVec 768)
  /-- `GETCERTCHAIN` (R488): Returns the device certificate chain in parts. -/
  | getcertchain (part : Nat)
  /-- `GETATTESTATION` (R489): Returns a signed attestation report for a nonce. -/
  | getattestation (nonce : BitVec 256)
  /-- `SIGNAL_DETECTED` (R403): A port in detect receives signal on at least 4 lanes and enters equalise. -/
  | signalDetected (port : Fin 16) (lanes : Byte)
  /-- `ATS_INVALIDATION_REQUEST` (R349): An ATS invalidation request from the host drops the cached
  translation and completes after every request using it has completed. -/
  | atsInvalidationRequest (addr len : Nat)
  /-- `PAGE_REQUEST_RESPONSE` (R349): A PRI page request response arrives: success retries the waiting access,
  failure raises a host_access_error fault record. -/
  | pageRequestResponse (idx : Nat) (success : Bool)
  /-- `PAGE_REQUEST_TIMEOUT` (R349): A Page Request with no response within the fault ring's service time
  raises a host_access_error fault record. -/
  | pageRequestTimeout (idx : Nat)
  /-- `FLASH_LINK_DOWN` (R256): The link of a flash port goes down, and the helper marks the drive offline and
  redirects its reads to the buddy copy. -/
  | flashLinkDown (port : Fin 4)
  /-- `CONTROLLER_FATAL_STATUS` (R256): A drive's controller reports fatal status, and the helper marks the
  drive offline. -/
  | controllerFatalStatus (port : Fin 4)
  /-- `D3HOT_TRANSITION` (R348): A host power-state change to D3hot is accepted only while no context exists.
  -/
  | d3hotTransition (toD3 : Bool)
  /-- `DYNAMIC_ADDRESS_ASSIGNMENT` (R481): The I3C controller assigns the module's dynamic address, after
  which it runs as an I3C target and the 50 ns spike filter is removed (R506). -/
  | dynamicAddressAssignment (addr : BitVec 7)
  deriving DecidableEq, Repr

end Sys2Proof
end

