-- ==== Sys2Proof/Decode.lean ====
section
/-!
DEFINITION. The decoder of table words. No row of spec/opcode_table.json gives a command any bits (every row's
"fields" is empty): no word spells a command, so the decoder answers none. The encodings of the PVIS instructions
inside a command's words are read in Machine/Operands.lean.
-/
namespace Sys2Proof

/-- The command a table word of `nbits` bits spells: none, because the table gives no row any bits. -/
def decodeTableWord (_nbits _w : Nat) : Option Instr := none

end Sys2Proof
end

