-- ==== Sys2Proof/Machine/Bits.lean ====
section
/-!
DEFINITION. Bit fields, little-endian byte order, sign extension and the sparse map that every large piece of
state is held in.
-/
namespace Sys2Proof.Machine

/-- The field [hi:lo] of a number (the manual's bit-field notation), as a number. -/
def fld (x hi lo : Nat) : Nat := (x / 2 ^ lo) % 2 ^ (hi + 1 - lo)

/-- Bit `i` of a number. -/
def bitAt (x i : Nat) : Bool := x / 2 ^ i % 2 == 1

/-- `x` with the field [hi:lo] replaced by the low bits of `v`. -/
def setFld (x hi lo v : Nat) : Nat :=
  x - fld x hi lo * 2 ^ lo + v % 2 ^ (hi + 1 - lo) * 2 ^ lo

/-- 1 for true, 0 for false. -/
def b2n (b : Bool) : Nat := if b then 1 else 0

/-- The signed value of the low `w` bits of `x`. -/
def signed (w x : Nat) : Int :=
  if x % 2 ^ w < 2 ^ (w - 1) then (x % 2 ^ w : Nat) else (x % 2 ^ w : Nat) - (2 ^ w : Nat)

/-- A number's two's-complement pattern in `w` bits. -/
def unsigned (w : Nat) (i : Int) : Nat := (i % (2 ^ w : Nat)).toNat

/-- Little-endian bytes to a number (every table of the manual is little-endian). -/
def leNat : List Byte → Nat
  | [] => 0
  | b :: bs => b.toNat + 256 * leNat bs

/-- A number as `n` little-endian bytes. -/
def leBytes : Nat → Nat → List Byte
  | 0, _ => []
  | n + 1, x => BitVec.ofNat 8 x :: leBytes n (x / 256)

/-- ceil(a / b); 0 when b is 0. -/
def ceilDiv (a b : Nat) : Nat := (a + b - 1) / b

/-- `x` rounded up to a multiple of `m`. -/
def roundUp (x m : Nat) : Nat := ceilDiv x m * m

/-- The element at place `i`, or a default. -/
def nth {α : Type} (d : α) (l : List α) (i : Nat) : α := (l[i]?).getD d

/-- The list with place `i` replaced (unchanged when it has no such place). -/
def setNth {α : Type} (l : List α) (i : Nat) (a : α) : List α := l.set i a

/-- (b − a) modulo 2^32: how far a free-running 32-bit count `b` is ahead of `a`. -/
def ahead32 (b a : Nat) : Nat := (b + 2 ^ 32 - a % 2 ^ 32) % 2 ^ 32

/-- `a` is behind `b`, counted modulo 2^32 within a window of 2^31 (R141, R168, R356). -/
def behind32 (a b : Nat) : Bool := decide (0 < ahead32 b a ∧ ahead32 b a < 2 ^ 31)

/-- Sparse data: pairs in rising key order, with no pair whose value equals the default. -/
abbrev SMap (α : Type) := List (Nat × α)

/-- What the map holds at `k`; `d` where nothing is listed. -/
def sget {α : Type} (d : α) : SMap α → Nat → α
  | [], _ => d
  | (k', v) :: m, k => if k' = k then v else sget d m k

/-- The map without key `k`. -/
def sdel {α : Type} : SMap α → Nat → SMap α
  | [], _ => []
  | (k', v) :: m, k => if k' = k then sdel m k else (k', v) :: sdel m k

/-- The map with the pair (k, v) put at its place in key order. -/
def sins {α : Type} : SMap α → Nat → α → SMap α
  | [], k, v => [(k, v)]
  | (k', v') :: m, k, v => if k < k' then (k, v) :: (k', v') :: m else (k', v') :: sins m k v

/-- Write `v` at `k`, keeping the canonical form: writing the default removes the pair. -/
def sset {α : Type} [DecidableEq α] (d : α) (m : SMap α) (k : Nat) (v : α) : SMap α :=
  if v = d then sdel m k else sins (sdel m k) k v

/-- Change what stands at `k`. -/
def smod {α : Type} [DecidableEq α] (d : α) (m : SMap α) (k : Nat) (f : α → α) : SMap α :=
  sset d m k (f (sget d m k))

/-- Every key of the map is above `k`. -/
def sabove {α : Type} (k : Nat) (m : SMap α) : Bool := m.all (fun p => decide (k < p.1))

/-- The canonical form: keys strictly rising, no value equal to the default. -/
def swf {α : Type} [DecidableEq α] (d : α) : SMap α → Bool
  | [] => true
  | (k, v) :: m => decide (v ≠ d) && sabove k m && swf d m

end Sys2Proof.Machine
end

