-- ==== Sys2Proof/Machine/Elementary.lean ====
section
/-!
DEFINITION. The exact values of the gate functions' definitions (R103), in fixed point with 320 fraction bits. R104
bounds a result by its distance from the exact value; these are close enough to it to decide that bound.
-/
namespace Sys2Proof.Machine

open Sys2Proof

/-- Fraction bits of the fixed-point values of this file. -/
def fracBits : Nat := 320

/-- One, in fixed point. -/
def fxOne : Int := 2 ^ fracBits

/-- ln 2, in fixed point. -/
def fxLn2 : Int := 0xb17217f7d1cf79abc9e3b39803f2f6af40f343267298b62d8a0d175b8baafa2be7b876206debac98

/-- The product, in fixed point. -/
def fxMul (a b : Int) : Int := a * b / fxOne

/-- The quotient, in fixed point; `b` is not zero. -/
def fxDiv (a b : Int) : Int := a * fxOne / b

/-- The sum of r^n / n! from term `n` on, `t` being term n, over `fuel` terms. -/
def expTerms (r : Int) : Nat → Nat → Int → Int
  | 0, _, _ => 0
  | fuel + 1, n, t => t + expTerms r fuel (n + 1) (fxMul t r / (n + 1 : Nat))

/-- x shifted left by k bits, right where k is negative. -/
def shiftBy (x k : Int) : Int := if 0 ≤ k then x * 2 ^ k.toNat else x / 2 ^ (-k).toNat

/-- 2^k · e^r for 0 ≤ r < 1. -/
def expScaled (k r : Int) : Int := shiftBy (expTerms r 90 0 fxOne) k

/-- e^z. -/
def fxExp (z : Int) : Int := expScaled (z / fxLn2) (z % fxLn2)

/-- 2^z. -/
def fxExp2 (z : Int) : Int := expScaled (z / fxOne) (fxMul (z % fxOne) fxLn2)

/-- A value held to ±256, where every function below has met its limit in FP32. -/
def clamp256 (z : Int) : Int := max (-256 * fxOne) (min (256 * fxOne) z)

/-- 1 / (1 + e^−z). -/
def fxSigmoid (z : Int) : Int := fxDiv fxOne (fxOne + fxExp (-clamp256 z))

/-- tanh z. -/
def fxTanh (z : Int) : Int :=
  let e := fxExp (2 * clamp256 z)
  fxDiv (e - fxOne) (e + fxOne)

/-- The sum of s^(2n+1) / (2n+1) from term `n` on, `t` being s^(2n+1), over `fuel` terms. -/
def atanhTerms (s2 : Int) : Nat → Nat → Int → Int
  | 0, _, _ => 0
  | fuel + 1, n, t => t / (2 * n + 1 : Nat) + atanhTerms s2 fuel (n + 1) (fxMul t s2)

/-- ln (1 + y) for y ≥ 0: a power of two and 2 · atanh ((m − 1) / (m + 1)) of the rest m. -/
def fxLog1p (y : Int) : Int :=
  let k : Nat := Nat.log2 ((fxOne + y) / fxOne).toNat
  let m := (fxOne + y) / 2 ^ k
  let s := fxDiv (m - fxOne) (m + fxOne)
  k * fxLn2 + 2 * atanhTerms (fxMul s s) 110 0 s

/-- The integer square root's bits from `k − 1` down, `r` being the bits above. -/
def sqrtBits (n : Nat) : Nat → Nat → Nat
  | 0, r => r
  | k + 1, r => let c := r + 2 ^ k; sqrtBits n k (if c * c ≤ n then c else r)

/-- 1 / √z for z > 0. -/
def fxRsqrt (z : Int) : Int := sqrtBits (2 ^ (3 * fracBits) / z.toNat) 560 0

/-- The exact value of gate function `f` (R300 numbering) at z, where R103 leaves it to the function's definition. -/
def fxGate (f : Nat) (z : Int) : Int :=
  if f = 1 then fxSigmoid z
  else if f = 2 then fxTanh z
  else if f = 3 then fxExp (clamp256 z)
  else if f = 4 then fxExp2 (clamp256 z)
  else if f = 5 then fxMul z (fxSigmoid z)
  else if f = 6 then
    let c := clamp256 z
    let u := fxMul (79788456 * fxOne / 100000000) (c + 44715 * fxMul c (fxMul c c) / 1000000)
    fxMul z (fxSigmoid (2 * u))
  else if f = 7 then fxLog1p (fxExp (clamp256 z))
  else if f = 8 then fxDiv fxOne z
  else fxRsqrt z

/-- R104's bound on a result's distance from the exact value `a`, in fixed point: a number of ulps of FP32 at `a`, for
gelu_tanh 2^−26 more, and 2 × 2^−149 where `a` is subnormal. -/
def gateBound (f : Nat) (a : Int) : Int :=
  let top : Int := (Nat.log2 a.natAbs : Int) - fracBits
  if a = 0 ∨ top < -126 then 2 * 2 ^ (fracBits - 149)
  else
    let ulp : Int := 2 ^ (top - 23 + fracBits).toNat
    if f = 4 ∨ f = 8 then ulp
    else if f = 5 ∨ f = 7 then 3 * ulp
    else if f = 6 then 4 * ulp + 2 ^ (fracBits - 26)
    else 2 * ulp

/-- How far these computations may stand from the exact value `a`. -/
def fxSlack (a : Int) : Int := a.natAbs / 2 ^ 150 + 2 ^ 20

end Sys2Proof.Machine
end

