-- ==== Sys2Proof/Machine/Float.lean ====
section
/-!
DEFINITION. Number formats and exact arithmetic: every value is decoded to sign, integer significand and exponent,
computed exactly, and rounded once at the end (R71 to R80, R88 to R90).
-/
namespace Sys2Proof.Machine

open Sys2Proof

/-- A decoded floating-point value: ± m × 2^e, an infinity or a NaN. -/
inductive Fv where
  | nan
  | inf (neg : Bool)
  | fin (neg : Bool) (m : Nat) (e : Int)
  deriving DecidableEq, Repr, Inhabited

/-- The FP32 quiet NaN (R75, R90, R103). -/
def qnan : Word := 0x7FC0_0000

/-- Number of bits of a natural number: 0 for 0. -/
def bitLen (m : Nat) : Nat := if m = 0 then 0 else Nat.log2 m + 1

/-- m × 2^d rounded to an integer, to nearest, ties to even. -/
def rneShift (m : Nat) (d : Int) : Nat :=
  if 0 ≤ d then m * 2 ^ d.toNat
  else
    let k := (-d).toNat
    let q := m / 2 ^ k
    let r := m % 2 ^ k
    if 2 * r > 2 ^ k || (2 * r == 2 ^ k && q % 2 == 1) then q + 1 else q

/-- Magnitude bits (exponent above mantissa, hidden bit removed by carry) of m × 2^e in a format with `mw` mantissa
bits and least normal exponent `emin`, rounded to nearest even; it may pass the largest finite pattern. -/
def magBits (mw : Nat) (emin : Int) (m : Nat) (e : Int) : Nat :=
  if m = 0 then 0
  else
    let q := max emin (e + (bitLen m : Int) - 1) - mw
    (q - (emin - mw)).toNat * 2 ^ mw + rneShift m (e - q)

/-- Decode an IEEE-like pattern with `ew` exponent bits and `mw` mantissa bits; `special` says whether the top
exponent holds infinities and NaNs. -/
def decFmt (ew mw : Nat) (special : Bool) (x : Nat) : Fv :=
  let bias : Int := 2 ^ (ew - 1) - 1
  let neg := bitAt x (ew + mw)
  let ex := fld x (ew + mw - 1) mw
  let man := x % 2 ^ mw
  if special && ex == 2 ^ ew - 1 then (if man = 0 then .inf neg else .nan)
  else if ex = 0 then .fin neg man (1 - bias - mw)
  else .fin neg (2 ^ mw + man) (ex - bias - mw)

/-- FP32 (IEEE 754 binary32). -/
def f32 (w : Word) : Fv := decFmt 8 23 true w.toNat

/-- Round to FP32, to nearest even; overflow gives infinity, every NaN is the quiet NaN (R75, R90). -/
def toF32 : Fv → Word
  | .nan => qnan
  | .inf n => if n then 0xFF80_0000 else 0x7F80_0000
  | .fin n m e =>
    let b := magBits 23 (-126) m e
    BitVec.ofNat 32 (b2n n * 2 ^ 31 + (if b ≥ 0x7F80_0000 then 0x7F80_0000 else b))

/-- The negated value. -/
def Fv.neg : Fv → Fv
  | .nan => .nan
  | .inf n => .inf (!n)
  | .fin n m e => .fin (!n) m e

/-- The signed significand at a common exponent. -/
def fvInt (neg : Bool) (m : Nat) (e base : Int) : Int :=
  let a : Int := m * 2 ^ (e - base).toNat
  if neg then -a else a

/-- The exact sum; an exact cancellation gives +0, two zeros of one sign keep it (IEEE 754). -/
def Fv.add : Fv → Fv → Fv
  | .nan, _ => .nan
  | _, .nan => .nan
  | .inf a, .inf b => if a = b then .inf a else .nan
  | .inf a, _ => .inf a
  | _, .inf b => .inf b
  | .fin a m e, .fin b n f =>
    let base := min e f
    let s := fvInt a m e base + fvInt b n f base
    if s = 0 then .fin (a && b) 0 0 else .fin (decide (s < 0)) s.natAbs base

/-- The exact product. -/
def Fv.mul : Fv → Fv → Fv
  | .nan, _ => .nan
  | _, .nan => .nan
  | .inf a, .inf b => .inf (a != b)
  | .inf a, .fin b m _ => if m = 0 then .nan else .inf (a != b)
  | .fin a m _, .inf b => if m = 0 then .nan else .inf (a != b)
  | .fin a m e, .fin b n f => if m * n = 0 then .fin (a != b) 0 0 else .fin (a != b) (m * n) (e + f)

/-- The value times 2^k. -/
def Fv.scale (k : Int) : Fv → Fv
  | .fin n m e => .fin n m (e + k)
  | v => v

/-- Three-way comparison of two values that are no NaN: −1, 0 or 1; the zeros are equal. -/
def Fv.cmp : Fv → Fv → Int
  | .inf a, .inf b => if a = b then 0 else if a then -1 else 1
  | .inf a, _ => if a then -1 else 1
  | _, .inf b => if b then 1 else -1
  | .fin a m e, .fin b n f =>
    let base := min e f
    let d := fvInt a m e base - fvInt b n f base
    if d < 0 then -1 else if d = 0 then 0 else 1
  | _, _ => 0

/-- The value is a NaN. -/
def Fv.isNan : Fv → Bool
  | .nan => true
  | _ => false

/-- The value is an infinity. -/
def Fv.isInf : Fv → Bool
  | .inf _ => true
  | _ => false

/-- The sign bit (false for a NaN). -/
def Fv.sign : Fv → Bool
  | .nan => false
  | .inf n => n
  | .fin n _ _ => n

/-- FP32 addition, one rounding. -/
def fadd (a b : Word) : Word := toF32 ((f32 a).add (f32 b))

/-- FP32 subtraction, one rounding. -/
def fsub (a b : Word) : Word := toF32 ((f32 a).add (f32 b).neg)

/-- FP32 multiplication, one rounding. -/
def fmul (a b : Word) : Word := toF32 ((f32 a).mul (f32 b))

/-- FP32 fused multiply-add, one rounding (R90). -/
def ffma (a b c : Word) : Word := toF32 (((f32 a).mul (f32 b)).add (f32 c))

/-- The FP32 value with its sign changed. -/
def fneg (a : Word) : Word := a ^^^ 0x8000_0000

/-- FP32 a < b; false with a NaN. -/
def flt (a b : Word) : Bool :=
  !(f32 a).isNan && !(f32 b).isNan && decide ((f32 a).cmp (f32 b) < 0)

/-- An integer as an FP32 value, to nearest even (R97 stage 1). -/
def intToF32 (i : Int) : Word := toF32 (.fin (decide (i < 0)) i.natAbs 0)

/-- The exact quotient of two FP32 values, rounded once to nearest even; ±x / 0 is an infinity, 0 / 0 a NaN. -/
def fdiv (a b : Word) : Word :=
  match f32 a, f32 b with
  | .nan, _ => qnan
  | _, .nan => qnan
  | .inf _, .inf _ => qnan
  | .inf s, v => toF32 (.inf (s != v.sign))
  | v, .inf s => toF32 (.fin (v.sign != s) 0 0)
  | .fin s m e, .fin t n f =>
    if n = 0 then (if m = 0 then qnan else toF32 (.inf (s != t)))
    else
      let q := m * 2 ^ 80 / n
      let st := if m * 2 ^ 80 % n = 0 then 0 else 1
      toF32 (.fin (s != t) (2 * q + st) (e - f - 81))

/-! ## Element formats (R71, R288) -/

/-- FP8 E4M3: no infinity; NaN is S.1111.111. -/
def decE4m3 (x : Nat) : Fv := if x % 128 = 127 then .nan else decFmt 4 3 false x

/-- FP8 E5M2, as IEEE 754. -/
def decE5m2 (x : Nat) : Fv := decFmt 5 2 true x

/-- MXFP6 E3M2. -/
def decE3m2 (x : Nat) : Fv := decFmt 3 2 false (x % 64)

/-- MXFP6 E2M3. -/
def decE2m3 (x : Nat) : Fv := decFmt 2 3 false (x % 64)

/-- MXFP4 E2M1. -/
def decE2m1 (x : Nat) : Fv := decFmt 2 1 false (x % 16)

/-- A two's-complement integer of `w` bits. -/
def decInt (w x : Nat) : Fv :=
  let i := signed w x
  .fin (decide (i < 0)) i.natAbs 0

/-- The value of one element of format `f` (R288 codes) given as its bits. -/
def decElem (f x : Nat) : Fv :=
  if f = 0x0 then decFmt 8 23 true x
  else if f = 0x1 then decFmt 8 7 true x
  else if f = 0x2 then decFmt 5 10 true x
  else if f = 0x3 || f = 0x5 then decE4m3 (x % 256)
  else if f = 0x4 || f = 0x6 then decE5m2 (x % 256)
  else if f = 0x7 || f = 0xE then decE3m2 x
  else if f = 0x8 || f = 0xF then decE2m3 x
  else if f = 0x9 then decE2m1 x
  else if f = 0xA then (decInt 8 x).scale (-6)
  else if f = 0xB then decInt 8 x
  else if f = 0xC then decInt 4 x
  else decInt 32 x

/-- Bits of one element in memory: packed MXFP6 takes 6. -/
def elemBits (f : Nat) : Nat :=
  if f = 0x0 || f = 0xD then 32
  else if f = 0x1 || f = 0x2 then 16
  else if f = 0x9 || f = 0xC then 4
  else if f = 0xE || f = 0xF then 6
  else 8

/-- The format carries an E8M0 scale per 32 elements (R71). -/
def isMx (f : Nat) : Bool :=
  f = 0x5 || f = 0x6 || f = 0x7 || f = 0x8 || f = 0x9 || f = 0xA || f = 0xE || f = 0xF

/-- The exponent of an E8M0 scale; none for 0xFF, the NaN scale (R73). -/
def e8m0 (b : Nat) : Option Int := if b = 0xFF then none else some ((b : Int) - 127)

/-! ## Narrowing (R78, R80) -/

/-- What a narrowing gives: the bits and whether it sets sat. -/
structure Narrow where
  bits : Nat
  sat : Bool := false
  deriving DecidableEq, Repr, Inhabited

/-- Magnitude bits with stochastic rounding (R80): the word's top d bits are added to the d discarded bits and the
result truncated. -/
def magBitsSr (mw : Nat) (emin : Int) (m : Nat) (e : Int) (word : Nat) : Nat :=
  if m = 0 then 0
  else
    let q := max emin (e + (bitLen m : Int) - 1) - mw
    let d := (q - e).toNat
    let n := if q ≤ e then m * 2 ^ (e - q).toNat else (m + word * 2 ^ d / 2 ^ 32) / 2 ^ d
    (q - (emin - mw)).toNat * 2 ^ mw + n

/-- Magnitude bits by the rounding asked for: `none` to nearest even, a word for stochastic rounding. -/
def magRound (mw : Nat) (emin : Int) (m : Nat) (e : Int) : Option Nat → Nat
  | none => magBits mw emin m e
  | some w => magBitsSr mw emin m e w

/-- Narrow to BF16. -/
def toBf16 (keep : Bool) (sr : Option Nat) : Fv → Narrow
  | .nan => ⟨0x7FC0, false⟩
  | .inf n => ⟨b2n n * 0x8000 + 0x7F80, false⟩
  | .fin n m e =>
    let b := magRound 7 (-126) m e sr
    let b := if b ≥ 0x7F80 then 0x7F80 else if b < 0x80 && !keep then 0 else b
    ⟨b2n n * 0x8000 + b, false⟩

/-- Narrow to FP16. -/
def toFp16 : Fv → Narrow
  | .nan => ⟨0x7E00, false⟩
  | .inf n => ⟨b2n n * 0x8000 + 0x7C00, false⟩
  | .fin n m e =>
    let b := magBits 10 (-14) m e
    ⟨b2n n * 0x8000 + (if b ≥ 0x7C00 then 0x7C00 else b), false⟩

/-- Narrow to FP8 E4M3: saturates to ±448; a NaN keeps its sign, which is an argument because `Fv` holds none. -/
def toE4m3 (nanSign : Bool) (sr : Option Nat) : Fv → Narrow
  | .nan => ⟨b2n nanSign * 0x80 + 0x7F, false⟩
  | .inf n => ⟨b2n n * 0x80 + 0x7E, true⟩
  | .fin n m e =>
    let b := magRound 3 (-6) m e sr
    if b > 0x7E then ⟨b2n n * 0x80 + 0x7E, true⟩ else ⟨b2n n * 0x80 + b, false⟩

/-- Narrow to FP8 E5M2. -/
def toE5m2 (nanSign : Bool) (sr : Option Nat) : Fv → Narrow
  | .nan => ⟨b2n nanSign * 0x80 + 0x7F, false⟩
  | .inf n => ⟨b2n n * 0x80 + 0x7C, false⟩
  | .fin n m e =>
    let b := magRound 2 (-14) m e sr
    ⟨b2n n * 0x80 + (if b ≥ 0x7C then 0x7C else b), false⟩

/-- Narrow to E2M1, saturating to ±6 (R79). -/
def toE2m1 : Fv → Narrow
  | .nan => ⟨0, false⟩
  | .inf n => ⟨b2n n * 8 + 7, true⟩
  | .fin n m e =>
    let b := magBits 1 0 m e
    if b > 7 then ⟨b2n n * 8 + 7, true⟩ else ⟨b2n n * 8 + b, false⟩

/-- Narrow to INT8: to nearest even, saturating; a NaN gives 0 and sets sat. -/
def toInt8 : Fv → Narrow
  | .nan => ⟨0, true⟩
  | .inf n => ⟨if n then 0x80 else 0x7F, true⟩
  | .fin n m e =>
    let a := rneShift m e
    if n then (if a > 128 then ⟨0x80, true⟩ else ⟨(256 - a) % 256, false⟩)
    else (if a > 127 then ⟨0x7F, true⟩ else ⟨a, false⟩)

/-- Narrow to INT32: an integer in range keeps its value; R78 states no other result, so it is the free value
`Config.narrowOpen`. -/
def toInt32 (v : Fv) : Narrow :=
  match v with
  | .fin n m e =>
    let a := rneShift m e
    if (0 ≤ e ∨ a * 2 ^ (-e).toNat = m) ∧ a < 2 ^ 31 then ⟨if n then (2 ^ 32 - a) % 2 ^ 32 else a, false⟩
    else ⟨Config.narrowOpen 0xD (toF32 v) % 2 ^ 32, false⟩
  | _ => ⟨Config.narrowOpen 0xD (toF32 v) % 2 ^ 32, false⟩

/-- Narrow a value to element format `f` (R78): `keep` is keep_bf16_subnormal, `sr` the word of stochastic rounding,
`nanSign` the sign an FP8 NaN keeps. -/
def narrowTo (f : Nat) (keep : Bool) (sr : Option Nat) (nanSign : Bool) (v : Fv) : Narrow :=
  if f = 0x0 then ⟨(toF32 v).toNat, false⟩
  else if f = 0x1 then toBf16 keep sr v
  else if f = 0x2 then toFp16 v
  else if f = 0x3 || f = 0x5 then toE4m3 nanSign sr v
  else if f = 0x4 || f = 0x6 then toE5m2 nanSign sr v
  else if f = 0x9 then toE2m1 v
  else if f = 0xB then toInt8 v
  else if f = 0xD then toInt32 v
  else ⟨Config.narrowOpen f (toF32 v) % 2 ^ elemBits f, false⟩

/-- Formats that stochastic rounding is allowed for (R80): BF16, FP8 E4M3 and FP8 E5M2. -/
def srFormat (f : Nat) : Bool := f = 0x1 || f = 0x3 || f = 0x4

/-- The elements of R79's conversion of one group: the scale byte and the element bits. `f` is 0x5, 0x6 or 0x9. -/
def mxGroup (f : Nat) (vs : List Word) : Nat × List Narrow :=
  let fvs := vs.map f32
  if fvs.any Fv.isNan then (0xFF, vs.map fun v => (⟨Config.narrowOpen f v % 2 ^ elemBits f, false⟩ : Narrow))
  else
    let top := fvs.foldl (fun (a : Option Int) v => match v with
      | .fin _ m e => if m = 0 then a else
          let l := e + (bitLen m : Int) - 1
          some (match a with | none => l | some b => max b l)
      | .inf _ => some 100000
      | .nan => a) none
    match top with
    | none => (0, fvs.map fun _ => (⟨0, false⟩ : Narrow))
    | some l =>
      let e : Int := if f = 0x5 then 8 else if f = 0x6 then 15 else 2
      let x := max (-127) (min 127 (l - e))
      ((x + 127).toNat, fvs.map fun v => narrowTo f true none v.sign (v.scale (-x)))

/-- The byte form of a list of element bits of format `f`: 4- and 6-bit elements are packed, lower index lowest. -/
def packElems (f : Nat) (xs : List Nat) : List Byte :=
  let w := elemBits f
  let total := xs.foldr (fun x acc => x % 2 ^ w + 2 ^ w * acc) 0
  leBytes ((xs.length * w + 7) / 8) total

/-- The bits of element `i` of format `f` in a byte string. -/
def elemAt (f : Nat) (bs : List Byte) (i : Nat) : Nat :=
  let w := elemBits f
  if w % 8 = 0 then leNat ((bs.drop (i * (w / 8))).take (w / 8))
  else
    let b0 := i * w
    let two := leNat ((bs.drop (b0 / 8)).take 2)
    two / 2 ^ (b0 % 8) % 2 ^ w

/-! ## Stage-2 functions of the gate pipeline (R103, R104) -/

/-- A finite value in fixed point with 320 fraction bits; every finite FP32 value is exact. -/
def Fv.fx : Fv → Int
  | .fin n m e => let a := shiftBy m (e + fracBits); if n then -a else a
  | _ => 0

/-- The word lies within R104's bound of function `f` at `x`. -/
def gateWithin (f : Nat) (x w : Word) : Bool :=
  match f32 w with
  | .fin n m e =>
    let a := fxGate f (f32 x).fx
    decide (((Fv.fin n m e).fx - a).natAbs ≤ gateBound f a + fxSlack a)
  | _ => false

/-- The FP32 word nearest to the value of function `f` at `x`. -/
def gateNear (f : Nat) (x : Word) : Word :=
  let a := fxGate f (f32 x).fx
  toF32 (.fin (decide (a < 0)) a.natAbs (-fracBits))

/-- The result where R103 fixes none: the free value `Config.gateResult`, held to R104's bound. -/
def gateOpen (f : Nat) (x : Word) : Word :=
  if gateWithin f x (Config.gateResult f x) then Config.gateResult f x else gateNear f x

/-- The open result, and the inf bit where it overflowed (R110). -/
def gateFree (f : Nat) (x : Word) : Word × Nat := (gateOpen f x, if (f32 (gateOpen f x)).isInf then 2 else 0)

/-- The result of gate function `f` and whether it sets nan, inf and domain. Results the table of R103 does not fix
lie within the bound of R104. -/
def gateFn (f : Nat) (x : Word) : Word × Nat :=
  let zeroIn := x = 0 || x = 0x8000_0000
  let pInf := x = 0x7F80_0000
  let nInf := x = 0xFF80_0000
  let neg := bitAt x.toNat 31
  let inf : Word := 0x7F80_0000
  let one : Word := 0x3F80_0000
  if (f32 x).isNan then (qnan, 1)
  else if f = 0 then (x, 0)
  else if f = 1 then
    (if pInf then one else if nInf then 0 else if zeroIn then 0x3F00_0000 else gateOpen f x, 0)
  else if f = 2 then
    (if pInf then one else if nInf then 0xBF80_0000 else if zeroIn then x else gateOpen f x, 0)
  else if f = 3 then
    if pInf then (inf, 0) else if nInf then (0, 0) else if zeroIn then (one, 0)
    else if ((f32 x).mul (.fin false 1000 0)).cmp (.fin false 88722 0) > 0 then (inf, 2)
    else gateFree f x
  else if f = 4 then
    if pInf then (inf, 0) else if nInf then (0, 0) else if zeroIn then (one, 0)
    else if (f32 x).cmp (.fin false 128 0) ≥ 0 then (inf, 2)
    else gateFree f x
  else if f = 5 || f = 6 then
    (if pInf then inf else if nInf then 0x8000_0000 else if zeroIn then x else gateOpen f x, 0)
  else if f = 7 then
    if pInf then (inf, 0) else if nInf then (0, 0)
    else if (f32 x).cmp (.fin false 20 0) > 0 then (x, 0)
    else gateFree f x
  else if f = 8 then
    if pInf then (0, 0) else if nInf then (0x8000_0000, 0)
    else if zeroIn then (if neg then 0xFF80_0000 else inf, 2)
    else gateFree f x
  else
    if pInf then (0, 0)
    else if zeroIn then (if neg then 0xFF80_0000 else inf, 2)
    else if neg then (qnan, 9)
    else gateFree f x

end Sys2Proof.Machine
end

