-- ==== Sys2Proof/Machine/State.lean ====
section
/-!
DEFINITION. The state of the module as plain data: every register, queue, buffer, counter, table, mode and pin
the manual gives it, the queue of waiting commands, and the machine right after reset.

Large arrays are sparse maps (`SMap`) whose default is the reset value of an element, so that reset lists
nothing. Times are not held but for the Crown timer: every time-driven event is a command of the table.
-/
namespace Sys2Proof.Machine

open Sys2Proof

/-! ## A core (R18 to R34, R99, R116, R134, R291) -/

/-- A queue entry: payload (32 bytes, 64 for qw_in) and the side band of R26: poison [8], marker [7:6],
token [5:0]. The model's own: bit 256 of an entry drained from the array says that its words are INT32, and bits
[260:257] how many of its last lanes stand for masked columns. -/
structure QEntry where
  data : BitVec 512 := 0
  side : BitVec 9 := 0
  deriving DecidableEq, Repr, Inhabited

/-- A command in an engine's command queue (R19): opcode, words, the scalar registers as they stood at issue
(R286), and its progress. -/
structure ECmd where
  op : Nat := 0
  p : PvisWords := ⟨0, 0, 0, 0⟩
  regs : SMap Word := []
  /-- entries, elements or units done -/
  k : Nat := 0
  /-- entries since the last tile end -/
  t : Nat := 0
  /-- tiles done -/
  tile : Nat := 0
  /-- entries popped and not yet used, or results not yet packed -/
  buf : List QEntry := []
  /-- results not yet pushed: queue end and entry -/
  out : List (Nat × QEntry) := []
  /-- the awaited token has been taken (R31) -/
  started : Bool := false
  /-- all results are formed; only `out` is left to push -/
  finished : Bool := false
  /-- a poisoned entry was popped (R33) -/
  poison : Bool := false
  rows : Nat := 0
  /-- place in the order of issue of the core's commands, for claims (R28, R100, R117) -/
  seq : Nat := 0
  /-- condition bits of the command so far (R291) -/
  cond : Nat := 0
  /-- input ends that the null engine's token ended (R51) -/
  dry : List Nat := []
  deriving DecidableEq, Repr, Inhabited

/-- What the control unit waits for. -/
inductive CoreWait where
  | none
  /-- the engine's command queue is full (R19) -/
  | engine (e : Nat) (c : ECmd)
  /-- QWAIT (R297): end, 0 ≥ or 1 ≤, value -/
  | level (e cmp value : Nat)
  /-- FWAITS or FWAITC (R316); `sat` once a value the home held since registration matched (R327) -/
  | flag (f : Nat) (v : Bool) (sat : Bool)
  /-- HSEND and HRECV at steps 1 and 4 of R134: the instruction to run once the flag has the value -/
  | halo (f : Nat) (v : Bool) (op : Nat) (p : PvisWords)
  /-- HBARR in a phase not yet released (R334) -/
  | arrive (line : Nat)
  /-- HBWAIT (R334): line and the arrival sense of the phase -/
  | release (line : Nat) (a : Bool)
  /-- BANK to a bank not ready (R38) -/
  | bank (b : Nat)
  /-- COND (R295): destination, clear, engine mask -/
  | cond (rd : Nat) (clear : Bool) (mask : Nat)
  /-- FENCE (R319): scope, engine mask -/
  | fence (scope mask : Nat)
  /-- FSET or FCLR (R316): flag, value, engine mask -/
  | flagOp (f : Nat) (v : Bool) (mask : Nat)
  /-- BKILL or BPRUNE waiting for other jobs (R198) -/
  | kill (branch : Nat)
  /-- a macro instruction parked on a fault record (R229): it runs again when the record is resolved -/
  | parked (seq op : Nat) (p : PvisWords)
  /-- a pass waits for a page to come back (R187): it runs again when the page is in GDDR -/
  | page (page : Nat)
  deriving DecidableEq, Repr, Inhabited

/-- A line-buffer declaration (R116). -/
structure LineBuf where
  valid : Bool := false
  baseLine : Nat := 0
  slots : Nat := 0
  pixels : Nat := 0
  blocks : Nat := 0
  firstCol : Int := 0
  scale : Bool := false
  deriving DecidableEq, Repr, Inhabited

/-- A core. Queues are numbered by the end codes of R287 (0 qa_in … 11 qx_out); engines by the mask bits of
R291 (0 array, 1 gate, 2 vector arithmetic, 3 vector load/store, 4 window, 5 DMA, 6 brim requests). -/
structure Core where
  ctx : Option Nat := none
  job : Nat := 0
  role : Nat := 0
  running : Bool := false
  /-- the bank the core fetches from (R38) -/
  bank : Nat := 0
  pc : Nat := 0
  regs : SMap Word := []
  fetchBuf : List DWord := []
  cond : Nat := 0
  wait : CoreWait := .none
  queues : SMap (List QEntry) := []
  engines : SMap (List ECmd) := []
  /-- fault record the engine is parked on, plus one (R229) -/
  parked : SMap Nat := []
  /-- accumulator store: set × 64 + entry (R24) -/
  acc : SMap Word := []
  /-- sets that hold partials of poisoned operands (R23, R33) -/
  accPoison : SMap Bool := []
  /-- sets whose entries are INT32 (R71, R97) -/
  accInt : SMap Bool := []
  masks : SMap (BitVec 16) := []
  bcast : BitVec 256 := 0
  /-- the broadcast register was loaded from poisoned data -/
  bcastPoison : Bool := false
  /-- carry file: row × 8 + lane (R99) -/
  carry : SMap Word := []
  /-- carry rows written from poisoned data -/
  carryPoison : SMap Bool := []
  /-- scratchpad bytes written, each as its value plus one: line × 32 + byte -/
  spad : SMap Nat := []
  /-- the model's own: numbers the free values that bytes not written since read as (R385) -/
  epoch : Nat := 0
  /-- poisoned 8-byte words of the scratchpad (R23) -/
  spadPoison : SMap Bool := []
  /-- skew tag of a line (R69) -/
  tags : SMap Nat := []
  lineBufs : SMap LineBuf := []
  /-- row tag of a slot plus one: line buffer × 64 + slot (R117) -/
  rowTags : SMap Int := []
  /-- next halo slot of a pair: false A, true B (R306) -/
  haloNext : SMap Bool := []
  /-- per virtual line, 1 plus the arrival sense of the phase in which the core last arrived, 0 when none: its recorded
  arrivals (R334, R335) -/
  phaseOf : SMap Nat := []
  /-- the array was reset: the next tile command runs in broadcast mode (R66, R68) -/
  arrayReset : Bool := true
  /-- parts done of a macro instruction that parked or waits (R229): lists, tiles or rows -/
  macroK : Nat := 0
  /-- commands issued so far, for the order of claims -/
  issued : Nat := 0
  /-- the lists a waiting pass took at its start, by key; it holds a reader on each page they name (R180) -/
  pass : Option (List (Nat × PageList)) := none
  deriving DecidableEq, Repr, Inhabited

/-! ## A cluster (R36 to R49, R322 to R337) -/

/-- A work counter (R40). -/
structure Counter where
  value : Nat := 0
  epoch : Nat := 0
  wrap : Bool := false
  deriving DecidableEq, Repr, Inhabited

/-- An instruction-store bank (R36): state 0 empty, 1 loading, 2 ready, 3 active. -/
structure Bank where
  state : Nat := 0
  /-- fetch count: the cores now fetching from it -/
  fetch : Nat := 0
  role : Nat := 0
  ctx : Option Nat := none
  words : List DWord := []
  /-- a load that waits for the fetch count to reach zero (R37): descriptor, context, role, words -/
  waitLoad : Option (Nat × Option Nat × Nat × List DWord) := none
  deriving DecidableEq, Repr, Inhabited

/-- A preemption request on a cluster (R386, R387, R392). -/
structure Preempt where
  /-- the job that needs the cluster, or none for a retirement -/
  forJob : Option Nat := none
  hard : Bool := false
  /-- the request's number; one context_preempted event per context and request (R392) -/
  request : Nat := 0
  deriving DecidableEq, Repr, Inhabited

/-- A cluster. Cluster flags and counters are held per context: key context × 4,096 + virtual flag, and
context × 4 + counter (R44, R331). Mirror copies (R325) stand under `mirrors`: the key holds the flag and the context
below 65,536, above them the core and the channel or halo pair, and 2^44 for the consumer's copy. -/
structure Cluster where
  bank0 : Bank := {}
  bank1 : Bank := {}
  flags : SMap Bool := []
  mirrors : SMap Bool := []
  counters : SMap Counter := []
  /-- arrival sense of the tap per physical line (R333) -/
  taps : SMap Bool := []
  /-- cores that have arrived on a physical line since the last tap arrival, a bit each (R317) -/
  arrivals : SMap Nat := []
  /-- the job whose role the cores run -/
  job : Option Nat := none
  ctx : Option Nat := none
  preempt : Option Preempt := none
  /-- contexts that are resident: working region and flags bound here (R384) -/
  resident : List Nat := []
  retiring : Bool := false
  uncorrectable : Nat := 0
  corrected : Nat := 0
  /-- the last program_marker value (R474) -/
  marker : Nat := 0
  deriving DecidableEq, Repr, Inhabited

/-- What a save of a context in a cluster holds (R389). -/
structure SavedCluster where
  job : Nat := 0
  role : Nat := 0
  bank : Nat := 0
  cores : List Core := []
  /-- order of the save, for "the earliest saved first" (R392) -/
  order : Nat := 0
  request : Nat := 0
  /-- the job the cluster was needed for -/
  forJob : Option Nat := none
  deriving DecidableEq, Repr, Inhabited

/-! ## Contexts (R364, R380, R381) -/

/-- A kill or prune that waits for jobs to end (R198). -/
structure KillWait where
  branch : Nat
  prune : Bool
  core : Nat
  /-- the job that issued it -/
  job : Nat
  /-- the branches it removes -/
  removes : List Nat
  /-- the jobs it waits for -/
  jobs : List Nat
  deriving DecidableEq, Repr, Inhabited

/-- A context. -/
structure Ctx where
  lc : Bool := false
  exclusive : Bool := false
  image : Image := {}
  blk : CtxBlock := {}
  streams : SMap StreamEntry := []
  branches : SMap BranchRec := []
  /-- page lists: list block × 65,536 + index (R169) -/
  lists : SMap PageList := []
  /-- the job that pins a stream, plus one (R142) -/
  pins : SMap Nat := []
  /-- when a stream's last job ended, for the choice of a victim (R145) -/
  lastEnd : SMap Nat := []
  /-- physical device flag bound to a virtual flag, plus one (R323) -/
  devFlags : SMap Nat := []
  /-- host flag words: value and changes (R329) -/
  hostFlags : SMap (Bool × Nat) := []
  /-- physical device counters in object order (R44) -/
  devCtrs : List Nat := []
  /-- physical hatband line bound to a virtual line, plus one (R336) -/
  lines : SMap Nat := []
  saves : SMap SavedCluster := []
  spillExtent : Option TableDesc := none
  hostSpillUsed : SMap Bool := []
  flashSpillUsed : SMap Bool := []
  kills : List KillWait := []
  keySlot : Nat := 0xFF
  /-- words the generator of a logical core has given since the context started: the draw count and the index of the
  next unused word of R81 in one number -/
  drawn : SMap Nat := []
  /-- a RUN of this context is held by R366 or R396 -/
  lcHeldPosted : Bool := false
  deriving DecidableEq, Repr, Inhabited

/-- The resident model (R13, R14). -/
structure Model where
  image : Image := {}
  blk : ModelBlock := {}
  keySlot : Nat := 0xFF
  deriving DecidableEq, Repr, Inhabited

/-- A translation-cache entry (R280): image hash, key slot of its signature, words, age. -/
structure TransEntry where
  hash : BitVec 384
  keySlot : Nat := 0xFF
  words : Nat := 0
  loaded : Nat := 0
  deriving DecidableEq, Repr, Inhabited

/-! ## Host interface (R348 to R379) -/

/-- A submission ring: its registers and the walker's state (R351 to R356). -/
structure Sq where
  base : DWord := 0
  doorbell : DWord := 0
  /-- HIF_SQ_CTRL_n without the stopped bit -/
  ctrl : Word := 0
  stopped : Bool := false
  fetched : Word := 0
  active : Bool := false
  tail : Word := 0
  /-- a kick whose sequence the record has not reached: the value and the re-reads left (R356) -/
  kick : Option (Word × Nat) := none
  deriving DecidableEq, Repr, Inhabited

/-- A completion ring: its registers and the posting state (R351, R357, R370, R373). -/
structure Cq where
  base : DWord := 0
  headAddr : DWord := 0
  /-- HIF_CQ_CTRL_n without the phase bit -/
  ctrl : DWord := 0
  phase : Bool := false
  posted : Word := 0
  reserved : Nat := 0
  /-- the last count taken from the head record (R524) -/
  head : Word := 0
  /-- records posted since the last message (R373) -/
  sinceMsg : Nat := 0
  deriving DecidableEq, Repr, Inhabited

/-- Progress of a fetched descriptor (R369 item 4): fetched, waiting, running, parked; ending once its end
has begun and its record is not yet posted. -/
inductive Phase where
  | fetched | waiting | running | parked | ending
  deriving DecidableEq, Repr, Inhabited

/-- A descriptor that has been fetched and whose record is not yet posted. -/
structure Flight where
  id : Nat := 0
  ring : Nat := 0
  raw : BitVec 512 := 0
  /-- SEC_POLICY as it stood at the fetch: a change applies to loads fetched after it (SEC_POLICY) -/
  policy : Word := 0
  phase : Phase := .fetched
  started : Bool := false
  /-- a RUN's stream list and length-table rows (R365) -/
  streams : List StreamRef := []
  /-- roles-clusters of the job, and those that reached END (R372) -/
  total : Nat := 0
  ended : Nat := 0
  /-- steps done by the job, per stream, when it ends (R141) -/
  steps : SMap Nat := []
  progress : Nat := 0
  poisoned : Bool := false
  engineAbsent : Bool := false
  /-- held by R366 or R396 -/
  held : Bool := false
  /-- residency before an export, plus one (R157, R161) -/
  prevRes : Nat := 0
  /-- the status it will end with, while its end waits (R525) -/
  endStatus : Option Status := none
  /-- targets whose records an ABORT's record waits for (R379) -/
  waitsFor : List Nat := []
  /-- dirty pages a TABLE_FLUSH waits for: table and page (R260) -/
  flushes : List (Nat × Nat) := []
  /-- those whose deltas have been taken: only their writes are still to complete -/
  merged : List (Nat × Nat) := []
  /-- the Flush commands of a TABLE_FLUSH have been issued (R260) -/
  flushing : Bool := false
  /-- what the Flush commands go to: ports of this module, and other modules that hold copies (R260) -/
  flushPorts : List Nat := []
  flushTo : List (Nat × Nat × Nat) := []
  deriving DecidableEq, Repr, Inhabited

/-- An event record that waits (R376). -/
structure EventRec where
  code : EventCode
  context : Nat := 0xFF
  subject : Nat := 0
  progress : Nat := 0
  deriving DecidableEq, Repr, Inhabited

/-- A Page Request outstanding (R349): index, address, the operation that waits. -/
structure PageReq where
  idx : Nat
  addr : Nat
  ctx : Nat := 0xFF
  unit : Nat := 0
  deriving DecidableEq, Repr, Inhabited

/-- The host interface. -/
structure HostIf where
  sq : SMap Sq := []
  cq : SMap Cq := []
  flights : List Flight := []
  nextId : Nat := 0
  /-- consecutive latency-critical fetches while a best-effort ring waited (R345) -/
  lcGrants : Nat := 0
  ctrl : Word := 0
  bar4Base : DWord := 0
  /-- HIF_LINK_STATUS: what link training reached (DESIGN CHOICE at reset: 64 GT/s, width 16, FLIT mode) -/
  linkStatus : Word := 0x0000_0306
  /-- MSI-X table (R350), by 32-bit word; the vector-control words are held exclusive-or 1, their reset value -/
  msixTable : SMap Word := []
  /-- pending bits, and messages sent per vector (R373) -/
  msixPend : SMap Bool := []
  msixSent : SMap Nat := []
  events : List EventRec := []
  eventsLost : Nat := 0
  d3hot : Bool := false
  atsEnable : Bool := false
  priEnable : Bool := false
  /-- address translation cache: untranslated page, translated page (R349) -/
  atc : List (Nat × Nat) := []
  pageReqs : List PageReq := []
  deriving DecidableEq, Repr, Inhabited

/-! ## Fault ring (R227 to R233, R520) -/

/-- An operation that waits on a fault record. -/
inductive ParkedOp where
  /-- a core's DMA engine, in a job -/
  | dma (core job : Nat)
  /-- a macro instruction of a core, in a job -/
  | core (core job : Nat)
  | flight (id : Nat)
  | bag (bag : Nat)
  /-- a row read for another module whose table-cache frame faulted -/
  | read (id : Nat)
  /-- a fill whose frame faulted: set × 16 + way -/
  | fill (way : Nat)
  /-- a remote write or read that arrived and whose address faulted (R412) -/
  | packet (p : Packet)
  /-- a collective operation whose buffer faulted: the group -/
  | coll (group : Nat)
  | spill (page : Nat)
  | fetch (page : Nat)
  | bookkeeping (id : Nat)
  deriving DecidableEq, Repr, Inhabited

/-- A fault record (R227) with what the collector knows of it. -/
structure FaultRec where
  seq : Nat := 0
  kind : FaultKind := .notMapped
  source : FaultSource := .coreDma
  context : Nat := 0xFF
  write : Bool := false
  resolvable : Bool := false
  address : Nat := 0
  merged : Nat := 1
  unit : Nat := 0
  jobTag : Nat := 0
  progress : Nat := 0
  detail : Nat := 0
  /-- Crown timer when the fault was taken -/
  time : Nat := 0
  /-- position in the ring since it was enabled -/
  index : Nat := 0
  /-- the ring was restarted since (R520): the record counts as unanswered -/
  orphan : Bool := false
  /-- the collector reached it with response 0 (R230) -/
  unanswered : Bool := false
  /-- a response kept for operations of a saved context (R233): 1 retry, 2 abandon -/
  answer : Nat := 0
  ops : List ParkedOp := []
  deriving DecidableEq, Repr, Inhabited

/-- The fault collector and its ring. -/
structure FaultRing where
  base : DWord := 0
  headAddr : DWord := 0
  ctrl : Word := 0
  written : Word := 0
  /-- records written since the enable -/
  index : Nat := 0
  phase : Bool := false
  head : Word := 0
  nextSeq : Nat := 0
  /-- resolvable records written whose operations still wait -/
  recs : List FaultRec := []
  /-- records waiting in the collector, oldest first (R232) -/
  buffered : List FaultRec := []
  deriving DecidableEq, Repr, Inhabited

/-! ## Memory (R210 to R226) -/

/-- A GDDR site (R213, R214): state 0 normal, 1 hot, 2 throttled, 3 critical, 4 offline, 5 absent. -/
structure Site where
  state : Nat := 4
  rate : Nat := 0
  temp : Nat := 0
  /-- training has been tried since power-up (R213) -/
  trained : Bool := false
  deriving DecidableEq, Repr, Inhabited

/-- A TLB entry (R225): space and context, page, size, and the leaf as walked. -/
structure TlbEntry where
  model : Bool
  ctx : Nat
  page : Nat
  large : Bool
  leaf : DWord
  deriving DecidableEq, Repr

/-- Memory and translation. -/
structure Mem where
  gddr : SMap Byte := []
  host : SMap Byte := []
  /-- bytes of host memory last written as poison (R33) -/
  hostPoison : SMap Bool := []
  /-- poison directory: granule entries (address / 64) and block entries (address / 65,536) (R219) -/
  granules : SMap Bool := []
  blocks : SMap Bool := []
  sites : SMap Site := []
  /-- TLBs: cluster c at key c, brim die d at key 8,192 + d, most recent first -/
  tlbs : SMap (List TlbEntry) := []
  deriving DecidableEq, Repr, Inhabited

/-! ## Key-value pool (R165 to R168) -/

/-- The page pool and the page allocator. -/
structure KvPool where
  pages : Nat := 0
  descs : SMap PageDesc := []
  /-- frame numbers, top of the stack first -/
  free : List Nat := []
  useCounter : Nat := 0
  /-- stream-pool slots in use: slot to 1 + context × 65,536 + stream (R145) -/
  streamSlots : SMap Nat := []
  /-- counts job ends, for "whose last job ended earliest" (R145) -/
  jobEnds : Nat := 0
  deriving DecidableEq, Repr, Inhabited

/-! ## Device flags, counters, hatband (R44, R323, R333 to R336) -/

/-- Device-wide synchronisation. -/
structure Dev where
  flags : SMap Bool := []
  /-- owner of a physical device flag: 1 + context × 4,096 + virtual flag -/
  flagOwner : SMap Nat := []
  counters : SMap Counter := []
  ctrOwner : SMap Nat := []
  /-- release sense of a physical line (R333) -/
  release : SMap Bool := []
  /-- context the line is bound to, plus one -/
  lineOwner : SMap Nat := []
  /-- clusters enrolled on a physical line -/
  enrolled : SMap (List Nat) := []
  deriving DecidableEq, Repr, Inhabited

/-! ## Flash tier and place tables (R237 to R261) -/

/-- An NVMe command outstanding: class 0 latency-critical read, 1 best-effort read, 2 write, 3 flush. -/
structure Nvme where
  cid : Nat
  cls : Nat := 0
  lba : Nat := 0
  /-- the row read or page fill it serves: table, copy, page -/
  table : Nat := 0
  copy : Nat := 0
  page : Nat := 0
  retried : Bool := false
  /-- set for a key-value page transfer: page number plus one -/
  kvPage : Nat := 0
  /-- a Flush of a TABLE_FLUSH: the descriptor -/
  flush : Option Nat := none
  nsid : Nat := 0
  /-- what a write writes -/
  data : List Byte := []
  /-- the owner of a shard that waits for a buddy copy's write or flush to be done (R259, R260) -/
  reply : Option Packet := none
  deriving DecidableEq, Repr, Inhabited

/-- A flash port and its drive (R237 to R239, FLP_PORT_n): state 0 absent, 1 ready, 2 offline, 3 coming up. -/
structure Drive where
  queues : DWord := 0x0300_0400_0004_0808
  state : Nat := 0
  gen : Nat := 0
  width : Nat := 0
  lbas : Nat := 0
  nsids : List Nat := []
  lcGranted : Nat := 0
  beGranted : Nat := 0
  wrGranted : Nat := 0
  /-- queues the drive grants in all -/
  grant : Nat := 0
  urgent : Bool := false
  cmds : List Nvme := []
  timeouts : Nat := 0
  present : Bool := false
  deriving DecidableEq, Repr, Inhabited

/-- A row or page read in progress (R249, R255). -/
structure RowRead where
  id : Nat
  table : Nat
  copy : Nat
  page : Nat
  row : Nat
  lc : Bool := false
  bag : Option Nat := none
  /-- the row lies with another module, which has been asked -/
  remote : Bool := false
  /-- a request to the other copy has been sent -/
  hedged : Bool := false
  retried : Bool := false
  /-- copies that answered with an error: bit 0 the one first asked, bit 1 the other -/
  failed : Nat := 0
  /-- the remote requester to answer: its coordinates and tag -/
  reply : Option (Packet) := none
  deriving DecidableEq, Repr, Inhabited

/-- The flash tier. -/
structure Flash where
  drives : SMap Drive := []
  /-- the drives' contents: (port × 2^32 + namespace) × 2^64 + LBA × 4,096 + byte -/
  media : SMap Byte := []
  nextCid : Nat := 0
  nextRead : Nat := 0
  reads : List RowRead := []
  deriving DecidableEq, Repr, Inhabited

/-- A way of the table cache (R250). -/
structure Way where
  valid : Bool := false
  filling : Bool := false
  rank : Nat := 0
  table : Nat := 0
  copy : Nat := 0
  page : Nat := 0
  /-- last use was by a latency-critical context (R254) -/
  lcUse : Bool := false
  /-- the frame holds the whole page, and the fill has not ended -/
  loaded : Bool := false
  /-- the page as read is poisoned (R188, R219) -/
  poison : Bool := false
  deriving DecidableEq, Repr, Inhabited

/-- A bound table (R243, R441). -/
structure Bound where
  d : TableDesc := {}
  shards : List ShardEntry := []
  /-- takeover: the copies whose background copy has not ended, bit 0 owned, bit 1 buddy (R441) -/
  copying : Nat := 0
  /-- takeover: pages whose copied bit is set: copy × 2^48 + page (R441) -/
  copied : SMap Bool := []
  /-- takeover: the copies whose background copy has ended; their pages hold what it brought (R441) -/
  opened : Nat := 0
  deriving DecidableEq, Repr, Inhabited

/-- A slot of the update cache: table, row, one FP32 delta per element (R258). -/
structure UpdSlot where
  table : Nat
  row : Nat
  deltas : List Word
  deriving DecidableEq, Repr, Inhabited

/-- A bag in a gather engine (R247). -/
structure Bag where
  id : Nat
  core : Nat
  ctx : Nat
  job : Nat
  table : Nat
  pooling : Nat
  format : Nat
  cores : Nat
  channel : Nat
  keys : Nat
  /-- where the key list lies, for a bag parked on its fault (R248) -/
  keyVa : Nat := 0
  /-- a token to push behind the pooled row (R289): number and poison -/
  token : Option (Nat × Bool) := none
  /-- distinct rows in order of first occurrence, with multiplicity -/
  rows : List (Nat × Nat) := []
  /-- rows that have arrived: row, bytes, poisoned -/
  got : List (Nat × List Byte × Bool) := []
  parked : Bool := false
  /-- 0 a gather's bag, 1 a prefetch, 2 a scatter-add -/
  kind : Nat := 0
  /-- where a scatter-add's delta rows lie, and the keys done -/
  deltaVa : Nat := 0
  done : Nat := 0
  /-- the key list has been read -/
  read : Bool := false
  /-- entries of the pooled row not yet pushed: core and entry; the bag has been pooled -/
  out : List (Nat × QEntry) := []
  pooled : Bool := false
  deriving DecidableEq, Repr, Inhabited

/-- Place tables. -/
structure Tables where
  bound : SMap Bound := []
  /-- table cache: set × 16 + way -/
  ways : SMap Way := []
  updates : List UpdSlot := []
  bags : List Bag := []
  nextBag : Nat := 0
  /-- pages whose write-back has been written to neither or one of the two copies: table, page, writes left -/
  dirty : List (Nat × Nat × Nat) := []
  deriving DecidableEq, Repr, Inhabited

/-! ## Fabric (R399 to R417) -/

/-- A fabric port (R403, LNK_PORT_STATUS_p). -/
structure Port where
  enable : Bool := false
  /-- R403: 0 disabled … 9 down -/
  state : Nat := 0
  /-- 0 eight lanes, 1 lanes 0 to 3, 2 lanes 4 to 7 (R402) -/
  lanes : Nat := 0
  partnerPort : Nat := 0
  partnerX : Nat := 0
  partnerY : Nat := 0
  partnerZ : Nat := 0
  partnerSpare : Bool := false
  replays : Nat := 0
  /-- next data sequence number to send, and the one expected (R407) -/
  seqTx : Nat := 0
  seqRx : Nat := 0
  /-- replay buffer: sequence number, replays so far, the packet the flit ends (R407, R408) -/
  replay : List (Nat × Nat × Option Packet) := []
  /-- a nak has been sent and the expected flit has not come (R407) -/
  nakOut : Bool := false
  /-- Crown timer at the last naks received, at most 63, and at the last retrains, at most two, latest first (R408) -/
  nakAt : List Nat := []
  retrainAt : List Nat := []
  /-- credits to return to the partner: vc × 4 + class (R410) -/
  owed : SMap Nat := []
  /-- credits held: vc × 4 + class (R410) -/
  credits : SMap Nat := []
  /-- packets waiting to be sent: vc, class, flits still to send, packet -/
  txq : List (Nat × Nat × Nat × Packet) := []
  /-- idle, nak and identity flits sent, counted (R406) -/
  idleSent : Nat := 0
  naksSent : Nat := 0
  identSent : Nat := 0
  /-- reached active since it was last enabled (R427) -/
  wasActive : Bool := false
  /-- the port's retry of detect is due (R403) -/
  retry : Bool := false
  deriving DecidableEq, Repr, Inhabited

/-- A fabric request that expects a response (R429): tag, the descriptor it serves, destination, kind. -/
structure Req where
  tag : Nat
  job : Nat := 0
  dest : Nat × Nat × Nat := (0, 0, 0)
  ptype : Nat := 0
  /-- for a read: context and device virtual address the data goes to -/
  ctx : Nat := 0xFF
  va : Nat := 0
  deriving DecidableEq, Repr, Inhabited

/-- A channel whose other end is on another module (R413). -/
structure Chan where
  /-- at the sender: entries sent whose credit has not come back -/
  used : Nat := 0
  /-- at the consumer's module: entries held until a slot frees, and the sender they came from -/
  held : List QEntry := []
  src : Nat × Nat × Nat := (0, 0, 0)
  deriving DecidableEq, Repr, Inhabited

/-- The module fabric. -/
structure Fabric where
  coord : DWord := 0
  ports : SMap Port := []
  inbox : List Packet := []
  reqs : List Req := []
  nextTag : Nat := 0
  /-- key context × 65,536 + channel -/
  chans : SMap Chan := []
  /-- lost coordinates in force, with the detour rules of R417 -/
  lost : List (Nat × Nat × Nat) := []
  /-- lost coordinates whose spare has announced takeover ready (R432) -/
  ready : List (Nat × Nat × Nat) := []
  /-- peers announced slow (R444, R445) -/
  slow : List (Nat × Nat × Nat) := []
  /-- the x of neighbours whose silence has been reported to the spare (R430) -/
  reported : List Nat := []
  /-- peers announced failing (R430) -/
  failingPeers : List (Nat × Nat × Nat) := []
  deriving DecidableEq, Repr, Inhabited

/-- A declared collective group (R418 to R426). Keys of buckets: (bucket × 8 + stage) × 2 + direction. -/
structure Group where
  d : CollDesc := {}
  turn : Nat := 0
  running : Bool := false
  /-- the job that set the running operation's trigger, plus one -/
  job : Nat := 0
  /-- an operation ended in error: later ones do not start (R426) -/
  failed : Bool := false
  /-- per bucket of the running operation: 0 not started, k + 1 in stage k -/
  stage : SMap Nat := []
  /-- elements received, by bucket, stage and direction -/
  got : SMap Nat := []
  /-- grants held, dimension × 2 + direction, and the bucket halves that a grant has been spent on (R421) -/
  grants : SMap Nat := []
  opened : SMap Bool := []
  /-- packets that wait for a grant: key, dimension, direction, packet -/
  waiting : List (Nat × Nat × Nat × Packet) := []
  /-- staging: packets of stages this member has not reached, and partial sums by element (R421, R423) -/
  staged : List Packet := []
  acc : SMap Word := []
  /-- partial sums that are poisoned -/
  accPoison : SMap Bool := []
  deriving DecidableEq, Repr, Inhabited

/-! ## Recovery (R430 to R442) -/

/-- A takeover on a spare (R439, R440). -/
structure Takeover where
  x : Nat
  /-- reason of the declaration (R432) -/
  reason : Nat := 0
  begun : Bool := false
  ready : Bool := false
  valid : Bool := false
  mode : Nat := 0
  hash : BitVec 384 := 0
  blobs : List Byte := []
  deriving DecidableEq, Repr, Inhabited

/-- Buddy areas, declarations and takeovers. -/
structure Recovery where
  buddyCtrl : DWord := 0
  buddyArea : DWord := 0
  copySeq : Nat := 0
  /-- an exclusive job has written weight regions or weight objects since the last push began (R437) -/
  weightsWritten : Bool := false
  /-- a push is running (R437) -/
  pushing : Bool := false
  takeover : Option Takeover := none
  /-- silence reports in force: member × 4 + party (0 the spare, 1 member − 1, 2 member + 1) (R430) -/
  silent : SMap Bool := []
  deriving DecidableEq, Repr, Inhabited

/-! ## Power (R456 to R466) -/

/-- A voltage island (R456, PWR_ISLAND_n). -/
structure Island where
  mv : Nat := 750
  rate : Nat := 0
  hot : Nat := 0
  /-- thermal cap in mV (R464) -/
  thermalCap : Nat := 850
  /-- how far R461 has lowered a floored or pinned island, in mV -/
  lowered : Nat := 0
  byFloor : Bool := false
  byPin : Bool := false
  byCeiling : Bool := false
  byThermal : Bool := false
  byBrake : Bool := false
  byCurrent : Bool := false
  unmet : Bool := false
  uvHold : Bool := false
  deriving DecidableEq, Repr, Inhabited

/-- The limit registers and loops. -/
structure Power where
  hostCeiling : Nat := 2000
  mgmtCeiling : Nat := 2000
  /-- the ceiling in force since the last enforcer interval (R463) -/
  effective : Nat := 2000
  inputW : Nat := 0
  commonCap : Nat := 850
  floors : SMap Word := []
  pins : SMap Word := []
  islands : SMap Island := []
  unmetLatch : Bool := false
  /-- PWR_BRAKE_N is low, and the over-current brake is applied (R465) -/
  brakePin : Bool := false
  brakeCurrent : Bool := false
  warmup : Bool := true
  deriving DecidableEq, Repr, Inhabited

/-! ## Visor (R467 to R476) -/

/-- A visor counter: 48-bit value and sticky overflow (R467). -/
structure VCount where
  value : Nat := 0
  overflow : Bool := false
  deriving DecidableEq, Repr, Inhabited

/-- The visor. Cluster counter k of context c in cluster l is at (l × 16 + c) × 4 + k. -/
structure Visor where
  clsel : SMap DWord := []
  /-- selectors in force in a cluster since the context's last job start there (R472): (l × 16 + c) -/
  clInForce : SMap DWord := []
  clVals : SMap VCount := []
  /-- VIS_BRSEL_n exclusive-or its reset 0x00FF_0000 -/
  brsel : SMap Word := []
  brVals : SMap VCount := []
  snapAddr : DWord := 0
  snaps : Nat := 0
  busy : Bool := false
  deriving DecidableEq, Repr, Inhabited

/-! ## Management (R477 to R490) -/

/-- Kinds of alert (R483). -/
inductive AlertKind where
  | siteState | siteOffline | driveOffline | floorUnmet | thermalCapped | brake | crownReset | deviceFailing
  | bootFallback | updateState
  deriving DecidableEq, Repr, Inhabited

/-- A firmware slot in the boot flash (R484, R485). -/
structure FwSlot where
  valid : Bool := true
  svn : Nat := 0
  hash : BitVec 384 := 0
  /-- times it has failed to reach service-ready (R485) -/
  failures : Nat := 0
  deriving DecidableEq, Repr, Inhabited

/-- States of a firmware update (R484). -/
inductive UpdState where
  | idle | learn | ready | download | verify | apply | activate
  deriving DecidableEq, Repr, Inhabited

/-- The management helper, its queues, the boot flash and the fuses. -/
structure Mgmt where
  telemetry : Telemetry := {}
  telemetryOld : Telemetry := {}
  eid : Byte := 0
  dynAddr : BitVec 7 := 0
  smbus : Bool := false
  /-- the 50 ns spike filter of SCL and SDA is in (R506) -/
  spikeFilter : Bool := true
  slotId : Nat := 0
  upd : UpdState := .idle
  updSize : Nat := 0
  /-- what verification found in the component that is to be applied (R484) -/
  updNew : FwSlot := {}
  updData : SMap Byte := []
  slotA : FwSlot := {}
  slotB : FwSlot := {}
  preferB : Bool := false
  /-- boot_slot: 0 A, 1 B, 2 recovery -/
  booted : Nat := 0
  fallback : Bool := false
  /-- fuses: image-signing keys by slot, revoked bits, firmware key fuses, anti-rollback counter -/
  imageKeys : SMap (BitVec 384) := []
  keyRevoked : Nat := 0
  fwKeys : SMap (BitVec 384) := []
  fwRevoked : Nat := 0
  svn : Nat := 0
  policy : Word := 0
  sideband : Word := 0x55
  mboxIn : List Byte := []
  mboxOut : List Byte := []
  inBusy : Bool := false
  outReady : Bool := false
  /-- a reply that waits for out_ready to clear (R523) -/
  outWait : List (List Byte) := []
  mboxVector : Byte := 0
  mboxIrq : Bool := false
  crownResets : Nat := 0
  /-- Crown timer at the last Crown resets, latest first, at most two (R479) -/
  resetAt : List Nat := []
  deriving DecidableEq, Repr, Inhabited

/-! ## The module -/

/-- Power, boot and module-wide state. `crown`: 0 running, 1 resetting, 2 booting, 3 recovery. -/
structure Sys where
  grade : Grade := .a80
  /-- 54 V present, rails in regulation, thermal trip or overvoltage latched, PERST# asserted -/
  input : Bool := true
  rails : Bool := true
  trip : Bool := false
  perst : Bool := false
  cfgReady : Bool := true
  crown : Nat := 2
  serviceReady : Bool := false
  failing : Bool := false
  failReason : Nat := 0
  /-- FAILING: the ports are still forwarding transit traffic (R446) -/
  failPorts : Bool := false
  timer : DWord := 0
  preempt : DWord := 0x0000_00C8_0000_0000
  arb : Word := 0
  /-- the lower half of a 64-bit register write that is held: offset and value (R511) -/
  heldLow : Option (Nat × Word) := none
  /-- the upper half that a read of a lower half has latched: offset and value (R511) -/
  latch : Option (Nat × Word) := none
  /-- retirement list (boot flash) and the liner in use per island (R45, R46) -/
  retired : List Nat := []
  linerUsed : SMap Bool := []
  /-- numbers preemption requests and saves -/
  requests : Nat := 0
  /-- GDDR health for the fabric: a site is throttled (R444) -/
  slow : Bool := false
  /-- the alert queue and the count of alerts lost (R483) -/
  alerts : List (AlertKind × Nat) := []
  alertsLost : Nat := 0
  /-- the management target runs on I3C; In-Band Interrupts sent for alerts (R483) -/
  i3c : Bool := false
  ibis : Nat := 0
  deriving DecidableEq, Repr, Inhabited

/-- What the module answers the sender of a command: a read's data, a management response. -/
structure Resp where
  /-- completion code: 0 success -/
  code : Nat := 0
  data : List Byte := []
  /-- the data is poisoned (R519) -/
  poison : Bool := false
  /-- Unsupported Request (R350) -/
  ur : Bool := false
  deriving DecidableEq, Repr, Inhabited

/-- The module but for its management helper and the queue of commands: what the host, the cores, the memory
system, the fabric and the power loops act on. -/
structure Mod where
  sys : Sys := {}
  host : HostIf := {}
  flt : FaultRing := {}
  mem : Mem := {}
  model : Option Model := none
  trans : List TransEntry := []
  ctxs : SMap (Option Ctx) := []
  clusters : SMap Cluster := []
  cores : SMap Core := []
  kv : KvPool := {}
  dev : Dev := {}
  flash : Flash := {}
  tab : Tables := {}
  fab : Fabric := {}
  coll : SMap (Option Group) := []
  rcv : Recovery := {}
  vis : Visor := {}
  pwr : Power := {}
  /-- the model's own field: how many free values have been used (the argument of the opaque constants) -/
  free : Nat := 0
  deriving DecidableEq, Repr, Inhabited

/-- The state of the module. -/
structure State where
  mod : Mod := {}
  mgt : Mgmt := {}
  /-- the answer to the last command that asked for one -/
  resp : Resp := {}
  /-- the commands that wait, first in first out -/
  pending : List Instr := []
  deriving DecidableEq, Repr

/-- Why the machine stops with a fault. -/
inductive Fault where
  /-- Raised by the meaning of a PVIS instruction whose words no accepted image can hold (R293): an undefined
  or reserved field value. The manual gives such words no effect; stopping is safe. -/
  | rejectedEncoding (mnemonic : String)
  deriving DecidableEq, Repr

/-- Why the model gives a command no meaning. -/
inductive Refusal where
  /-- Raised by an arm of `exec` for a command that has no meaning yet; stopping is safe. -/
  | notModelled (mnemonic : String)
  deriving DecidableEq, Repr

/-- The three outcomes of a command. -/
abbrev Out := Host.Outcome State Fault Refusal

/-- The module right after PERST# is released with both slots good (R487 step 2 to 4): every set-up register at
its reset value (R513), the Crown booting, GDDR not yet trained, service_ready clear. -/
def State.reset : State := {}

end Sys2Proof.Machine
end

