-- ==== Sys2Proof/Machine/Memory.lean ====
section
/-!
DEFINITION. GDDR, host memory and translation: the physical map (R210, R211), poison (R215, R218, R219), the page
walk (R220 to R224), the TLBs (R225), and byte access by bus address, device physical address and device virtual
address.
-/
namespace Sys2Proof.Machine

open Sys2Proof

/-! ## Byte strings in a sparse memory -/

/-- The `n` bytes from `a` on. -/
def rdBytes (m : SMap Byte) : Nat → Nat → List Byte
  | _, 0 => []
  | a, n + 1 => sget 0 m a :: rdBytes m (a + 1) n

/-- Write a byte string at `a`. -/
def wrBytes (m : SMap Byte) : Nat → List Byte → SMap Byte
  | _, [] => m
  | a, b :: bs => wrBytes (sset 0 m a b) (a + 1) bs

/-- Set the same value at `n` keys from `k` on. -/
def setRun {α : Type} [DecidableEq α] (d : α) (m : SMap α) (k : Nat) (v : α) : Nat → SMap α
  | 0 => m
  | n + 1 => setRun d (sset d m k v) (k + 1) v n

/-- A key in [k, k + n) holds true. -/
def anyIn (m : SMap Bool) (k n : Nat) : Bool := m.any fun p => decide (k ≤ p.1 ∧ p.1 < k + n) && p.2

/-- The canonical form of every memory of the machine: addresses strictly rising, and no entry equal to what an unlisted
address reads as. -/
def Memory.wf (x : Mem) : Bool :=
  swf 0 x.gddr && swf 0 x.host && swf false x.hostPoison && swf false x.granules && swf false x.blocks

/-! ## The physical map -/

/-- Bytes per site (R210): 8 GiB. -/
def siteBytes : Nat := 0x2_0000_0000

/-- The firmware reserve (R211): the top 1 GiB of site 0. -/
def inReserve (pa : Nat) : Bool := decide (0x1_C000_0000 ≤ pa ∧ pa < 0x2_0000_0000)

/-- The site of a device physical address. -/
def siteOf (pa : Nat) : Nat := pa / siteBytes

/-- A site as it stands. -/
def Mod.site (m : Mod) (n : Nat) : Site := sget {} m.mem.sites n

/-- The address lies in an absent range of the grade or on a site that is offline (R210, R211, R215). -/
def Mod.paAbsent (m : Mod) (pa : Nat) : Bool :=
  decide (Config.sites m.sys.grade ≤ siteOf pa) || (Mod.site m (siteOf pa)).state == 4

/-- Usable bytes of a site (R211, R369 item 1). -/
def usableBytes (n : Nat) : Nat := if n = 0 then 0x1_C000_0000 else siteBytes

/-- A granule of 64 bytes is poisoned: an entry of its own or of its 64 KiB block (R219). -/
def Mod.granulePoison (m : Mod) (g : Nat) : Bool :=
  sget false m.mem.granules g || sget false m.mem.blocks (g / 1024)

/-- The poison state of the granules that [pa, pa + n) touches. -/
def Mod.rangePoison (m : Mod) (pa n : Nat) : Bool :=
  if n = 0 then false
  else
    anyIn m.mem.granules (pa / 64) ((pa + n - 1) / 64 + 1 - pa / 64)
      || anyIn m.mem.blocks (pa / 65536) ((pa + n - 1) / 65536 + 1 - pa / 65536)

/-- Read device physical memory: bytes, and whether they are poisoned. Absent and offline ranges give poison. -/
def Mod.physRead (m : Mod) (pa n : Nat) : List Byte × Bool :=
  (rdBytes m.mem.gddr pa n, Mod.paAbsent m pa || Mod.rangePoison m pa n)

/-- Granule entries a site holds in its poison directory. -/
def granuleCount (g : SMap Bool) (site : Nat) : Nat :=
  (g.filter fun p => p.1 / (siteBytes / 64) == site).length

/-- Block entries a site holds. -/
def blockCount (b : SMap Bool) (site : Nat) : Nat :=
  (b.filter fun p => p.1 / (siteBytes / 65536) == site).length

/-- The block of `site` with the most granule entries, the lowest address among equals (R219). -/
def fullestBlock (g : SMap Bool) (site : Nat) : Option Nat :=
  let mine := (g.filter fun p => p.1 / (siteBytes / 64) == site).map fun p => p.1 / 1024
  (mine.foldl (fun (acc : Option (Nat × Nat)) b =>
    let n := (mine.filter (· == b)).length
    match acc with
    | none => some (b, n)
    | some (b', n') => if n > n' then some (b, n) else some (b', n')) none).map (·.1)

/-- Merge one block of a full directory (R219): its granule entries become one block entry. False when no block
entry is free. -/
def Mod.mergeBlock (m : Mod) (site : Nat) : Mod × Bool :=
  match fullestBlock m.mem.granules site with
  | none => (m, true)
  | some b =>
    if blockCount m.mem.blocks site < 256 then
      ({ m with mem := { m.mem with
          granules := m.mem.granules.filter fun p => p.1 / 1024 != b
          blocks := sset false m.mem.blocks b true } }, true)
    else (m, false)

/-- Granule numbers [pa / 64 …] that a write of `n` bytes at `pa` covers whole. -/
def wholeGranules (pa n : Nat) : Nat × Nat :=
  let first := (pa + 63) / 64
  let last := (pa + n) / 64
  (first, last - first)

/-- Write device physical memory (R215, R217, R219): discarded on an absent or offline range; a poisoned write adds
its granules to the directory, a whole-granule write of good data removes it, a good write of a whole block removes
its block entry. -/
def Mod.physWrite (m : Mod) (pa : Nat) (bs : List Byte) (poison : Bool) : Mod :=
  if Mod.paAbsent m pa || inReserve pa || bs.isEmpty then m
  else
    let n := bs.length
    let gs :=
      if poison then setRun false m.mem.granules (pa / 64) true ((pa + n - 1) / 64 + 1 - pa / 64)
      else
        let (k, c) := wholeGranules pa n
        m.mem.granules.filter fun p => decide (p.1 < k ∨ k + c ≤ p.1)
    let bl :=
      if poison then m.mem.blocks
      else
        let k := (pa + 65535) / 65536
        let c := (pa + n) / 65536 - k
        m.mem.blocks.filter fun p => decide (p.1 < k ∨ k + c ≤ p.1)
    { m with mem := { m.mem with gddr := wrBytes m.mem.gddr pa bs, granules := gs, blocks := bl } }

/-- Read host memory by bus address. -/
def Mod.hostRead (m : Mod) (a n : Nat) : List Byte × Bool :=
  (rdBytes m.mem.host a n, anyIn m.mem.hostPoison a n)

/-- Write host memory by bus address. -/
def Mod.hostWrite (m : Mod) (a : Nat) (bs : List Byte) (poison : Bool) : Mod :=
  { m with mem := { m.mem with
      host := wrBytes m.mem.host a bs
      hostPoison := if m.mem.hostPoison.isEmpty && !poison then []
        else setRun false m.mem.hostPoison a poison bs.length } }

/-! ## Page tables -/

/-- What a walk gives: a leaf with its page size, or a fault kind with the level and entry of R227. -/
inductive Walk where
  | leaf (entry : Nat) (large : Bool)
  | fault (kind : FaultKind) (level entry : Nat)
  deriving DecidableEq, Repr, Inhabited

/-- The address field of an entry (R222). -/
def entryAddr (e : Nat) : Nat := fld e 55 8 * 256

/-- The target of an entry (R222): true for host memory. -/
def entryHost (e : Nat) : Bool := bitAt e 3

/-- The reserved bits of an entry are clear and leaf-only bits stand only in leaves (R222, R223). -/
def entryReservedOk (e : Nat) : Bool := !bitAt e 7 && fld e 63 56 == 0

/-- R211 on a GDDR target. -/
def Mod.targetFault (m : Mod) (e : Nat) : Option FaultKind :=
  if entryHost e then none
  else if inReserve (entryAddr e) then some .reservedTarget
  else if Mod.paAbsent m (entryAddr e) then some .physicalAbsent
  else none

/-- Read a table entry as one 8-byte read (R224): its value, or poison. -/
def Mod.tableRead (m : Mod) (host : Bool) (a : Nat) : Option Nat :=
  let r := if host then Mod.hostRead m a 8 else Mod.physRead m a 8
  if r.2 then none else some (leNat r.1)

/-- Check an entry at `level`: `none` when it may be used. -/
def Mod.entryFault (m : Mod) (level e : Nat) : Option FaultKind :=
  if !bitAt e 0 then some .notMapped
  else if !entryReservedOk e then some .badEntry
  else if bitAt e 1 then
    if level = 1 then some .badEntry
    else if entryAddr e % (if level = 2 then 0x20_0000 else 0x1_0000) ≠ 0 then some .badEntry
    else Mod.targetFault m e
  else
    if level = 3 then some .badEntry
    else if entryAddr e % (if level = 1 then 0x1_0000 else 256) ≠ 0 then some .badEntry
    else Mod.targetFault m e

/-- The level-1 table a root entry names, checked as an entry is (R211, R221). -/
def Mod.rootFault (m : Mod) (root : Nat) : Option FaultKind :=
  if !bitAt root 0 then some .notMapped
  else if !entryReservedOk root || bitAt root 1 || entryAddr root % 0x1_0000 ≠ 0 then some .badEntry
  else Mod.targetFault m root

/-- One level of the walk: the entry at index `i` of the table that `up` names. -/
def Mod.walkLevel (m : Mod) (level up i : Nat) : Walk ⊕ Nat :=
  match Mod.tableRead m (entryHost up) (entryAddr up + 8 * i) with
  | none => .inl (.fault .tableReadError level 0)
  | some e =>
    match Mod.entryFault m level e with
    | some k => .inl (.fault k level e)
    | none => if bitAt e 1 then .inl (.leaf e (level == 2)) else .inr e

/-- The page walk of R221 to R223, from a root entry. -/
def Mod.walk (m : Mod) (root va : Nat) : Walk :=
  match Mod.rootFault m root with
  | some k => .fault k 0 root
  | none =>
    match Mod.walkLevel m 1 root (fld va 46 34) with
    | .inl w => w
    | .inr e1 =>
      match Mod.walkLevel m 2 e1 (fld va 33 21) with
      | .inl w => w
      | .inr e2 =>
        match Mod.walkLevel m 3 e2 (fld va 20 16) with
        | .inl w => w
        | .inr e3 => .fault .badEntry 3 e3

/-- The root a space is translated through (R220): bit 47 of the address selects model space. -/
def Mod.root (m : Mod) (ctx va : Nat) : Nat :=
  if bitAt va 47 then (match m.model with | some md => md.blk.root.toNat | none => 0)
  else match sget none m.ctxs ctx with
    | some c => c.blk.root.toNat
    | none => 0

/-- The context is in exclusive mode (R380). -/
def Mod.isExclusive (m : Mod) (ctx : Nat) : Bool :=
  match sget none m.ctxs ctx with
  | some c => c.exclusive
  | none => false

/-- The TLB a core's DMA engine uses. -/
def clusterTlb (core : Nat) : Nat := core / 16

/-- The TLB of brim die `d` (R224). -/
def brimTlb (d : Nat) : Nat := 8192 + d

/-- The TLB brim engines use for an address: the die of R225. -/
def brimTlbOf (va : Nat) : Nat := brimTlb (fld va 22 21)

/-- A TLB entry translates `va` for the space and the context. -/
def tlbHit (ctx va : Nat) (e : TlbEntry) : Bool :=
  e.model == bitAt va 47 && (e.model || e.ctx == ctx)
    && e.page == (if e.large then va / 0x20_0000 else va / 0x1_0000)

/-- The leaf for `va`: the cached one where the TLB holds one, else by a walk (R225). -/
def Mod.leafFor (m : Mod) (tlb ctx va : Nat) : Walk :=
  match (sget [] m.mem.tlbs tlb).find? (tlbHit ctx va) with
  | some e => .leaf e.leaf.toNat e.large
  | none => Mod.walk m (Mod.root m ctx va) va

/-- A faulting access (R227): kind, address, level and entry, and whether it was a write. -/
structure AccFault where
  kind : FaultKind
  va : Nat := 0
  level : Nat := 0
  entry : Nat := 0
  write : Bool := false
  deriving DecidableEq, Repr, Inhabited

/-- A translated address: target and address. -/
structure Phys where
  host : Bool
  addr : Nat
  /-- sent as an untranslated address for ATS (R222) -/
  ats : Bool := false
  deriving DecidableEq, Repr, Inhabited

/-- Host address of an ATS leaf (R349): the cached translation of its 4 KiB page where there is one. -/
def Mod.atsAddr (m : Mod) (a : Nat) : Nat :=
  match m.host.atc.find? (fun p => p.1 == a / 4096) with
  | some p => p.2 * 4096 + a % 4096
  | none => a

/-- Translate one address for a read or a write (R223). -/
def Mod.translate (m : Mod) (tlb ctx va : Nat) (write : Bool) : AccFault ⊕ Phys :=
  match Mod.leafFor m tlb ctx va with
  | .fault k l e => .inl ⟨k, va, l, e, write⟩
  | .leaf e large =>
    let lv := if large then 2 else 3
    if write && (!bitAt e 2 || (bitAt e 6 && !Mod.isExclusive m ctx)) then .inl ⟨.writeDenied, va, lv, e, true⟩
    else if !entryHost e && Mod.paAbsent m (entryAddr e) then .inl ⟨.physicalAbsent, va, lv, e, write⟩
    else
      let a := entryAddr e + (if large then va % 0x20_0000 else va % 0x1_0000)
      let ats := entryHost e && bitAt e 5 && m.host.atsEnable
      .inr ⟨entryHost e, if ats then Mod.atsAddr m a else a, ats⟩

/-- The pieces of [va, va + n) that lie in one 64 KiB page each, in order: address and length. -/
def pagePieces : Nat → Nat → Nat → List (Nat × Nat)
  | 0, _, _ => []
  | fuel + 1, va, n =>
    if n = 0 then []
    else
      let k := min n (0x1_0000 - va % 0x1_0000)
      (va, k) :: pagePieces fuel (va + k) (n - k)

/-- The pieces of an access. -/
def pieces (va n : Nat) : List (Nat × Nat) := pagePieces (n / 0x1_0000 + 2) va n

/-- Read a translated piece. -/
def Mod.readPhys (m : Mod) (p : Phys) (n : Nat) : List Byte × Bool :=
  if p.host then Mod.hostRead m p.addr n else Mod.physRead m p.addr n

/-- Write a translated piece. -/
def Mod.writePhys (m : Mod) (p : Phys) (bs : List Byte) (poison : Bool) : Mod :=
  if p.host then Mod.hostWrite m p.addr bs poison else Mod.physWrite m p.addr bs poison

/-- Read the pieces of an access in order; the fault names how many bytes were read before it. -/
def Mod.readPieces (m : Mod) (tlb ctx : Nat) : List (Nat × Nat) → AccFault ⊕ (List Byte × Bool)
  | [] => .inr ([], false)
  | (va, n) :: ps =>
    match Mod.translate m tlb ctx va false with
    | .inl f => .inl f
    | .inr p =>
      match Mod.readPieces m tlb ctx ps with
      | .inl f => .inl f
      | .inr (bs, po) => let r := Mod.readPhys m p n; .inr (r.1 ++ bs, r.2 || po)

/-- Read `n` bytes at a device virtual address: bytes and poison, or the fault. -/
def Mod.vaRead (m : Mod) (tlb ctx va n : Nat) : AccFault ⊕ (List Byte × Bool) :=
  Mod.readPieces m tlb ctx (pieces va n)

/-- Every piece of a write translates: `none`, or the first fault. -/
def Mod.writeFault (m : Mod) (tlb ctx : Nat) : List (Nat × Nat) → Option AccFault
  | [] => none
  | (va, _) :: ps =>
    match Mod.translate m tlb ctx va true with
    | .inl f => some f
    | .inr _ => Mod.writeFault m tlb ctx ps

/-- Write the pieces of an access in order, up to the first that faults: the state, and the fault with the number of
bytes written before it. -/
def Mod.writePieces (m : Mod) (tlb ctx : Nat) (poison : Bool) (done : Nat) :
    List (Nat × Nat) → List Byte → Mod × Option (AccFault × Nat)
  | [], _ => (m, none)
  | (va, n) :: ps, bs =>
    match Mod.translate m tlb ctx va true with
    | .inl f => (m, some (f, done))
    | .inr p => Mod.writePieces (Mod.writePhys m p (bs.take n) poison) tlb ctx poison (done + n) ps (bs.drop n)

/-- Write a byte string at a device virtual address. -/
def Mod.vaWrite (m : Mod) (tlb ctx va : Nat) (bs : List Byte) (poison : Bool) : Mod × Option (AccFault × Nat) :=
  Mod.writePieces m tlb ctx poison 0 (pieces va bs.length) bs

/-- A record's own bytes: the fault of a walk to it, or whether its granules are poisoned (R525, R526). -/
def Mod.recordAt (m : Mod) (ctx va n : Nat) (write : Bool) : AccFault ⊕ Bool :=
  match Mod.translate m (brimTlbOf va) ctx va write with
  | .inl f => .inl f
  | .inr p => .inr (Mod.readPhys m p n).2

/-- Every 64 KiB page of [va, va + n) is pinned (R234): a valid leaf with write and pinned set. -/
def Mod.pinned (m : Mod) (ctx va n : Nat) : Bool :=
  (pieces va n).all fun p =>
    match Mod.walk m (Mod.root m ctx p.1) p.1 with
    | .leaf e _ => bitAt e 2 && bitAt e 4
    | .fault .. => false

end Sys2Proof.Machine
end

