-- ==== Sys2Proof/Machine/VisorOps.lean ====
section
/-!
DEFINITION. Counting visor events: the counters of a cluster for the context whose role its cores fetch, and of a brim
die (R467 to R473). DESIGN CHOICE: the levels of R471 are those between commands.
-/
namespace Sys2Proof.Machine

open Sys2Proof

/-- Add to a counter: 48 bits, and a wrap sets the overflow bit (R468). -/
def addCount (n : Nat) (c : VCount) : VCount :=
  { value := (c.value + n) % 2 ^ 48, overflow := c.overflow || decide (2 ^ 48 ≤ c.value + n) }

/-- A level of R471 in one core. -/
def Core.level471 (x : Core) (v : Nat) : Bool :=
  if v = 1 then (sget [] x.engines 0).any (·.started)
  else if v = 2 then (match x.wait with | .engine .. | .level .. => true | _ => false)
  else if v = 3 then (match x.wait with | .flag .. | .halo .. => true | _ => false)
  else if v = 4 then (match x.wait with | .arrive .. | .release .. => true | _ => false)
  else v == 5 && sget 0 x.parked 5 != 0

/-- The voltage island of a cluster (R45). -/
def islandOf (g : Grade) (l : Nat) : Nat := l / Config.clustersPerIsland g

/-- A level of R471 in a cluster: conditions 1 to 8. -/
def Mod.clusterLevel (m : Mod) (l v : Nat) : Bool :=
  let c : Cluster := sget {} m.clusters l
  let isl : Island := sget {} m.pwr.islands (islandOf m.sys.grade l)
  if v = 0 then true
  else if v ≤ 5 then (List.range 16).any fun i => Core.level471 (sget {} m.cores (16 * l + i)) v
  else if v = 6 then (match c.ctx with
    | some k => (match sget none m.ctxs k with | some x => x.lc | none => false)
    | none => false)
  else if v = 7 then isl.unmet
  else v == 8 && isl.byThermal

/-- A level of R471 on a brim die: conditions 9 to 11. The mover's saves and restores are whole commands, so
condition 11 never stands between commands. -/
def Mod.brimLevel (m : Mod) (d v : Nat) : Bool :=
  if v = 0 then true
  else if v = 9 then (List.range 4).any fun i => (sget ({} : Site) m.mem.sites (4 * d + i)).state == 2
  else v == 10 && (List.range 4).any fun i =>
    (let p : Port := sget {} m.fab.ports (4 * d + i); p.lanes != 0 && p.state == 6)

/-- What one occurrence adds to a counter with a selector word of 14 bits (R467). -/
def selAdds (sel src : Nat) (level : Nat → Bool) : Bool :=
  fld sel 7 0 == src && (fld sel 9 8 == 1 || (fld sel 9 8 == 2 && level (fld sel 13 10)))

/-- Count an event in a cluster for the context whose role it runs (R469, R472). -/
def Mod.visor (m : Mod) (l src inc : Nat) : Mod :=
  match (sget ({} : Cluster) m.clusters l).ctx with
  | none => m
  | some k =>
    let key := l * 16 + k
    let sel := (sget 0 m.vis.clInForce key).toNat
    if sel = 0 ∨ inc = 0 then m
    else
      let step (v : SMap VCount) (i : Nat) :=
        if selAdds (fld sel (16 * i + 15) (16 * i)) src (Mod.clusterLevel m l) then
          smod {} v (key * 4 + i) (addCount inc)
        else v
      { m with vis := { m.vis with clVals := (List.range 4).foldl step m.vis.clVals } }

/-- Selector of a brim counter. -/
def Mod.brsel (m : Mod) (n : Nat) : Nat := ((sget 0 m.vis.brsel n) ^^^ 0x00FF_0000).toNat

/-- Count an event on a brim die for a context, 0xFF for none (R469, R473). -/
def Mod.visorBrim (m : Mod) (d ctx src inc : Nat) : Mod :=
  let step (v : SMap VCount) (i : Nat) :=
    let sel := Mod.brsel m (d * 16 + i)
    if (fld sel 23 16 == 0xFF || fld sel 23 16 == ctx) && selAdds sel src (Mod.brimLevel m d) then
      smod {} v (d * 16 + i) (addCount inc)
    else v
  if m.vis.brsel.isEmpty ∨ inc = 0 then m
  else { m with vis := { m.vis with brVals := (List.range 16).foldl step m.vis.brVals } }

/-- Rises of cluster conditions that counters in edge mode follow, from one state to the next. -/
def edgesCl (a b : Mod) (v : SMap VCount) (p : Nat × DWord) : SMap VCount :=
  let l := p.1 / 16
  if (sget ({} : Cluster) b.clusters l).ctx != some (p.1 % 16) then v
  else (List.range 4).foldl (fun v i =>
    let sel := fld p.2.toNat (16 * i + 15) (16 * i)
    let c := fld sel 13 10
    if fld sel 9 8 == 3 && c != 0 && c ≤ 8 && !Mod.clusterLevel a l c && Mod.clusterLevel b l c then
      smod {} v (p.1 * 4 + i) (addCount 1)
    else v) v

/-- Rises of brim conditions that counters in edge mode follow. -/
def edgesBr (a b : Mod) (v : SMap VCount) (p : Nat × Word) : SMap VCount :=
  let sel := Mod.brsel b p.1
  let c := fld sel 13 10
  let d := p.1 / 16
  if fld sel 9 8 == 3 && 9 ≤ c && c ≤ 11 && fld sel 23 16 == 0xFF && !Mod.brimLevel a d c && Mod.brimLevel b d c then
    smod {} v p.1 (addCount 1)
  else v

/-- Count the rises from `a` to `b` (R467 mode 3). -/
def Mod.edges (a b : Mod) : Mod :=
  { b with vis := { b.vis with
      clVals := b.vis.clInForce.foldl (edgesCl a b) b.vis.clVals
      brVals := b.vis.brsel.foldl (edgesBr a b) b.vis.brVals } }

end Sys2Proof.Machine
end

