-- ==== Sys2Proof/Machine/Ops.lean ====
section
/-!
DEFINITION. The named operations that many commands share: completion and event records, messages, alerts, fault
records and what parks on them, descriptors in flight, and the FAILING state.
-/
namespace Sys2Proof.Machine

open Sys2Proof

/-- A command that acts on the module alone: its next state, with the rises that visor counters in edge mode follow. -/
def State.onMod (s : State) (f : Mod → Mod) : State := { s with mod := Mod.edges s.mod (f s.mod) }

/-- A register write of the host: it is taken while configuration space answers (R514). -/
def State.onReg (s : State) (f : Mod → Mod) : State := if s.mod.sys.cfgReady then s.onMod f else s

/-- A step the Crown takes: none while it is down (R479). -/
def State.onCrown (s : State) (f : Mod → Mod) : State := if s.mod.sys.crown = 0 then s.onMod f else s

/-! ## Rings -/

/-- Ring size from a size_log2 field, clamped to 6 to 16 (HIF_SQ_CTRL_n, HIF_CQ_CTRL_n, MMU_FAULT_CTRL). -/
def ringSize (log2 : Nat) : Nat := 2 ^ (max 6 (min 16 log2))

/-- A submission ring. -/
def Mod.sq (m : Mod) (n : Nat) : Sq := sget {} m.host.sq n

/-- A completion ring. -/
def Mod.cq (m : Mod) (n : Nat) : Cq := sget {} m.host.cq n

/-- Enable bit of a submission ring. -/
def Sq.enabled (q : Sq) : Bool := bitAt q.ctrl.toNat 0

/-- Enable bit of a completion ring. -/
def Cq.enabled (q : Cq) : Bool := bitAt q.ctrl.toNat 0

/-- Class of a submission ring: true for latency-critical (R351). -/
def Sq.lc (q : Sq) : Bool := bitAt q.ctrl.toNat 1

/-- The completion ring a submission ring completes into (R351). -/
def Sq.cqNum (q : Sq) : Nat := fld q.ctrl.toNat 13 8

/-- Entries of a submission ring. -/
def Sq.size (q : Sq) : Nat := ringSize (fld q.ctrl.toNat 20 16)

/-- Records of a completion ring. -/
def Cq.size (q : Cq) : Nat := ringSize (fld q.ctrl.toNat 12 8)

/-- Records posted and not yet consumed by the host (R357, R358). -/
def Cq.unread (q : Cq) : Nat := ahead32 q.posted.toNat q.head.toNat

/-- Slots free in a completion ring (R357). -/
def Cq.free (q : Cq) : Nat := q.size - q.unread - q.reserved

/-- Change the host interface. -/
def Mod.onHost (m : Mod) (f : HostIf → HostIf) : Mod := { m with host := f m.host }

/-- Write a completion ring's state. -/
def Mod.setCq (m : Mod) (n : Nat) (q : Cq) : Mod := Mod.onHost m fun h => { h with cq := sset {} h.cq n q }

/-- Write a submission ring's state. -/
def Mod.setSq (m : Mod) (n : Nat) (q : Sq) : Mod := Mod.onHost m fun h => { h with sq := sset {} h.sq n q }

/-- The event ring while event_enable is set (R351, R518). -/
def Mod.eventRing (m : Mod) : Option Nat :=
  if bitAt m.host.ctrl.toNat 15 then some (fld m.host.ctrl.toNat 13 8) else none

/-! ## MSI-X (R350, R373) -/

/-- The vector-control word of a vector, whose bit 0 masks it; it resets to masked. -/
def Mod.vectorMasked (m : Mod) (v : Nat) : Bool :=
  bitAt ((sget 0 m.host.msixTable (4 * v + 3)) ^^^ 1).toNat 0

/-- Send a vector's message, or set its pending bit while it is masked. -/
def Mod.sendVector (m : Mod) (v : Nat) : Mod :=
  Mod.onHost m fun h =>
    if Mod.vectorMasked m v then { h with msixPend := sset false h.msixPend v true }
    else { h with msixSent := smod 0 h.msixSent v (· + 1) }

/-- Send a completion ring's vector: it covers every record posted before it. -/
def Mod.sendRing (m : Mod) (n : Nat) : Mod :=
  let q := Mod.cq m n
  Mod.sendVector (Mod.setCq m n { q with sinceMsg := 0 }) (fld q.ctrl.toNat 23 16)

/-! ## Records -/

/-- The 32 bytes of a completion or event record (R370). -/
def recordBytes (tag status kind ring ctx sqHead detail progress time : Nat) (phase : Bool) : List Byte :=
  leBytes 4 tag ++ leBytes 1 status ++ leBytes 1 kind ++ leBytes 1 ring ++ leBytes 1 ctx ++ leBytes 4 sqHead
    ++ leBytes 4 detail ++ leBytes 8 progress ++ leBytes 7 time ++ leBytes 1 (b2n phase * 128)

/-- Post one record into a completion ring (R370, R371): write it at its slot with the ring's phase, count it, and
invert the phase on a wrap. -/
def Mod.postRecord (m : Mod) (n : Nat) (rec : Bool → List Byte) : Mod :=
  let q := Mod.cq m n
  let slot := q.posted.toNat % q.size
  let m := Mod.hostWrite m (q.base.toNat + 32 * slot) (rec q.phase) false
  Mod.setCq m n { q with
    posted := q.posted + 1
    phase := if slot + 1 = q.size then !q.phase else q.phase
    sinceMsg := q.sinceMsg + 1 }

/-- After a post: send the vector if the record asked for it or the count threshold is reached (R373). -/
def Mod.coalesce (m : Mod) (n : Nat) (irq : Bool) : Mod :=
  let q := Mod.cq m n
  let c := fld q.ctrl.toNat 31 24
  if irq || (c ≠ 0 && c ≤ q.sinceMsg) then Mod.sendRing m n else m

/-- The bytes of an event record; `lost` goes to progress [63:48] (R376). -/
def eventBytes (e : EventRec) (lost time : Nat) (phase : Bool) : List Byte :=
  recordBytes 0 e.code.status.code 0x80 0xFF e.context 0 (e.code.code + e.subject % 65536 * 65536)
    (setFld e.progress 63 48 lost) time phase

/-- Post one waiting event if the event ring is enabled and has a free slot (R376), and the Crown is in service to post it
(R479, R514). -/
def Mod.postOneEvent (m : Mod) : Option Mod :=
  match Mod.eventRing m, m.host.events with
  | some n, e :: es =>
    let q := Mod.cq m n
    if q.enabled && decide (0 < q.free) && m.sys.serviceReady && m.sys.crown == 0 then
      let m1 := Mod.onHost m fun h => { h with events := es, eventsLost := 0 }
      some (Mod.coalesce (Mod.postRecord m1 n (eventBytes e m.host.eventsLost m.sys.timer.toNat)) n false)
    else none
  | _, _ => none

/-- Post waiting events until none waits or none can be posted. -/
def Mod.drainEvents (m : Mod) : Nat → Mod
  | 0 => m
  | k + 1 =>
    match Mod.postOneEvent m with
    | some m' => Mod.drainEvents m' k
    | none => m

/-- Raise an event (R376): it is posted at once if it can be, else up to 256 wait and further ones are counted. -/
def Mod.event (m : Mod) (code : EventCode) (ctx subject progress : Nat) : Mod :=
  let m := Mod.drainEvents m m.host.events.length
  if m.host.events.length < 256 then
    Mod.drainEvents (Mod.onHost m fun h => { h with events := h.events ++ [⟨code, ctx, subject, progress⟩] }) 257
  else Mod.onHost m fun h => { h with eventsLost := min 65535 (h.eventsLost + 1) }

/-- Raise a management alert (R483): up to 64 wait and further ones are counted; on I3C each one queued sends an In-Band
Interrupt. -/
def Mod.alert (m : Mod) (k : AlertKind) (subject : Nat) : Mod :=
  if m.sys.alerts.length < 64 then
    { m with sys := { m.sys with
        alerts := m.sys.alerts ++ [(k, subject)]
        ibis := m.sys.ibis + b2n m.sys.i3c } }
  else { m with sys := { m.sys with alertsLost := m.sys.alertsLost + 1 } }

/-! ## Descriptors in flight -/

/-- The field [hi:lo] of the descriptor bytes from `off` on (R359): bits count from the low bit of that byte. -/
def descFld (d : BitVec 512) (off hi lo : Nat) : Nat := fld (d.toNat / 2 ^ (8 * off)) hi lo

/-- Kind of a descriptor (R359). -/
def descKind (d : BitVec 512) : Nat := descFld d 0 7 0

/-- Context of a descriptor. -/
def descCtx (d : BitVec 512) : Nat := descFld d 2 7 0

/-- Tag of a descriptor. -/
def descTag (d : BitVec 512) : Nat := descFld d 4 31 0

/-- The flight with a number. -/
def Mod.flight (m : Mod) (id : Nat) : Option Flight := m.host.flights.find? (·.id == id)

/-- Change the flight with a number. -/
def Mod.modFlight (m : Mod) (id : Nat) (f : Flight → Flight) : Mod :=
  Mod.onHost m fun h => { h with flights := h.flights.map fun x => if x.id == id then f x else x }

/-- Post the completion record of a flight (R370) and drop it: its reserved slot is the one written. -/
def Mod.postFlight (m : Mod) (fl : Flight) (status : Status) (progress detail : Nat) : Mod :=
  let q := Mod.sq m fl.ring
  let n := q.cqNum
  let m1 := Mod.onHost m fun h => { h with flights := h.flights.filter (·.id != fl.id) }
  let m2 := Mod.postRecord m1 n (recordBytes (descTag fl.raw) status.code (descKind fl.raw) fl.ring
    (descCtx fl.raw) q.fetched.toNat detail progress m.sys.timer.toNat)
  let c := Mod.cq m2 n
  Mod.coalesce (Mod.setCq m2 n { c with reserved := c.reserved - 1 }) n (bitAt fl.raw.toNat 8)

/-- Post the records of the ABORTs that waited for the record of `target` and for no other (R378, R379). -/
def Mod.postAborts (m : Mod) (target : Nat) : List Flight → Mod
  | [] => m
  | a :: as =>
    if a.waitsFor.contains target then
      let w := a.waitsFor.filter (· != target)
      let m1 := Mod.modFlight m a.id fun x => { x with waitsFor := w }
      let m2 := if w.isEmpty then Mod.postFlight m1 a (a.endStatus.getD .abortLate) 0 0 else m1
      Mod.postAborts m2 target as
    else Mod.postAborts m target as

/-- End a descriptor with a status: its record is posted, then those of the aborts that wait for it. -/
def Mod.endFlight (m : Mod) (id : Nat) (status : Status) (progress detail : Nat) : Mod :=
  match Mod.flight m id with
  | none => m
  | some fl => let m1 := Mod.postFlight m fl status progress detail; Mod.postAborts m1 id m1.host.flights

/-- A descriptor may start (R357): earlier ones of its ring have been taken up, no WAIT ahead of it holds the ring, and with
barrier set no earlier one of its ring is unfinished. -/
def Mod.mayStart (m : Mod) (fl : Flight) : Bool :=
  let earlier := m.host.flights.filter fun x => x.ring == fl.ring && decide (x.id < fl.id)
  !earlier.any (fun x => x.phase == .fetched || descKind x.raw == 0x06)
    && (!bitAt fl.raw.toNat 11 || earlier.isEmpty)

/-- The flight of a descriptor command: it names a descriptor of that kind that is waiting and may run now, and the Crown is
in service (R479). -/
def Mod.ready (m : Mod) (id kind : Nat) : Option Flight :=
  match Mod.flight m id with
  | some fl =>
    if m.sys.crown == 0 && descKind fl.raw == kind && (fl.started || Mod.mayStart m fl) && fl.phase != .ending && fl.phase != .parked
    then some fl else none
  | none => none

/-- Mark a flight started and running. -/
def Mod.startFlight (m : Mod) (id : Nat) : Mod :=
  Mod.modFlight m id fun f => { f with started := true, phase := .running }

/-! ## Contexts, clusters and cores -/

/-- A context, if the number holds one. -/
def Mod.ctx (m : Mod) (k : Nat) : Option Ctx := sget none m.ctxs k

/-- Change a context, if the number holds one. -/
def Mod.modCtx (m : Mod) (k : Nat) (f : Ctx → Ctx) : Mod :=
  { m with ctxs := smod none m.ctxs k (fun c => c.map f) }

/-- A core. -/
def Mod.core (m : Mod) (c : Nat) : Core := sget {} m.cores c

/-- Change a core. -/
def Mod.modCore (m : Mod) (c : Nat) (f : Core → Core) : Mod := { m with cores := smod {} m.cores c f }

/-- A cluster. -/
def Mod.cluster (m : Mod) (l : Nat) : Cluster := sget {} m.clusters l

/-- Change a cluster. -/
def Mod.modCluster (m : Mod) (l : Nat) (f : Cluster → Cluster) : Mod :=
  { m with clusters := smod {} m.clusters l f }

/-- The cores of a cluster. -/
def coresOf (l : Nat) : List Nat := (List.range 16).map (16 * l + ·)

/-- Bank 0 or 1 of a cluster. -/
def Cluster.bank (c : Cluster) (b : Nat) : Bank := if b = 0 then c.bank0 else c.bank1

/-- Change bank 0 or 1 of a cluster. -/
def Cluster.setBank (c : Cluster) (b : Nat) (x : Bank) : Cluster :=
  if b = 0 then { c with bank0 := x } else { c with bank1 := x }

/-- A fresh free value number. -/
def Mod.bumpFree (m : Mod) : Mod := { m with free := m.free + 1 }

/-! ## Fault records (R227 to R233, R520) -/

/-- Enable bit of the fault ring. -/
def FaultRing.enabled (r : FaultRing) : Bool := bitAt r.ctrl.toNat 0

/-- Records of the fault ring. -/
def FaultRing.size (r : FaultRing) : Nat := ringSize (fld r.ctrl.toNat 12 8)

/-- The ring has room for a record. -/
def FaultRing.room (r : FaultRing) : Bool :=
  r.enabled && decide (ahead32 (r.index % 2 ^ 32) r.head.toNat < r.size)

/-- The 64 bytes of a fault record (R227). -/
def faultBytes (r : FaultRec) (phase : Bool) : List Byte :=
  leBytes 1 r.kind.code ++ leBytes 1 r.source.code ++ leBytes 1 r.context
    ++ leBytes 1 (b2n r.write + 2 * b2n r.resolvable + 128 * b2n phase)
    ++ leBytes 4 r.seq ++ leBytes 6 r.address ++ leBytes 2 r.merged ++ leBytes 4 r.unit ++ leBytes 4 r.jobTag
    ++ leBytes 8 r.progress ++ leBytes 8 r.time ++ leBytes 8 r.detail ++ leBytes 16 0

/-- Write a record to the ring (R227, R520); a resolvable one stays known until its operations end. -/
def Mod.writeFaultRec (m : Mod) (r : FaultRec) : Mod :=
  let q := m.flt
  let slot := q.index % q.size
  let m := Mod.hostWrite m (q.base.toNat + 64 * slot) (faultBytes r q.phase) false
  { m with flt := { q with
      index := q.index + 1
      written := q.written + 1
      phase := if slot + 1 = q.size then !q.phase else q.phase
      recs := if r.resolvable then q.recs ++ [{ r with index := q.index }] else q.recs } }

/-- Two faults share a record (R231): same kind, context and 64 KiB page, and the record is unanswered. -/
def sameFault (r : FaultRec) (k : FaultKind) (ctx va : Nat) : Bool :=
  r.resolvable && r.kind == k && r.context == ctx && r.address / 65536 == va / 65536 && !r.orphan && !r.unanswered && r.answer == 0

/-- Join a record: one more operation waits on it (R231). -/
def joinRec (op : Option ParkedOp) (r : FaultRec) : FaultRec :=
  { r with merged := min 65535 (r.merged + 1), ops := r.ops ++ op.toList }

/-- The job tag of a flight, 0 without one. -/
def Mod.tagOf (m : Mod) (job : Nat) : Nat :=
  match Mod.flight m job with
  | some f => descTag f.raw
  | none => 0

/-- One more operation waits on a record, in the ring or in the collector (R231). -/
def Mod.joinFault (m : Mod) (seq : Nat) (op : Option ParkedOp) : Mod :=
  let up (x : FaultRec) := if x.seq = seq then joinRec op x else x
  { m with flt := { m.flt with recs := m.flt.recs.map up, buffered := m.flt.buffered.map up } }

/-- Take a new record: it is written to the ring at once if it can be, else it waits in the collector (R232). -/
def Mod.collectFault (m : Mod) (r : FaultRec) : Mod :=
  if m.flt.buffered.isEmpty && m.flt.room then
    Mod.writeFaultRec { m with flt := { m.flt with nextSeq := m.flt.nextSeq + 1 } } r
  else { m with flt := { m.flt with nextSeq := m.flt.nextSeq + 1, buffered := m.flt.buffered ++ [r] } }

/-- Raise a fault (R227 to R232): join a record of the same page, else make a new one. The number of the record the
operation waits on is answered. `canWait` is false for the save/restore mover and for swaps (R228). -/
def Mod.raiseFault (m : Mod) (k : FaultKind) (src : FaultSource) (ctx va : Nat) (write : Bool) (unit tag progress
    detail : Nat) (canWait : Bool) (op : Option ParkedOp) : Mod × Nat :=
  let res := k.resolvable && canWait
  match (m.flt.recs ++ m.flt.buffered).find? (fun r => res && sameFault r k ctx va) with
  | some r => (Mod.joinFault m r.seq op, r.seq)
  | none =>
    (Mod.collectFault m
      { seq := m.flt.nextSeq, kind := k, source := src, context := ctx, write := write, resolvable := res,
        address := va, unit := unit, jobTag := tag, progress := progress, detail := detail,
        time := m.sys.timer.toNat, ops := op.toList }, m.flt.nextSeq)

/-- Detail of a translation fault (R227): level in [1:0], the entry in [63:8]. -/
def accDetail (f : AccFault) : Nat := f.level % 4 + f.entry / 256 * 256

/-- Raise the fault of an access. -/
def Mod.raiseAcc (m : Mod) (f : AccFault) (src : FaultSource) (ctx unit tag progress : Nat) (canWait : Bool)
    (op : Option ParkedOp) : Mod × Nat :=
  Mod.raiseFault m f.kind src ctx f.va f.write unit tag progress (accDetail f) canWait op

/-- Drop operations from every record; a record whose operations have all ended is ignored later (R233). -/
def Mod.dropOps (m : Mod) (p : ParkedOp → Bool) : Mod :=
  let up (r : FaultRec) := { r with ops := r.ops.filter fun o => !p o }
  { m with flt := { m.flt with recs := m.flt.recs.map up, buffered := m.flt.buffered.map up } }

/-- Write records that wait in the collector while the ring has room (R232). -/
def Mod.drainFaults (m : Mod) : Nat → Mod
  | 0 => m
  | k + 1 =>
    match m.flt.buffered with
    | r :: rs =>
      if m.flt.room then Mod.drainFaults (Mod.writeFaultRec { m with flt := { m.flt with buffered := rs } } r) k
      else m
    | [] => m

end Sys2Proof.Machine
end

