-- ==== Sys2Proof/Machine/Kv.lean ====
section
/-!
DEFINITION. The page pool, the page allocator and the page lists: R163 to R174, R180, R181, R183, R185 to R187,
R199, R200.
-/
namespace Sys2Proof.Machine

open Sys2Proof

/-- The null page number (R165). -/
def nullPage : Nat := 0xFFFF_FFFF

/-- A page descriptor. -/
def Mod.page (m : Mod) (p : Nat) : PageDesc := sget {} m.kv.descs p

/-- Change a page descriptor (R168: by the page allocator, atomically). -/
def Mod.modPage (m : Mod) (p : Nat) (f : PageDesc → PageDesc) : Mod :=
  { m with kv := { m.kv with descs := smod {} m.kv.descs p f } }

/-- Free a context's spill slot of a page that is in host memory or on flash (R362). -/
def Mod.freeSpillSlot (m : Mod) (d : PageDesc) : Mod :=
  match Mod.ctx m d.owner with
  | none => m
  | some c =>
    if !d.flash then
      Mod.modCtx m d.owner fun x =>
        { x with hostSpillUsed := sset false x.hostSpillUsed ((d.spillAddr - c.blk.spillArea) / 0x1_0000) false }
    else Mod.modCtx m d.owner fun x => { x with flashSpillUsed := sset false x.flashSpillUsed d.spillAddr false }

/-- Release a page whose refcount and readers are 0 (R168): from its frame to the free stack; in host memory or on
flash without being read back; while it is being copied out or in, its copy's end releases it. -/
def Mod.tryRelease (m : Mod) (p : Nat) : Mod :=
  let d := Mod.page m p
  if d.refcount ≠ 0 ∨ d.readers ≠ 0 then m
  else if d.tier = 1 then
    Mod.modPage { m with kv := { m.kv with free := d.frame :: m.kv.free } } p fun _ => {}
  else if d.tier = 3 ∨ d.tier = 4 then Mod.modPage (Mod.freeSpillSlot m d) p fun _ => {}
  else m

/-- Drop one reference to a page. -/
def Mod.dropRef (m : Mod) (p : Nat) : Mod :=
  if p = nullPage then m
  else Mod.tryRelease (Mod.modPage m p fun d => { d with refcount := d.refcount - 1 }) p

/-- Add one reference to a page. -/
def Mod.addRef (m : Mod) (p : Nat) : Mod :=
  if p = nullPage then m else Mod.modPage m p fun d => { d with refcount := d.refcount + 1 }

/-- A pass begins to read a page (R180): one more reader, and the use counter's value as stamp. -/
def Mod.addReader (m : Mod) (p : Nat) : Mod :=
  if p = nullPage then m else Mod.modPage m p fun d => { d with readers := d.readers + 1, useStamp := m.kv.useCounter }

/-- A pass ends its reading of a page. -/
def Mod.dropReader (m : Mod) (p : Nat) : Mod :=
  if p = nullPage then m
  else Mod.tryRelease (Mod.modPage m p fun d => { d with readers := d.readers - 1 }) p

/-- Apply an operation to both pages of every entry. -/
def Mod.onEntries (f : Mod → Nat → Mod) (m : Mod) : List ListEntry → Mod
  | [] => m
  | e :: es => Mod.onEntries f (f (f m e.keyPage) e.valuePage) es

/-- The page number a frame is allocated under: its own where that descriptor is free, else the lowest free one. -/
def Mod.pageNumberFor (m : Mod) (frame : Nat) : Option Nat :=
  if (Mod.page m frame).tier = 0 then some frame
  else (List.range m.kv.pages).find? fun p => (Mod.page m p).tier == 0

/-- Allocate a page (R168): the frame released most recently. -/
def Mod.allocPage (m : Mod) (owner layer head content : Nat) : Option (Mod × Nat) :=
  match m.kv.free with
  | [] => none
  | f :: fs =>
    match Mod.pageNumberFor m f with
    | none => none
    | some p =>
      some (Mod.modPage (Mod.visorBrim { m with kv := { m.kv with free := fs } } 0 owner 0x53 1) p fun _ =>
        { tier := 1, owner := owner, unobserved := true, content := content, layer := layer, kvHead := head,
          frame := f }, p)

/-- The place of the page pool (R363). -/
def Mod.poolVa (m : Mod) : Nat := match m.model with | some md => md.blk.poolVa | none => 0

/-- The address of byte `off` of a page in its frame (R165). -/
def Mod.pageVa (m : Mod) (p off : Nat) : Nat := Mod.poolVa m + (Mod.page m p).frame * 0x1_0000 + off

/-- Element bytes of a list format (R169): 0 and 1 FP8, 2 and 3 two bytes. -/
def listElem (format : Nat) : Nat := if format ≤ 1 then 1 else 2

/-- The R288 format of a list format. -/
def listFmt (format : Nat) : Nat :=
  if format = 0 then 3 else if format = 1 then 4 else if format = 2 then 1 else 2

/-- Page capacity in tokens (R163): 0 where width and format give none. -/
def pageCap (width format : Nat) : Nat :=
  if width = 0 ∨ 3 < format then 0 else 65536 / (width * listElem format) / 64 * 64

/-- Offset of the row of slot `i` in a key or latent page (R164). -/
def keyOff (w e i : Nat) : Nat := i * w * e

/-- Offset of element (slot `i`, dimension `k`) in a value page (R164). -/
def valOff (hd e i k : Nat) : Nat := i / 64 * (64 * hd * e) + k * (64 * e) + i % 64 * e

/-! ## Lists -/

/-- Key of a list in a context's lists: its list block and its index in the block (R169). -/
def listKey (block i : Nat) : Nat := block * 65536 + i

/-- The attention layers an image declares, in layer order (R267). -/
def Image.attn (img : Image) : List AttnDecl :=
  img.objects.filterMap fun o => match o.kind with | .attention d => some d | _ => none

/-- The declaration of an attention layer: in the context's image, else in the model's. -/
def Mod.attnDecl (m : Mod) (c : Ctx) (layer : Nat) : Option AttnDecl :=
  let mine := (Image.attn c.image).find? (·.layer == layer)
  match mine, m.model with
  | some d, _ => some d
  | none, some md => (Image.attn md.image).find? (·.layer == layer)
  | none, none => none

/-- Key heads of an attention layer (0 where none is declared). -/
def Mod.keyHeads (m : Mod) (c : Ctx) (layer : Nat) : Nat :=
  match Mod.attnDecl m c layer with | some d => d.keyHeads | none => 0

/-- Index of the list of key head `h` of layer `a` in a list block: K_a + h (R169). -/
def Mod.listIndex (m : Mod) (c : Ctx) (a h : Nat) : Nat :=
  ((List.range a).map (Mod.keyHeads m c)).foldl (· + ·) 0 + h

/-- A list of a context. -/
def Ctx.list (c : Ctx) (key : Nat) : PageList := sget {} c.lists key

/-- Write a list. -/
def Mod.setList (m : Mod) (ctx key : Nat) (l : PageList) : Mod :=
  Mod.modCtx m ctx fun c => { c with lists := sset {} c.lists key l }

/-- The keys of the lists a list block names. -/
def Ctx.listsOf (c : Ctx) (block : Nat) : List Nat :=
  (c.lists.filter fun p => p.1 / 65536 == block).map (·.1)

/-- The score of a page as eviction reads it (R183): unobserved pages read as the largest finite value. -/
def pageScore (d : PageDesc) : Word := if d.unobserved then 0x7F7F_FFFF else d.score

/-- Score `a` ranks below `b` (R181): a NaN below every number. -/
def scoreBelow (a b : Word) : Bool :=
  if (f32 a).isNan then !(f32 b).isNan else if (f32 b).isNan then false else flt a b

/-- An entry may be evicted (R181). -/
def Mod.evictable (m : Mod) (l : PageList) (e : ListEntry) : Bool :=
  decide (16 ≤ e.firstPosition)
    && !(decide (l.length - l.window < e.firstPosition + e.count) && decide (e.firstPosition < l.length))
    && !(Mod.page m e.keyPage).unobserved
    && l.entries.getLast? != some e

/-- The entry eviction removes next: the lowest score, the lowest first_position among equals. -/
def Mod.victim (m : Mod) (l : PageList) : Option ListEntry :=
  (l.entries.filter (Mod.evictable m l)).foldl (fun (acc : Option ListEntry) e =>
    match acc with
    | none => some e
    | some b => if scoreBelow (pageScore (Mod.page m e.keyPage)) (pageScore (Mod.page m b.keyPage)) then some e
        else some b) none

/-- Evict down to the budget (R181); true when the list stays over it. -/
def Mod.evict (m : Mod) (ctx key : Nat) : Nat → Mod × Bool
  | 0 => (m, false)
  | k + 1 =>
    match Mod.ctx m ctx with
    | none => (m, false)
    | some c =>
      let l := c.list key
      if l.budget = 0 || l.latent || l.ring || l.entries.length ≤ l.budget then (m, false)
      else match Mod.victim m l with
        | none => (m, true)
        | some e =>
          let m1 := Mod.setList (Mod.visorBrim m 0 ctx 0x55 1) ctx key { l with entries := l.entries.filter (· != e) }
          Mod.evict (Mod.dropRef (Mod.dropRef m1 e.keyPage) e.valuePage) ctx key k

/-! ## Length tables -/

/-- A length-table row from its 32 bytes (R172). -/
def lenRowOf (bs : List Byte) : LenRow :=
  let w := leNat ((bs.drop 4).take 4)
  { sequence := leNat (bs.take 4)
    branch := fld w 11 0
    append := bitAt w 16
    mask := fld w 18 17
    ring := bitAt w 19
    start := leNat ((bs.drop 8).take 4)
    length := leNat ((bs.drop 0xC).take 4)
    listBlock := leNat ((bs.drop 0x10).take 6)
    maskBlock := leNat ((bs.drop 0x18).take 4) }

/-- Rows from their bytes, each with its address. -/
def lenRowsOf (va : Nat) (bs : List Byte) : Nat → List (Nat × LenRow)
  | 0 => []
  | n + 1 => (va, lenRowOf bs) :: lenRowsOf (va + 32) (bs.drop 32) n

/-! ## Writing tokens -/

/-- What one append needs of the data it writes: key row and value row of a token, as bytes (R310). -/
structure TokenRows where
  key : List Byte := []
  value : List Byte := []
  poison : Bool := false
  deriving DecidableEq, Repr, Inhabited

/-- Write bytes at model-space addresses. Faults are left to the caller's check beforehand. -/
def Mod.poke (m : Mod) (tlb ctx va : Nat) (bs : List Byte) (poison : Bool) : Mod :=
  (Mod.vaWrite m tlb ctx va bs poison).1

/-- Write one value row: element k of dimension k (R164). -/
def Mod.writeValue (m : Mod) (tlb ctx page hd e slot : Nat) (poison : Bool) : Nat → List Byte → Mod
  | _, [] => m
  | k, b :: bs =>
    if e = 1 then
      Mod.writeValue (Mod.poke m tlb ctx (Mod.pageVa m page (valOff hd 1 slot k)) [b] poison) tlb ctx page hd e slot
        poison (k + 1) bs
    else
      match bs with
      | b2 :: bs' =>
        Mod.writeValue (Mod.poke m tlb ctx (Mod.pageVa m page (valOff hd e slot k)) [b, b2] poison) tlb ctx page hd e
          slot poison (k + 1) bs'
      | [] => m

/-- Write the tokens of an append into consecutive slots of a page pair. -/
def Mod.writeTokens (m : Mod) (tlb ctx : Nat) (l : PageList) (e : ListEntry) : Nat → List TokenRows → Mod
  | _, [] => m
  | slot, t :: ts =>
    let es := listElem l.format
    let m1 :=
      if l.latent then
        Mod.poke m tlb ctx (Mod.pageVa m e.keyPage (keyOff l.width es slot)) t.value t.poison
      else
        Mod.writeValue (Mod.poke m tlb ctx (Mod.pageVa m e.keyPage (keyOff l.width es slot)) t.key t.poison) tlb ctx
          e.valuePage l.width es slot t.poison 0 t.value
    Mod.writeTokens m1 tlb ctx l e (slot + 1) ts

/-- After a write of slots up to `count`: fill, and unobserved (R180, R199). -/
def Mod.noteWritten (m : Mod) (e : ListEntry) (count : Nat) : Mod :=
  let up (d : PageDesc) : PageDesc := { d with fill := count, unobserved := true }
  let m1 := Mod.modPage m e.keyPage up
  if e.valuePage = nullPage then m1 else Mod.modPage m1 e.valuePage up

/-- A fresh entry at the list's length: one latent page or a pair (R180). None where the pool has no frame. -/
def Mod.freshEntry (m : Mod) (ctx : Nat) (l : PageList) : Option (Mod × ListEntry) :=
  match Mod.allocPage m ctx l.layer l.kvHead (if l.latent then 2 else 0) with
  | none => none
  | some (m1, k) =>
    let m1 := Mod.addRef m1 k
    if l.latent then some (m1, ⟨k, nullPage, l.length, 0⟩)
    else match Mod.allocPage m1 ctx l.layer l.kvHead 1 with
      | none => none
      | some (m2, v) => some (Mod.addRef m2 v, ⟨k, v, l.length, 0⟩)

/-- Copy the written part of a page to another (R200 step 2). -/
def Mod.copyPage (m : Mod) (tlb ctx src dst n : Nat) : Mod :=
  match Mod.vaRead m tlb ctx (Mod.pageVa m src 0) n with
  | .inr (bs, po) => Mod.poke m tlb ctx (Mod.pageVa m dst 0) bs po
  | .inl _ => m

/-- Copy-on-write of an entry's pages (R200): the new entry. None where the pool has no frame. -/
def Mod.copyEntry (m : Mod) (tlb ctx : Nat) (l : PageList) (e : ListEntry) : Option (Mod × ListEntry) :=
  match Mod.freshEntry m ctx l with
  | none => none
  | some (m1, f) =>
    let es := listElem l.format
    let kb := roundUp (e.count * l.width * es) 64
    let vb := ceilDiv e.count 64 * (64 * l.width * es)
    let src := Mod.page m1 e.keyPage
    let like (p : Nat) (x : Mod) : Mod :=
      Mod.modPage x p fun d => { d with fill := e.count, owner := src.owner, layer := src.layer, kvHead := src.kvHead,
                                        score := src.score, unobserved := src.unobserved }
    let m2 := Mod.copyPage m1 tlb ctx e.keyPage f.keyPage kb
    let m2 := if l.latent then m2 else Mod.copyPage m2 tlb ctx e.valuePage f.valuePage vb
    let m3 := like f.keyPage m2
    let m3 := if l.latent then m3 else like f.valuePage m3
    let m4 := Mod.visorBrim m3 0 ctx 0x54 1
    some (Mod.dropRef (Mod.dropRef m4 e.keyPage) e.valuePage, { f with firstPosition := e.firstPosition, count := e.count })

/-- What an append of tokens to a list gives. -/
inductive Appended where
  | done (m : Mod)
  | poolEmpty
  | listFull
  | fault (f : AccFault)
  deriving Inhabited

/-- The last entry may take more tokens: it ends at the list's length and its page has room (R180). -/
def openEntry (l : PageList) : Option ListEntry :=
  match l.entries.getLast? with
  | some e =>
    if e.firstPosition + e.count = l.length && e.count < pageCap l.width l.format then some e else none
  | none => none

/-- The append may write in place (R199). -/
def Mod.inPlace (m : Mod) (e : ListEntry) : Bool :=
  let d := Mod.page m e.keyPage
  d.refcount == 1 && (d.fill == e.count || d.readers == 0)

/-- Write tokens into an entry that is the last of the list, and set its count. -/
def Mod.fillEntry (m : Mod) (tlb ctx key : Nat) (l : PageList) (front : List ListEntry) (e : ListEntry)
    (ts : List TokenRows) : Mod :=
  let e' := { e with count := e.count + ts.length }
  let m1 := Mod.noteWritten (Mod.writeTokens m tlb ctx l e e.count ts) e e'.count
  Mod.setList m1 ctx key { l with entries := front ++ [e'], length := l.length + ts.length }

/-- The pages of an entry translate for writing. -/
def Mod.entryFaults (m : Mod) (tlb ctx : Nat) (e : ListEntry) : Option AccFault :=
  Mod.writeFault m tlb ctx
    ((Mod.pageVa m e.keyPage 0, 1) :: (if e.valuePage = nullPage then [] else [(Mod.pageVa m e.valuePage 0, 1)]))

/-- Append tokens to a list, page by page (R180, R199, R200, R171); `fuel` bounds the pages. -/
def Mod.appendTokens (m : Mod) (tlb ctx key : Nat) : Nat → List TokenRows → Appended
  | 0, _ => .done m
  | fuel + 1, ts =>
    if ts.isEmpty then .done m
    else match Mod.ctx m ctx with
      | none => .done m
      | some c =>
        let l := c.list key
        let cap := pageCap l.width l.format
        match openEntry l with
        | some e =>
          let now := ts.take (cap - e.count)
          if Mod.inPlace m e then
            match Mod.entryFaults m tlb ctx e with
            | some f => .fault f
            | none =>
              Mod.appendTokens (Mod.fillEntry m tlb ctx key l l.entries.dropLast e now) tlb ctx key fuel
                (ts.drop now.length)
          else match Mod.copyEntry m tlb ctx l e with
            | none => .poolEmpty
            | some (m1, e1) =>
              match Mod.entryFaults m1 tlb ctx e1 with
              | some f => .fault f
              | none =>
              Mod.appendTokens (Mod.fillEntry m1 tlb ctx key l l.entries.dropLast e1 now) tlb ctx key fuel
                (ts.drop now.length)
        | none =>
          if l.capacity ≤ l.entries.length then .listFull
          else match Mod.freshEntry m ctx l with
            | none => .poolEmpty
            | some (m1, e1) =>
              match Mod.entryFaults m1 tlb ctx e1 with
              | some f => .fault f
              | none =>
              let now := ts.take (max 1 cap)
              Mod.appendTokens (Mod.fillEntry m1 tlb ctx key l l.entries e1 now) tlb ctx key fuel (ts.drop now.length)

/-! ## Spilling (R185 to R187) -/

/-- The owner of a page is latency-critical. -/
def Mod.ownerLc (m : Mod) (d : PageDesc) : Bool :=
  match Mod.ctx m d.owner with | some c => c.lc | none => false

/-- The first free slot of a context's host spill area, as its address. -/
def Ctx.hostSlot (c : Ctx) : Option Nat :=
  ((List.range (c.blk.spillBytes / 0x1_0000)).find? fun i => !sget false c.hostSpillUsed i)

/-- The first free slot of a context's flash spill extent. -/
def Ctx.flashSlot (c : Ctx) : Option Nat :=
  match c.spillExtent with
  | none => none
  | some d => (List.range d.rows).find? fun i => !sget false c.flashSpillUsed i

/-- The page has somewhere to go (R185). -/
def Mod.hasSpillPlace (m : Mod) (d : PageDesc) : Bool :=
  match Mod.ctx m d.owner with
  | some c => (Ctx.hostSlot c).isSome || (Ctx.flashSlot c).isSome
  | none => false

/-- A page may be a spill victim (R185). -/
def Mod.spillable (m : Mod) (forBe : Bool) (p : Nat) (d : PageDesc) : Bool :=
  let cap := match Mod.ctx m d.owner with
    | some c => match Mod.attnDecl m c d.layer with
      | some a => pageCap (if d.content = 2 then a.rank else a.hd) a.format
      | none => 0
    | none => 0
  d.tier == 1 && d.fill == cap && cap != 0 && !d.unobserved && d.readers == 0 && !(forBe && Mod.ownerLc m d)
    && Mod.hasSpillPlace m d && p < m.kv.pages

/-- Page `a` is the better victim: best-effort before latency-critical, then the older stamp (R168, R185). -/
def Mod.betterVictim (m : Mod) (a b : PageDesc) : Bool :=
  if Mod.ownerLc m a != Mod.ownerLc m b then Mod.ownerLc m b
  else behind32 a.useStamp b.useStamp

/-- The spill victim. -/
def Mod.spillVictim (m : Mod) (forBe : Bool) : Option Nat :=
  ((m.kv.descs.filter fun x => Mod.spillable m forBe x.1 x.2).foldl (fun (acc : Option (Nat × PageDesc)) x =>
    match acc with
    | none => some x
    | some b => if Mod.betterVictim m x.2 b.2 then some x else some b) none).map (·.1)

/-- Begin a spill (R186 step 1): tier spilling and spill_addr. -/
def Mod.beginSpill (m : Mod) (p : Nat) : Mod :=
  let d := Mod.page m p
  match Mod.ctx m d.owner with
  | none => m
  | some c =>
    match Ctx.hostSlot c with
    | some i =>
      let m1 := Mod.modCtx m d.owner fun x => { x with hostSpillUsed := sset false x.hostSpillUsed i true }
      Mod.modPage m1 p fun d => { d with tier := 2, flash := false, spillAddr := c.blk.spillArea + i * 0x1_0000 }
    | none =>
      match Ctx.flashSlot c with
      | some i =>
        let m1 := Mod.modCtx m d.owner fun x => { x with flashSpillUsed := sset false x.flashSpillUsed i true }
        Mod.modPage m1 p fun d => { d with tier := 2, flash := true, spillAddr := i }
      | none => m

/-- Begin to fetch a page back (R187): take a frame, tier fetching; spill_addr still names the copy. -/
def Mod.beginFetch (m : Mod) (p : Nat) : Option Mod :=
  match m.kv.free with
  | [] => none
  | f :: fs =>
    some (Mod.modPage { m with kv := { m.kv with free := fs } } p fun d => { d with tier := 5, frame := f })

end Sys2Proof.Machine
end

