-- ==== Sys2Proof/Machine/Contexts.lean ====
section
/-!
DEFINITION. Contexts, jobs and the cores they run on: placement (R265), stopping cores (R38, R68), the end of a
context (R362, R380) and the outcomes that end one (R22, R27, R31, R321), and the marks a job carries (R33, R50).
-/
namespace Sys2Proof.Machine

open Sys2Proof

/-- The clusters an image's placement map names, in order. -/
def Image.clusterList (img : Image) : List Nat :=
  img.placement.flatMap fun e => (List.range e.count).map (e.first + ·)

/-- The placement entry of a cluster. -/
def Image.entryAt (img : Image) (cl : Nat) : Option PlaceEntry :=
  img.placement.find? fun e => e.first ≤ cl && cl < e.first + e.count

/-- The role an image runs in a cluster. -/
def Image.roleAt (img : Image) (cl : Nat) : Option Nat := (Image.entryAt img cl).map (·.role)

/-- The words of a role. -/
def Image.roleWords (img : Image) (r : Nat) : List DWord :=
  match img.roles.find? (·.role == r) with | some c => c.words | none => []

/-- An object declaration by number, in the context's image, else in the model's. -/
def Mod.objDecl (m : Mod) (ctx n : Nat) : Option ObjDecl :=
  let mine := match Mod.ctx m ctx with
    | some c => c.image.objects.find? fun (o : ObjDecl) => o.number == n
    | none => none
  match mine, m.model with
  | some o, _ => some o
  | none, some md => md.image.objects.find? fun (o : ObjDecl) => o.number == n
  | none, none => none

/-- The place the host gave an object (R236, R267): context-space placements first, then the model's. -/
def Mod.objPlace (m : Mod) (ctx n : Nat) : Option Nat :=
  let mine := match Mod.ctx m ctx with
    | some c => c.blk.places.find? fun (o : ObjPlace) => o.object == n
    | none => none
  match mine, m.model with
  | some o, _ => some o.address
  | none, some md => (md.blk.places.find? fun (o : ObjPlace) => o.object == n).map fun (o : ObjPlace) => o.address
  | none, none => none

/-- The address of an object: its place, or a free address where no block places it, which the spec does not forbid. -/
def Mod.objVa (m : Mod) (ctx n : Nat) : Nat :=
  match Mod.objPlace m ctx n with | some a => a | none => Config.unplacedVa n % 2 ^ 48

/-- First line of the working space (R22, R383). -/
def Mod.weightLines (m : Mod) : Nat := match m.model with | some md => md.image.weightLines | none => 0

/-- The context a core's role runs in. -/
def Mod.ctxOf (m : Mod) (core : Nat) : Nat := (Mod.core m core).ctx.getD 0xFF

/-! ## Stopping cores -/

/-- The entries of the lists a pass took, each page once (R180: one reader for the pass). -/
def passEntries (ls : List (Nat × PageList)) : List ListEntry :=
  ls.foldl (fun acc l => l.2.entries.foldl (fun (a : List ListEntry) e =>
    if a.any (fun x => x.keyPage == e.keyPage) then a else a ++ [e]) acc) []

/-- A bank loses one fetching core (R36, R38). -/
def Bank.leave (b : Bank) : Bank :=
  { b with fetch := b.fetch - 1, state := if b.state = 3 ∧ b.fetch ≤ 1 then 2 else b.state }

/-- A bank gains one fetching core. -/
def Bank.enter (b : Bank) : Bank := { b with fetch := b.fetch + 1, state := 3 }

/-- A core at rest: its scratchpad stays, everything else goes; bytes of the working space are undefined for the next
job (R385). -/
def Core.rest (c : Core) (weightLines epoch : Nat) (reset : Bool) : Core :=
  { spad := c.spad.filter fun p => decide (p.1 < weightLines * 32)
    spadPoison := c.spadPoison.filter fun p => decide (p.1 < weightLines * 4)
    tags := c.tags
    epoch := epoch
    arrayReset := c.arrayReset || reset }

/-- Take a core out of its role: its contribution leaves the bank's fetch count and it comes to rest. -/
def Mod.stopCore (m : Mod) (reset : Bool) (c : Nat) : Mod :=
  let x := Mod.core m c
  let m1 := if x.running then Mod.modCluster m (c / 16) fun k => k.setBank x.bank (k.bank x.bank).leave else m
  let m2 := match x.pass with | some ls => Mod.onEntries Mod.dropReader m1 (passEntries ls) | none => m1
  Mod.bumpFree (Mod.modCore m2 c fun y => y.rest (Mod.weightLines m) (m.free + 1) reset)

/-- Stop every core of a cluster and free the cluster. -/
def Mod.stopCluster (m : Mod) (reset : Bool) (l : Nat) : Mod :=
  let m1 := (coresOf l).foldl (Mod.stopCore · reset) m
  Mod.modCluster m1 l fun k => { k with job := none, ctx := none, preempt := none }

/-- The clusters a job runs in now. -/
def Mod.jobClusters (m : Mod) (id : Nat) : List Nat :=
  (m.clusters.filter fun p => p.2.job == some id).map (·.1)

/-- The clusters a context's jobs run in now. -/
def Mod.ctxClusters (m : Mod) (k : Nat) : List Nat :=
  (m.clusters.filter fun p => p.2.ctx == some k).map (·.1)

/-! ## What a job carries -/

/-- The job's outputs were reached by poison (R33, R375). -/
def Mod.markPoison (m : Mod) (job : Nat) : Mod := Mod.modFlight m job fun f => { f with poisoned := true }

/-- The null engine was reached (R50, R375). -/
def Mod.markAbsent (m : Mod) (job : Nat) : Mod := Mod.modFlight m job fun f => { f with engineAbsent := true }

/-- Status of a descriptor that ran to its end (R375). -/
def Flight.ranStatus (f : Flight) : Status :=
  if f.engineAbsent then .engineAbsent else if f.poisoned then .poisonedData else .ok

/-- Progress field of a descriptor (R372). -/
def Flight.progressField (f : Flight) : Nat :=
  if descKind f.raw = 0x03 then (if f.started then f.ended + f.total * 2 ^ 32 else 0)
  else if descKind f.raw = 0x04 ∨ descKind f.raw = 0x08 ∨ descKind f.raw = 0x09 ∨ descKind f.raw = 0x0B then f.progress
  else 0

/-! ## The end of a context -/

/-- The operation parked on a record belongs to the context. -/
def Mod.opOf (m : Mod) (k : Nat) : ParkedOp → Bool
  | .dma _ j => (match Mod.flight m j with | some f => descCtx f.raw == k | none => true)
  | .core _ j => (match Mod.flight m j with | some f => descCtx f.raw == k | none => true)
  | .flight id => match Mod.flight m id with | some f => descCtx f.raw == k | none => true
  | .bookkeeping id => match Mod.flight m id with | some f => descCtx f.raw == k | none => true
  | .bag b => match m.tab.bags.find? (·.id == b) with | some x => x.ctx == k | none => true
  | .read _ => false
  | .fill _ => false
  | .packet p => p.context == k
  | .coll g => (match sget none m.coll g with | some x => x.d.context == k | none => true)
  | .spill p => (Mod.page m p).owner == k
  | .fetch p => (Mod.page m p).owner == k

/-- End the unfinished descriptors of a context but ABORT and LOAD_PROGRAM, in fetch order (R362, R378). -/
def Mod.endFlights (m : Mod) (st : Flight → Status) : List Flight → Mod
  | [] => m
  | f :: fs => Mod.endFlights (Mod.endFlight m f.id (st f) (Flight.progressField f) 0) st fs

/-- The unfinished descriptors of a context that its end ends. -/
def Mod.ctxFlights (m : Mod) (k : Nat) : List Flight :=
  m.host.flights.filter fun f => descCtx f.raw == k && descKind f.raw != 0x0D && descKind f.raw != 0x02

/-- Drop every page reference of a context's lists (R168, R362). -/
def Mod.dropLists (m : Mod) : List (Nat × PageList) → Mod
  | [] => m
  | (_, l) :: ls => Mod.dropLists (Mod.onEntries Mod.dropRef m l.entries) ls

/-- What a context leaves in the clusters: its flags, counters, mirror copies and residency go (R362). -/
def Cluster.forget (k : Nat) (c : Cluster) : Cluster :=
  { c with
    flags := c.flags.filter fun p => p.1 / 4096 != k
    mirrors := c.mirrors.filter fun p => p.1 % 65536 / 4096 != k
    counters := c.counters.filter fun p => p.1 / 4 != k
    resident := c.resident.filter (· != k) }

/-- Return a context's device-wide resources (R44, R332, R336, R362). -/
def Dev.forget (k : Nat) (d : Dev) : Dev :=
  let mineF := (d.flagOwner.filter fun p => (p.2 - 1) / 4096 == k).map (·.1)
  let mineC := (d.ctrOwner.filter fun p => p.2 == k + 1).map (·.1)
  let mineL := (d.lineOwner.filter fun p => p.2 == k + 1).map (·.1)
  { d with
    flags := d.flags.filter fun p => !mineF.contains p.1
    flagOwner := d.flagOwner.filter fun p => !mineF.contains p.1
    counters := d.counters.filter fun p => !mineC.contains p.1
    ctrOwner := d.ctrOwner.filter fun p => !mineC.contains p.1
    release := d.release.filter fun p => !mineL.contains p.1
    lineOwner := d.lineOwner.filter fun p => !mineL.contains p.1
    enrolled := d.enrolled.filter fun p => !mineL.contains p.1 }

/-- Physical lines a context holds. -/
def Dev.linesOf (d : Dev) (k : Nat) : List Nat := (d.lineOwner.filter fun p => p.2 == k + 1).map (·.1)

/-- The readers that the waiting passes of a list of cores hold are dropped. -/
def Mod.dropPasses (m : Mod) : List Core → Mod
  | [] => m
  | x :: xs => Mod.dropPasses (match x.pass with | some ls => Mod.onEntries Mod.dropReader m (passEntries ls) | none => m) xs

/-- The readers that waiting passes in a context's saved records hold are dropped. -/
def Mod.dropSavedPasses (m : Mod) (k : Nat) (p : SavedCluster → Bool) : Mod :=
  match Mod.ctx m k with
  | some c => Mod.dropPasses m ((c.saves.filter fun x => p x.2).flatMap fun x => x.2.cores)
  | none => m

/-- The end of a context but for its descriptors: cores, pages, flags, lines, counters, pool slots, groups, parked
operations, bags and channels (R233, R362, R398). `reset` resets the arrays of its clusters (R68). -/
def Mod.dropContext (m : Mod) (k : Nat) (reset : Bool) : Mod :=
  match Mod.ctx m k with
  | none => m
  | some c =>
    let m := Mod.dropOps m (Mod.opOf m k)
    let m := Mod.dropSavedPasses m k fun _ => true
    let m := (Mod.ctxClusters m k).foldl (fun x l => Mod.stopCluster x reset l) m
    let m := Mod.dropLists m c.lists
    let lines := Dev.linesOf m.dev k
    let m := { m with clusters := m.clusters.map fun (p : Nat × Cluster) => (p.1, { Cluster.forget k p.2 with
      taps := p.2.taps.filter (fun t => !lines.contains t.1)
      arrivals := p.2.arrivals.filter (fun t => !lines.contains t.1) }) }
    let m := { m with clusters := m.clusters.filter fun (p : Nat × Cluster) => p.2 != (default : Cluster) }
    { m with
      dev := Dev.forget k m.dev
      kv := { m.kv with streamSlots := m.kv.streamSlots.filter fun p => (p.2 - 1) / 65536 != k }
      vis := { m.vis with
        clVals := m.vis.clVals.filter fun p => p.1 / 4 % 16 != k
        clInForce := m.vis.clInForce.filter fun p => p.1 % 16 != k }
      coll := m.coll.filter fun p => match p.2 with | some g => g.d.context != k | none => false
      tab := { m.tab with bags := m.tab.bags.filter fun b => b.ctx != k }
      fab := { m.fab with chans := m.fab.chans.filter fun p => p.1 / 65536 != k }
      ctxs := sset none m.ctxs k none }

/-- Held latency-critical jobs are released when the exclusive context ends or its RUN ends (R366). -/
def Mod.releaseHeld (m : Mod) (k : Nat) : Mod :=
  match Mod.ctx m k with
  | some c =>
    if c.exclusive && c.lcHeldPosted then
      Mod.event (Mod.modCtx m k fun x => { x with lcHeldPosted := false }) .lcReleased k k 0
    else m
  | none => m

/-- End a context as LOAD_PROGRAM op 2 ends it (R362): its resources return, its unfinished descriptors end. -/
def Mod.endContext (m : Mod) (k : Nat) (reset : Bool) (st : Flight → Status) : Mod :=
  let fs := Mod.ctxFlights m k
  Mod.endFlights (Mod.dropContext (Mod.releaseHeld m k) k reset) st fs

/-- End a context with CONTEXT_KILLED (R374) without a record of its own. -/
def Mod.killCtx (m : Mod) (k : Nat) : Mod := Mod.endContext m k true fun _ => .contextKilled

/-- A core's rule ends its context (R22, R27, R31, R107, R118, R171, R173, R196, R203, R257, R292): a fault record
that is not resolvable, then the context ends. -/
def Mod.kill (m : Mod) (core : Nat) (k : FaultKind) (src : FaultSource) (va detail : Nat) : Mod :=
  let x := Mod.core m core
  let ctx := Mod.ctxOf m core
  let m1 := (Mod.raiseFault m k src ctx va false core (Mod.tagOf m x.job) 0 detail false none).1
  Mod.killCtx m1 ctx

/-- Detail of a region fault at issue (R292): the role in [47:32], the word offset in [31:0]. -/
def Core.here (c : Core) : Nat := c.role * 2 ^ 32 + c.pc

/-- A record that drives the module's work reads poisoned (R526): the context ends; the job that read it completes
POISONED_DATA, the others CONTEXT_KILLED. -/
def Mod.controlPoison (m : Mod) (ctx job unit va : Nat) : Mod :=
  let m1 := (Mod.raiseFault m .controlPoison .controlUnit ctx va false unit (Mod.tagOf m job) 0 0 false none).1
  Mod.endContext m1 ctx true fun f => if f.id = job then .poisonedData else .contextKilled

/-- End one job of a core with a status before its roles have ended (R141, R314, R230): as an abort ends it. The
streams' records are advanced by `Mod.endJob` in Jobs.lean, which calls this. -/
def Mod.stopJob (m : Mod) (id : Nat) : Mod :=
  let m1 := Mod.dropOps m fun o => match o with
    | .dma _ j => j == id
    | .core _ j => j == id
    | .flight i => i == id
    | .bag b => match m.tab.bags.find? (·.id == b) with | some x => x.job == id | none => false
    | _ => false
  let m2 := (Mod.jobClusters m id).foldl (fun x l => Mod.stopCluster x false l) m1
  { m2 with tab := { m2.tab with bags := m2.tab.bags.filter fun b => b.job != id } }

end Sys2Proof.Machine
end

