-- ==== Sys2Proof/Machine/FabricOps.lean ====
section
/-!
DEFINITION. Sending on the fabric: coordinates and routes (R399, R414 to R417), virtual channels and credits (R409,
R410), packets and flits (R405, R407, R411), requests that expect an answer (R429).
-/
namespace Sys2Proof.Machine

open Sys2Proof

/-- A coordinate of the torus. -/
abbrev Xyz := Nat × Nat × Nat

/-- LNK_COORD's coordinates. -/
def Mod.here (m : Mod) : Xyz :=
  (fld m.fab.coord.toNat 7 0, fld m.fab.coord.toNat 15 8, fld m.fab.coord.toNat 23 16)

/-- The torus extents. -/
def Mod.extents (m : Mod) : Xyz :=
  (fld m.fab.coord.toNat 27 24 + 1, fld m.fab.coord.toNat 31 28 + 1, fld m.fab.coord.toNat 35 32 + 1)

/-- The module is the spare of its X ring (R400). -/
def Mod.isSpare (m : Mod) : Bool := bitAt m.fab.coord.toNat 36

/-- The coordinates the module answers to: a spare that has taken over a member answers to the member's (R432). -/
def Mod.answersTo (m : Mod) (d : Xyz) : Bool :=
  if Mod.isSpare m then (match m.rcv.takeover with | some t => d == (t.x, (Mod.here m).2) | none => false)
  else d == Mod.here m

/-- A port. -/
def Mod.port (m : Mod) (p : Nat) : Port := sget {} m.fab.ports p

/-- Write a port. -/
def Mod.setPort (m : Mod) (p : Nat) (x : Port) : Mod := { m with fab := { m.fab with ports := sset {} m.fab.ports p x } }

/-- Change a port. -/
def Mod.modPort (m : Mod) (p : Nat) (f : Port → Port) : Mod := Mod.setPort m p (f (Mod.port m p))

/-- A port carries flits (R403). -/
def Port.isActive (p : Port) : Bool := p.state == 6

/-- The shorter way round from `a` to `b` in extent `d` is the + direction; + when both are equal (R415). -/
def plusWay (a b d : Nat) : Bool := 2 * ((b + d - a) % d) ≤ d

/-- The next coordinate in a direction. -/
def stepCoord (a d : Nat) (plus : Bool) : Nat := if plus then (a + 1) % d else (a + d - 1) % d

/-- The hop crosses the dateline of its dimension (R416). -/
def crosses (a d : Nat) (plus : Bool) : Bool := if plus then a + 1 == d else a == 0

/-- A coordinate is lost (R417, R432). -/
def Mod.isLost (m : Mod) (c : Xyz) : Bool := m.fab.lost.contains c

/-- A route: the first port of the pair, and whether the hop is a detour, with whether it crosses the dateline. -/
structure Hop where
  pair : Nat
  /-- an express port or the spare's, which has no second port of a pair chosen by parity -/
  single : Bool := false
  detour : Bool := false
  dateline : Bool := false
  deriving DecidableEq, Repr, Inhabited

/-- The detour of R417: X+, or X− where that neighbour is lost too. -/
def Mod.detourHop (m : Mod) : Hop :=
  let (x, y, z) := Mod.here m
  let d := (Mod.extents m).1
  let plus := !Mod.isLost m (stepCoord x d true, y, z)
  { pair := if plus then 0 else 2, detour := true, dateline := crosses x d plus }

/-- The next hop of a packet to `dest` (R415 to R417): Z, then Y, then X. -/
def Mod.nextHop (m : Mod) (dest : Xyz) : Hop :=
  let (x, y, z) := Mod.here m
  let (dx, dy, dz) := Mod.extents m
  let (a, b, c) := dest
  if z ≠ c then
    let plus := plusWay z c dz
    if Mod.isLost m (x, y, stepCoord z dz plus) then Mod.detourHop m
    else { pair := if plus then 8 else 10, dateline := crosses z dz plus }
  else if y ≠ b then
    let plus := plusWay y b dy
    if Mod.isLost m (x, stepCoord y dy plus, z) then Mod.detourHop m
    else { pair := if plus then 4 else 6, dateline := crosses y dy plus }
  else if Mod.isLost m dest then { pair := 14, single := true, detour := true }
  else
    let plus := plusWay x a dx
    let next := stepCoord x dx plus
    if Mod.isLost m (next, y, z) then
      { pair := if plus then 12 else 13, single := true, detour := true
        dateline := crosses x dx plus || crosses next dx plus }
    else { pair := if plus then 0 else 2, dateline := crosses x dx plus }

/-- Sum of two coordinates' parts, for the parity of R415. -/
def parityOf (s d : Xyz) : Nat := (s.1 + s.2.1 + s.2.2 + d.1 + d.2.1 + d.2.2) % 2

/-- The other link of a pair (R399, R400): none for an express port, nor where no second link is wired. -/
def Mod.pairPort (m : Mod) (p : Nat) : Option Nat :=
  let two := decide ((Mod.extents m).1 ≤ 8)
  if Mod.isSpare m then (if two then some (if p < 8 then p + 8 else p - 8) else none)
  else if p < 12 then some (if p % 2 = 0 then p + 1 else p - 1)
  else if p < 14 || !two then none
  else some (29 - p)

/-- A port, or the other link of its pair where the port is not active and that one is (R428). -/
def Mod.livePort (m : Mod) (p : Nat) : Nat :=
  if (Mod.port m p).isActive then p
  else match Mod.pairPort m p with
    | some q => if (Mod.port m q).isActive then q else p
    | none => p

/-- The port a packet leaves by: its parity's port of the pair, or the other one where that is not active (R428). A
spare leaves by its link to the ring's member after the one it stands for (R417). -/
def Mod.outPort (m : Mod) (pkt : Packet) (half : Option Nat) : Nat × Hop :=
  if Mod.isSpare m then
    let t := match m.rcv.takeover with | some t => t.x | none => 0
    let (_, y, z) := Mod.here m
    let d := (Mod.extents m).1
    let up := (t + 1) % d
    let member := if Mod.isLost m (up, y, z) then (t + d - 1) % d else up
    let direct := if pkt.dest.2 == (y, z) && !Mod.isLost m pkt.dest then pkt.dest.1 else member
    (Mod.livePort m direct, { pair := direct, single := true, detour := true })
  else
    let h := Mod.nextHop m pkt.dest
    if h.single then (Mod.livePort m h.pair, h)
    else (Mod.livePort m (h.pair + (match half with | some k => k % 2 | none => parityOf pkt.src pkt.dest)), h)

/-- The virtual channel of a packet type (R409). -/
def vcOf (ptype : Nat) : Nat :=
  if ptype = 0x03 ∨ ptype = 0x07 ∨ ptype = 0x08 then 1
  else if ptype = 0x10 ∨ ptype = 0x11 then 2
  else if ptype = 0x20 ∨ ptype = 0x21 then 3
  else 0

/-- The packet types that carry a tag and return address as their first data bytes (R411). -/
def hasTag (ptype : Nat) : Bool :=
  ptype = 0x01 || ptype = 0x02 || ptype = 0x03 || ptype = 0x06 || ptype = 0x07 || ptype = 0x08

/-- Data flits of a packet (R411). -/
def flitsOf (p : Packet) : Nat := max 1 (ceilDiv (16 + (if hasTag p.ptype then 8 else 0) + p.data.length) 248)

/-- Queue a packet at a port behind the packets of its class; a latency-critical packet goes before best-effort ones
that have sent no flit (R345, R411). -/
def insertTx (it : Nat × Nat × Nat × Packet) : List (Nat × Nat × Nat × Packet) → List (Nat × Nat × Nat × Packet)
  | [] => [it]
  | x :: xs =>
    if it.2.2.2.lc && !x.2.2.2.lc && x.2.2.1 == flitsOf x.2.2.2 then it :: x :: xs else x :: insertTx it xs

/-- Data flits not yet acknowledged that a replay buffer holds at most (R407). -/
def replayRoom : Nat := 512

/-- Take the first packet that may send a flit: it has a credit, and no earlier packet of its vc and class waits. -/
def pickTx (cr : SMap Nat) (seen : List Nat) : List (Nat × Nat × Nat × Packet) →
    Option ((Nat × Nat × Nat × Packet) × List (Nat × Nat × Nat × Packet))
  | [] => none
  | x :: xs =>
    let k := x.1 * 4 + x.2.1
    if !seen.contains k && 0 < sget 0 cr k then
      some (x, if x.2.2.1 ≤ 1 then xs else (x.1, x.2.1, x.2.2.1 - 1, x.2.2.2) :: xs)
    else match pickTx cr (k :: seen) xs with
      | some (y, ys) => some (y, x :: ys)
      | none => none

/-- The header of a flit returns one credit (R405). -/
def returnOne (owed : SMap Nat) : SMap Nat :=
  match owed with
  | (k, n) :: _ => sset 0 owed k (n - 1)
  | [] => []

/-- Send one data flit on a port, if one may be sent (R407, R410). -/
def Mod.sendFlit (m : Mod) (p : Nat) : Option Mod :=
  let q := Mod.port m p
  if !q.isActive || replayRoom ≤ q.replay.length then none
  else match pickTx q.credits [] q.txq with
    | none => none
    | some (x, rest) =>
      let last := if x.2.2.1 ≤ 1 then some x.2.2.2 else none
      some (Mod.visorBrim (Mod.setPort m p { q with
        txq := rest
        owed := returnOne q.owed
        credits := smod 0 q.credits (x.1 * 4 + x.2.1) (· - 1)
        seqTx := (q.seqTx + 1) % 1024
        replay := q.replay ++ [(q.seqTx, 0, last)] }) (p / 4) 0xFF 0x58 1)

/-- Send data flits on a port while one may be sent. -/
def Mod.pumpPort (m : Mod) (p : Nat) : Nat → Mod
  | 0 => m
  | k + 1 => match Mod.sendFlit m p with | some m' => Mod.pumpPort m' p k | none => m

/-- Flits a port may send in one go: its replay buffer. -/
def Mod.pump512 (m : Mod) (p : Nat) : Mod := Mod.pumpPort m p replayRoom

/-- Queue a packet at the port of its route and send what may be sent; `half` chooses the port of the pair for
collective data (R422). `cls` is the class it arrived in, for a packet in transit. -/
def Mod.queuePacket (m : Mod) (pkt : Packet) (half : Option Nat) (cls : Option Nat) (sameDim : Bool) : Mod :=
  let (p, h) := Mod.outPort m pkt half
  let det := h.detour || (match cls with | some c => 2 ≤ c | none => false)
  let odd := h.dateline || (sameDim && (match cls with | some c => c % 2 == 1 | none => false))
  let it := (vcOf pkt.ptype, 2 * b2n det + b2n odd, flitsOf pkt, pkt)
  Mod.pump512 (Mod.modPort m p fun q => { q with txq := insertTx it q.txq }) p

/-- Send a packet: to this module's own arrivals, or on its way (R415). -/
def Mod.sendPacket (m : Mod) (pkt : Packet) (half : Option Nat) : Mod :=
  if Mod.answersTo m pkt.dest then { m with fab := { m.fab with inbox := m.fab.inbox ++ [pkt] } }
  else Mod.queuePacket m pkt half none false

/-- Send a request that expects a response or an acknowledgement (R411, R429): it is tracked under a tag. -/
def Mod.sendRequest (m : Mod) (pkt : Packet) (job ctx va : Nat) : Mod × Nat :=
  let t := m.fab.nextTag
  let r : Req := { tag := t, job := job, dest := pkt.dest, ptype := pkt.ptype, ctx := ctx, va := va }
  let m1 := { m with fab := { m.fab with nextTag := t + 1, reqs := m.fab.reqs ++ [r] } }
  (Mod.sendPacket m1 { pkt with tag := t } none, t)

/-- The lc bit of a context's packets. -/
def Mod.ctxLc (m : Mod) (k : Nat) : Bool := match Mod.ctx m k with | some c => c.lc | none => false

end Sys2Proof.Machine
end

