-- ==== Sys2Proof/Machine/FlagOps.lean ====
section
/-!
DEFINITION. Flags: their classes and values (R322 to R325), and a change at a flag's home, which satisfies the waits
registered there (R326 to R330).
-/
namespace Sys2Proof.Machine

open Sys2Proof

/-- Classes of a flag (R323). -/
inductive FlagClass where
  | cluster
  | device
  | host
  deriving DecidableEq, Repr, Inhabited

/-- The class the translator binds a flag to (R324). -/
def Image.flagClass (img : Image) (v : Nat) : FlagClass :=
  match img.flags.find? fun (d : FlagDecl) => d.number == v with
  | some d =>
    if d.hostSets then .device else if d.hostWaits then .host
    else if d.cls = 1 then .device else if d.cls = 2 then .host else .cluster
  | none => .cluster

/-- The class of a context's flag. -/
def Ctx.flagClass (c : Ctx) (v : Nat) : FlagClass := Image.flagClass c.image v

/-- Key of a cluster flag (R322). -/
def flagKey (ctx v : Nat) : Nat := ctx * 4096 + v

/-- The value of a context's flag as cluster `l` sees it. -/
def Mod.flagValue (m : Mod) (k l v : Nat) : Bool :=
  match Mod.ctx m k with
  | none => false
  | some c =>
    match Ctx.flagClass c v with
    | .cluster => sget false (Mod.cluster m l).flags (flagKey k v)
    | .device => match sget 0 c.devFlags v with
      | 0 => false
      | p + 1 => sget false m.dev.flags p
    | .host => (sget (false, 0) c.hostFlags v).1

/-- A change satisfies a registered wait (R327). -/
def wakeWait (v : Nat) (val : Bool) (x : Core) : Core :=
  match x.wait with
  | .flag f w _ => if f = v ∧ w = val then { x with wait := .flag f w true } else x
  | _ => x

/-- Satisfy the waits of cores whose key passes the test. -/
def Mod.wakeCores (m : Mod) (k v : Nat) (val : Bool) (p : Nat → Bool) : Mod :=
  { m with
    cores := m.cores.map fun (q : Nat × Core) =>
      if p q.1 && q.2.ctx == some k then (q.1, wakeWait v val q.2) else q }

/-- Satisfy the WAIT descriptors registered on a device flag (R327, R330). -/
def Mod.wakeFlights (m : Mod) (k v : Nat) (val : Bool) : Mod :=
  Mod.onHost m fun h => { h with
    flights := h.flights.map fun f =>
      if descKind f.raw == 0x06 && f.started && descCtx f.raw == k && descFld f.raw 8 11 0 == v
      && bitAt (descFld f.raw 8 12 0) 12 == val then { f with endStatus := some .ok } else f }

/-- Write a host flag word after a change, and send its message (R329). -/
def Mod.writeHostFlag (m : Mod) (k v : Nat) (c : Ctx) (val : Bool) : Mod :=
  let n := (sget (false, 0) c.hostFlags v).2 + 1
  let m1 := Mod.modCtx m k fun x => { x with hostFlags := sset (false, 0) x.hostFlags v (val, n % 2 ^ 32) }
  let m2 := Mod.hostWrite m1 (c.blk.flagArea + 8 * v) (leBytes 8 (b2n val + n % 2 ^ 32 * 2 ^ 32)) false
  if c.blk.flagTable = 0 then m2
  else
    let e := leNat (Mod.hostRead m2 (c.blk.flagTable + 2 * v) 2).1
    if bitAt e 15 then Mod.sendVector m2 (fld e 7 0) else m2

/-- Serve a change of a flag at its home (R326 to R330): a set of a set flag and a clear of a clear flag change
nothing. `l` is the issuing cluster. -/
def Mod.changeFlag (m : Mod) (k l v : Nat) (val : Bool) : Mod :=
  match Mod.ctx m k with
  | none => m
  | some c =>
    if Mod.flagValue m k l v = val then m
    else match Ctx.flagClass c v with
      | .cluster =>
        let m1 := Mod.modCluster m l fun x => { x with flags := sset false x.flags (flagKey k v) val }
        Mod.wakeCores m1 k v val fun q => q / 16 == l
      | .device =>
        match sget 0 c.devFlags v with
        | 0 => m
        | p + 1 =>
          let m1 := { m with dev := { m.dev with flags := sset false m.dev.flags p val } }
          Mod.wakeFlights (Mod.wakeCores m1 k v val fun _ => true) k v val
      | .host => Mod.writeHostFlag m k v c val

/-- Key of a mirror copy (R325): the consumer's copy is apart from the producer's. -/
def mirrorKey (pair core k v : Nat) (consumer : Bool) : Nat :=
  (pair * 16 + core) * 65536 + flagKey k v + (if consumer then 2 ^ 44 else 0)

/-- A mirror copy. -/
def Mod.mirror (m : Mod) (l key : Nat) : Bool := sget false (Mod.cluster m l).mirrors key

/-- Change a mirror pair (R325): the issuer's copy first, then the far copy. -/
def Mod.changeMirror (m : Mod) (pair core k v near far : Nat) (issuerConsumer val : Bool) : Mod :=
  let set (x : Mod) (l : Nat) (cons : Bool) :=
    Mod.modCluster x l fun c => { c with mirrors := sset false c.mirrors (mirrorKey pair core k v cons) val }
  set (set m near issuerConsumer) far (!issuerConsumer)

end Sys2Proof.Machine
end

