-- ==== Sys2Proof/Machine/Streams.lean ====
section
/-!
DEFINITION. Streams: the stream table, sizes and precisions (R137 to R144), the stream pool and swapping (R145 to R147,
R527), and the state blob (R156 to R161).
-/
namespace Sys2Proof.Machine

open Sys2Proof

/-! ## Entries -/

/-- A context's stream-table entry. -/
def Ctx.stream (c : Ctx) (n : Nat) : StreamEntry := sget {} c.streams n

/-- Write a stream-table entry. -/
def Mod.setStream (m : Mod) (ctx n : Nat) (e : StreamEntry) : Mod :=
  Mod.modCtx m ctx fun c => { c with streams := sset {} c.streams n e }

/-- Change a stream-table entry. -/
def Mod.modStream (m : Mod) (ctx n : Nat) (f : StreamEntry → StreamEntry) : Mod :=
  Mod.modCtx m ctx fun c => { c with streams := smod {} c.streams n f }

/-- The address of an entry (R137). -/
def Ctx.entryVa (c : Ctx) (n : Nat) : Nat := c.blk.streamTable + 64 * n

/-- The number or the entry names an absent stream (R137). -/
def Ctx.streamAbsent (c : Ctx) (n : Nat) : Bool :=
  let e := Ctx.stream c n
  decide (c.blk.streamEntries ≤ n) || e.kind == 0 || decide (5 ≤ e.kind) || decide (5 ≤ e.residency)

/-- The stream-layer object of a layer, from the resident model's image (R155). -/
def Mod.streamDecl (m : Mod) (layer : Nat) : Option StreamDecl :=
  match m.model with
  | none => none
  | some md => md.image.objects.findSome? fun (o : ObjDecl) => match o.kind with
    | .stream d => if d.layer = layer then some d else none
    | _ => none

/-- Bytes of a state word (R139). -/
def wordBytes (p : Nat) : Nat := if p = 1 then 2 else if p = 3 then 8 else 4

/-- The precision of an entry, a default resolved (R144). -/
def streamPrec (e : StreamEntry) : Nat :=
  if e.precision ≠ 0 then e.precision
  else if e.kind = 1 ∨ e.kind = 4 then (if 1 ≤ e.horizon ∧ e.horizon ≤ 65536 then 2 else 3)
  else 2

/-- Bytes of one input frame of `c` channels in a format (R142, "Sizes of state"). -/
def frameBytes (fmt c : Nat) : Nat :=
  if fmt = 0x0 then 4 * c
  else if fmt = 0x1 ∨ fmt = 0x2 then 2 * c
  else if fmt = 0x3 ∨ fmt = 0x4 ∨ fmt = 0xB then c
  else if fmt = 0x9 then ceilDiv c 2 + ceilDiv c 32
  else c + ceilDiv c 32

/-- A format may be a stream layer's input format (R142). -/
def activationFmt (fmt : Nat) : Bool := fmt ≤ 0xB

/-- W of the layer's look-ahead buffer, 0 without one (R155). -/
def lookW (d : Option StreamDecl) : Nat :=
  match d with | some x => if x.lookForm = 2 then x.window else 0 | none => 0

/-- Elements of a state that the layer interprets. -/
def streamElems (e : StreamEntry) : Nat :=
  if e.kind = 1 then e.channels * e.modes * 2 else if e.kind = 2 then 2 * e.channels else e.channels

/-- The state size of an entry (R142): none for kind raw, which takes any multiple of 64. -/
def stateSize (e : StreamEntry) (d : Option StreamDecl) : Option Nat :=
  if e.kind = 4 then none
  else
    let look := match d with
      | some x => if e.kind = 1 then lookW d * frameBytes x.inputFormat e.channels else 0
      | none => 0
    some (roundUp ((streamElems e) * wordBytes (streamPrec e) + look) 64)

/-- The precision is allowed for the kind and the horizon (R139, R142). -/
def precOk (kind prec horizon : Nat) : Bool :=
  if prec = 1 then 1 ≤ horizon && horizon ≤ 4095
  else if prec = 2 then true
  else prec == 3 && (kind == 1 || kind == 4)

/-- The stream pool's slot size (R527). -/
def Mod.slotBytes (m : Mod) : Nat :=
  match m.model with
  | none => 0
  | some md => roundUp ((md.image.objects.map fun (o : ObjDecl) => match o.kind with
      | .stream _ => o.bytes
      | _ => 0).foldl max 0) 4096

/-- Slots of the stream pool (R363). -/
def Mod.poolSlots (m : Mod) : Nat := match m.model with | some md => md.blk.streamPoolSlots | none => 0

/-- An entry the job start refuses (R142 step 1). -/
def Mod.streamBad (m : Mod) (c : Ctx) (n : Nat) : Bool :=
  let e := Ctx.stream c n
  Ctx.streamAbsent c n
    || (match stateSize e (Mod.streamDecl m e.layer) with
        | some z => e.stateSize != z
        | none => e.stateSize % 64 != 0 || e.stateSize == 0)
    || !precOk e.kind (streamPrec e) e.horizon
    || ((streamPrec e) == 1 && decide (e.horizon ≤ e.stepCount))
    || decide (Mod.slotBytes m < e.stateSize)

/-! ## Pool slots and swapping -/

/-- The tag a pool slot carries while a stream has it. -/
def slotTag (ctx n : Nat) : Nat := 1 + ctx * 65536 + n

/-- The slot a stream has. -/
def Mod.slotOf (m : Mod) (ctx n : Nat) : Option Nat :=
  (m.kv.streamSlots.find? fun p => p.2 == slotTag ctx n).map (·.1)

/-- The address of a pool slot. -/
def Mod.slotVa (m : Mod) (s : Nat) : Nat :=
  (match m.model with | some md => md.blk.streamPoolVa | none => 0) + s * Mod.slotBytes m

/-- The address of a stream's swap slot (R364). -/
def Mod.swapVa (m : Mod) (c : Ctx) (n : Nat) : Nat := c.blk.swapArea + n * Mod.slotBytes m

/-- The lowest free pool slot. -/
def Mod.freeSlot (m : Mod) : Option Nat :=
  (List.range (Mod.poolSlots m)).find? fun s => sget 0 m.kv.streamSlots s == 0

/-- Give a slot to a stream, or free it (`tag` 0). -/
def Mod.setSlot (m : Mod) (s tag : Nat) : Mod :=
  { m with kv := { m.kv with streamSlots := sset 0 m.kv.streamSlots s tag } }

/-- Free the slot of a stream. -/
def Mod.freeStreamSlot (m : Mod) (ctx n : Nat) : Mod :=
  match Mod.slotOf m ctx n with | some s => Mod.setSlot m s 0 | none => m

/-- A context ends with SAVE_FAULT (R147, R235, R398): a fault record that is not resolvable, then the end. -/
def Mod.saveFault (m : Mod) (ctx : Nat) (f : AccFault) : Mod :=
  Mod.endContext (Mod.raiseAcc m f .mover ctx 0 0 0 false none).1 ctx false fun _ => .saveFault

/-- Copy bytes between device virtual addresses; the fault of the first access that has one. -/
def Mod.copyVa (m : Mod) (ctx src dst n : Nat) : Mod × Option AccFault :=
  match Mod.vaRead m (brimTlbOf src) ctx src n with
  | .inl f => (m, some f)
  | .inr (bs, po) =>
    match Mod.vaWrite m (brimTlbOf dst) ctx dst bs po with
    | (m1, none) => (m1, none)
    | (m1, some (f, _)) => (m1, some f)

/-- A stream that may lose its slot (R145): present, not pinned, not one of the starting job's own. -/
def Mod.swappable (m : Mod) (ctx : Nat) (mine : List Nat) (tag : Nat) : Option (Nat × Nat × Bool × Nat) :=
  let c := (tag - 1) / 65536
  let n := (tag - 1) % 65536
  match Mod.ctx m c with
  | none => none
  | some x =>
    if (Ctx.stream x n).residency = 0 && sget 0 x.pins n == 0 && !(c == ctx && mine.contains n)
    then some (c, n, x.lc, sget 0 x.lastEnd n) else none

/-- Victim `a` is chosen before `b`: a best-effort context's stream first, then the earlier job end. -/
def victimBefore (a b : Nat × Nat × Bool × Nat) : Bool :=
  if a.2.2.1 != b.2.2.1 then b.2.2.1 else decide (a.2.2.2 < b.2.2.2)

/-- The stream that gives up its slot (R145). -/
def Mod.slotVictim (m : Mod) (ctx : Nat) (lc : Bool) (mine : List Nat) : Option (Nat × Nat) :=
  let cand := (m.kv.streamSlots.filterMap fun p => Mod.swappable m ctx mine p.2).filter fun v => lc || !v.2.2.1
  (cand.foldl (fun (acc : Option (Nat × Nat × Bool × Nat)) v =>
    match acc with
    | none => some v
    | some b => if victimBefore v b then some v else some b) none).map fun v => (v.1, v.2.1)

/-- Swap a stream out (R145): its state goes to its swap slot and its pool slot is free. -/
def Mod.swapOut (m : Mod) (ctx n : Nat) : Mod :=
  match Mod.ctx m ctx, Mod.slotOf m ctx n with
  | some c, some s =>
    match Mod.copyVa m ctx (Mod.slotVa m s) (Mod.swapVa m c n) (Ctx.stream c n).stateSize with
    | (m1, some f) => Mod.saveFault m1 ctx f
    | (m1, none) =>
      Mod.modStream (Mod.setSlot m1 s 0) ctx n fun e => { e with residency := 1, statePtr := 0 }
  | _, _ => m

/-- Take a pool slot for a stream (R142 step 3, R145): a free one, else a victim's. None where it must wait. -/
def Mod.takeSlot (m : Mod) (ctx n : Nat) (lc : Bool) (mine : List Nat) : Option (Mod × Nat) :=
  match Mod.freeSlot m with
  | some s => some (Mod.setSlot m s (slotTag ctx n), s)
  | none =>
    match Mod.slotVictim m ctx lc mine with
    | none => none
    | some (vc, vn) =>
      let m1 := Mod.swapOut m vc vn
      match Mod.freeSlot m1 with
      | some s => some (Mod.setSlot m1 s (slotTag ctx n), s)
      | none => none

/-- Make one stream present in a pool slot (R142 step 3, R146). None where it must wait. -/
def Mod.bringIn (m : Mod) (ctx n : Nat) (lc : Bool) (mine : List Nat) : Option Mod :=
  match Mod.slotOf m ctx n with
  | some _ => some m
  | none =>
    match Mod.takeSlot m ctx n lc mine with
    | none => none
    | some (m1, s) =>
      match Mod.ctx m1 ctx with
      | none => some m1
      | some c =>
        let e := Ctx.stream c n
        let there (x : Mod) := Mod.modStream x ctx n fun e => { e with residency := 0, statePtr := Mod.slotVa m1 s }
        if e.residency = 1 then
          match Mod.copyVa m1 ctx (Mod.swapVa m1 c n) (Mod.slotVa m1 s) e.stateSize with
          | (m2, some f) => some (Mod.saveFault m2 ctx f)
          | (m2, none) => some (there m2)
        else some (there m1)

/-- Make every stream of a job present. -/
def Mod.bringAll (m : Mod) (ctx : Nat) (lc : Bool) (mine : List Nat) : List Nat → Option Mod
  | [] => some m
  | n :: ns =>
    match Mod.bringIn m ctx n lc mine with
    | none => none
    | some m1 => Mod.bringAll m1 ctx lc mine ns

/-- Enough slots can be had for the job's streams that have none. -/
def Mod.slotsFor (m : Mod) (ctx : Nat) (lc : Bool) (mine : List Nat) : Bool :=
  let need := (mine.filter fun n => (Mod.slotOf m ctx n).isNone).length
  let free := ((List.range (Mod.poolSlots m)).filter fun s => sget 0 m.kv.streamSlots s == 0).length
  let cand := ((m.kv.streamSlots.filterMap fun p => Mod.swappable m ctx mine p.2).filter fun v => lc || !v.2.2.1).length
  need ≤ free + cand

/-- Apply reset and anchor to a stream in its slot (R143); the fault of a copy from the anchor. -/
def Mod.applyReset (m : Mod) (ctx n : Nat) : Mod × Option AccFault :=
  match Mod.ctx m ctx, Mod.slotOf m ctx n with
  | some c, some s =>
    let e := Ctx.stream c n
    if !e.reset then (m, none)
    else
      let va := Mod.slotVa m s
      let r :=
        if e.anchorPtr = 0 then
          match Mod.vaWrite m (brimTlbOf va) ctx va (List.replicate e.stateSize 0) false with
          | (m1, some (f, _)) => (m1, some f)
          | (m1, none) => (m1, none)
        else Mod.copyVa m ctx e.anchorPtr va e.stateSize
      match r with
      | (m1, some f) => (m1, some f)
      | (m1, none) => (Mod.modStream m1 ctx n fun e => { e with reset := false, stepCount := 0 }, none)
  | _, _ => (m, none)

/-- Apply reset and anchor to every stream of a list. -/
def Mod.applyResets (m : Mod) (ctx : Nat) : List Nat → Mod × Option AccFault
  | [] => (m, none)
  | n :: ns =>
    match Mod.applyReset m ctx n with
    | (m1, some f) => (m1, some f)
    | (m1, none) => Mod.applyResets m1 ctx ns

/-! ## Blobs -/

/-- One bit step of CRC-32C (reflected Castagnoli polynomial). -/
def crcBit (c : Nat) : Nat := if c % 2 = 1 then (c / 2) ^^^ 0x82F6_3B78 else c / 2

/-- One byte step of CRC-32C. -/
def crcByte (c : Nat) (b : Byte) : Nat :=
  crcBit (crcBit (crcBit (crcBit (crcBit (crcBit (crcBit (crcBit (c ^^^ b.toNat))))))))

/-- CRC-32C: initial value and final inversion all ones (R156). -/
def crc32c (bs : List Byte) : Nat := bs.foldl crcByte 0xFFFF_FFFF ^^^ 0xFFFF_FFFF

/-- The first 8 bytes of the resident model's image hash, as the little-endian field of R156. -/
def Mod.modelTag (m : Mod) : Nat :=
  match m.model with
  | some md => leNat ((leBytes 48 (md.image.hash.toNat)).take 8)
  | none => 0

/-- The header of a blob (R156). -/
def Mod.blobHeader (m : Mod) (ctx n : Nat) (e : StreamEntry) (seq : Nat) : List Byte :=
  leBytes 4 0x4254_5350 ++ leBytes 2 0x0100 ++ leBytes 2 64 ++ leBytes 1 e.kind ++ leBytes 1 (streamPrec e) ++ leBytes 2 0
    ++ leBytes 2 e.channels ++ leBytes 1 e.modes ++ leBytes 1 (lookW (Mod.streamDecl m e.layer))
    ++ leBytes 4 e.stateSize ++ leBytes 2 e.layer ++ leBytes 1 e.part ++ leBytes 1 e.parts ++ leBytes 4 e.nextChunk
    ++ leBytes 4 e.horizon ++ leBytes 8 e.stepCount ++ leBytes 8 (Mod.modelTag m) ++ leBytes 2 n ++ leBytes 1 ctx
    ++ leBytes 1 0 ++ leBytes 4 seq ++ leBytes 8 0

/-- Free bytes for a state the manual leaves undefined. -/
def freeBytes (from_ n : Nat) : List Byte := (List.range n).map fun i => Config.freeByte (from_ * 1048576 + i)

/-- The state bytes of a stream, from its pool slot or its swap slot; a state that has neither is undefined (R143: it
would start from whatever bytes its first slot holds). -/
def Mod.stateBytes (m : Mod) (ctx n : Nat) (e : StreamEntry) : AccFault ⊕ (List Byte × Bool) :=
  match Mod.slotOf m ctx n, Mod.ctx m ctx with
  | some s, _ => let va := Mod.slotVa m s; Mod.vaRead m (brimTlbOf va) ctx va e.stateSize
  | none, some c =>
    if e.residency = 1 ∨ e.residency = 2 then
      let va := Mod.swapVa m c n
      Mod.vaRead m (brimTlbOf va) ctx va e.stateSize
    else .inr (freeBytes m.free e.stateSize, false)
  | none, none => .inr ([], false)

/-- Header and state words of a stream's blob, and their poison. -/
def Mod.blobBody (m : Mod) (ctx n : Nat) (e : StreamEntry) : AccFault ⊕ (List Byte × Bool) :=
  match Mod.stateBytes m ctx n e with
  | .inl f => .inl f
  | .inr (bs, po) => .inr (Mod.blobHeader m ctx n e ((e.exportSeq + 1) % 2 ^ 32) ++ bs, po)

/-- The trailer of a blob (R156). -/
def blobTrailer (body : List Byte) : List Byte := leBytes 4 (crc32c body) ++ leBytes 60 0

/-- Write at a blob address: a device virtual address or a host bus address (R368). -/
def Mod.blobWrite (m : Mod) (ctx : Nat) (isVa : Bool) (a : Nat) (bs : List Byte) (po : Bool) :
    Mod × Option (AccFault × Nat) :=
  if isVa then Mod.vaWrite m (brimTlbOf a) ctx a bs po else (Mod.hostWrite m a bs po, none)

/-- Read at a blob address. -/
def Mod.blobRead (m : Mod) (ctx : Nat) (isVa : Bool) (a n : Nat) : AccFault ⊕ (List Byte × Bool) :=
  if isVa then Mod.vaRead m (brimTlbOf a) ctx a n else .inr (Mod.hostRead m a n)

/-- A blob header as read back (R156). -/
structure Blob where
  magic : Nat
  major : Nat
  kind : Nat
  prec : Nat
  channels : Nat
  modes : Nat
  look : Nat
  bytes : Nat
  layer : Nat
  part : Nat
  parts : Nat
  nextChunk : Nat
  horizon : Nat
  stepCount : Nat
  tag : Nat
  deriving DecidableEq, Repr, Inhabited

/-- The bytes [off, off + n) of a list, as a little-endian number. -/
def at_ (bs : List Byte) (off n : Nat) : Nat := leNat ((bs.drop off).take n)

/-- Read a blob's header. -/
def readBlob (h : List Byte) : Blob :=
  { magic := at_ h 0 4, major := at_ h 5 1, kind := at_ h 8 1, prec := at_ h 9 1, channels := at_ h 12 2
    modes := at_ h 14 1, look := at_ h 15 1, bytes := at_ h 16 4, layer := at_ h 20 2, part := at_ h 22 1
    parts := at_ h 23 1, nextChunk := at_ h 24 4, horizon := at_ h 28 4, stepCount := at_ h 32 8, tag := at_ h 40 8 }

/-- The blob is one the stream can take (R159, R160). -/
def Mod.blobFits (m : Mod) (e : StreamEntry) (b : Blob) : Bool :=
  b.magic == 0x4254_5350 && b.major == 1 && b.kind == e.kind && b.channels == e.channels && b.modes == e.modes
    && b.look == lookW (Mod.streamDecl m e.layer) && b.layer == e.layer && b.part == e.part && b.parts == e.parts
    && b.tag == Mod.modelTag m && 1 ≤ b.prec && b.prec ≤ 3 && precOk e.kind (streamPrec e) b.horizon

/-- Element `i` of a state in a precision, as hi and lo words (R149, R154). -/
def stateElem (prec : Nat) (bs : List Byte) (i : Nat) : Word × Word :=
  if prec = 1 then (BitVec.ofNat 32 (at_ bs (2 * i) 2 * 65536), 0)
  else if prec = 3 then
    (BitVec.ofNat 32 (at_ bs (i / 8 * 64 + i % 8 * 4) 4), BitVec.ofNat 32 (at_ bs (i / 8 * 64 + 32 + i % 8 * 4) 4))
  else (BitVec.ofNat 32 (at_ bs (4 * i) 4), 0)

/-- An element in another precision (R159): twin to FP32 and to BF16 is rounded once from the exact sum. -/
def convElem (frm tgt : Nat) (x : Word × Word) : Word × Word :=
  if frm = tgt then x
  else if tgt = 3 then (x.1, 0)
  else if tgt = 2 then (if frm = 3 then fadd x.1 x.2 else x.1, 0)
  else
    let v := if frm = 3 then (f32 x.1).add (f32 x.2) else f32 x.1
    (BitVec.ofNat 32 ((toBf16 false none v).bits * 65536), 0)

/-- A state's bytes from its elements. -/
def packState (prec : Nat) (xs : List (Word × Word)) : List Byte :=
  if prec = 1 then xs.flatMap fun x => leBytes 2 (x.1.toNat / 65536)
  else if prec = 2 then xs.flatMap fun x => leBytes 4 x.1.toNat
  else
    (List.range (ceilDiv xs.length 8)).flatMap fun u =>
      let us := (xs.drop (8 * u)).take 8
      (us.flatMap fun x => leBytes 4 x.1.toNat) ++ (us.flatMap fun x => leBytes 4 x.2.toNat)

/-- Exactly `n` bytes of a list, zeros beyond its end. -/
def fitBytes (n : Nat) (bs : List Byte) : List Byte := bs.take n ++ List.replicate (n - bs.length) 0

/-- The state of a blob in the entry's precision (R159); the look-ahead buffer follows the state unchanged. -/
def convState (e : StreamEntry) (b : Blob) (bs : List Byte) : List Byte :=
  if b.prec = (streamPrec e) then fitBytes e.stateSize bs
  else
    let n := if e.kind = 4 then b.bytes / wordBytes b.prec else (streamElems e)
    let xs := (List.range n).map fun i => convElem b.prec (streamPrec e) (stateElem b.prec bs i)
    let look := if e.kind = 4 then [] else bs.drop (n * wordBytes b.prec)
    fitBytes e.stateSize (packState (streamPrec e) xs ++ look)

/-- The pinning job's end is awaited: a started job has the stream pinned (R157). -/
def Ctx.pinned (c : Ctx) (n : Nat) : Bool := sget 0 c.pins n != 0

/-- Unfinished RUN flights of a context that name a stream and have not started, by chunk order. -/
def Mod.waitingOn (m : Mod) (ctx n : Nat) : List Flight :=
  m.host.flights.filter fun f =>
    descKind f.raw == 0x03 && descCtx f.raw == ctx && !f.started && f.streams.any (·.stream == n)

/-- The chunk number a flight carries for a stream. -/
def Flight.chunkOf (f : Flight) (n : Nat) : Nat :=
  match f.streams.find? (·.stream == n) with | some r => r.chunk | none => 0

/-- Insert a flight by chunk number, counted from `base`. -/
def insertChunk (base n : Nat) (f : Flight) : List Flight → List Flight
  | [] => [f]
  | g :: gs =>
    if ahead32 (Flight.chunkOf f n) base < ahead32 (Flight.chunkOf g n) base then f :: g :: gs
    else g :: insertChunk base n f gs

/-- End the jobs that wait on a stream that is moved (R158), in the order of its chunk numbers. -/
def Mod.endMoved (m : Mod) (ctx n base : Nat) : Mod :=
  let fs := (Mod.waitingOn m ctx n).foldl (fun acc f => insertChunk base n f acc) []
  fs.foldl (fun x f => Mod.endFlight x f.id .streamMoved (Flight.progressField f) 0) m

/-- A copy of a stream could not end (R160, R161): an export leaves residency as it was, an import leaves it moved. -/
def Mod.copyFailed (m : Mod) (fl : Flight) : Mod :=
  let ctx := descCtx fl.raw
  let n := descFld fl.raw 8 15 0
  if fl.prevRes = 0 then m
  else if descKind fl.raw = 0x08 then Mod.modStream m ctx n fun e => { e with residency := fl.prevRes - 1 }
  else Mod.modStream (Mod.freeStreamSlot m ctx n) ctx n fun e => { e with residency := 4, statePtr := 0 }

/-- Park a flight on the fault of one of its accesses (R229). -/
def Mod.parkFlight (m : Mod) (fl : Flight) (f : AccFault) (src : FaultSource) (progress : Nat) : Mod :=
  let ctx := descCtx fl.raw
  let r := Mod.raiseAcc m f src ctx 0 (descTag fl.raw) progress true (some (.flight fl.id))
  Mod.modFlight r.1 fl.id fun x => { x with phase := .parked, progress := progress }

/-- The export of a stream that may begin (R157): write header and state words, then the trailer. -/
def Mod.exportRun (m : Mod) (fl : Flight) (e : StreamEntry) (move : Bool) : Mod :=
  let ctx := descCtx fl.raw
  let n := descFld fl.raw 8 15 0
  let isVa := bitAt (descFld fl.raw 8 63 0) 17
  let a := descFld fl.raw 0x10 63 0
  let prev := if e.residency = 2 then fl.prevRes - 1 else e.residency
  let m0 := if move then Mod.endMoved m ctx n e.nextChunk else m
  let m1 := Mod.modFlight (Mod.startFlight m0 fl.id) fl.id fun x => { x with prevRes := prev + 1 }
  let m1 := Mod.modStream m1 ctx n fun x => { x with residency := 2 }
  match Mod.blobBody m1 ctx n { e with residency := prev } with
  | .inl f => Mod.parkFlight m1 fl f .streamCopy 0
  | .inr (body, po) =>
    match Mod.blobWrite m1 ctx isVa a body po with
    | (m2, some (f, k)) => Mod.parkFlight m2 fl f .streamCopy k
    | (m2, none) =>
      match Mod.blobWrite m2 ctx isVa (a + body.length) (blobTrailer body) po with
      | (m3, some (f, k)) => Mod.parkFlight m3 fl f .streamCopy (body.length + k)
      | (m3, none) =>
        let m4 := Mod.modStream m3 ctx n fun x =>
          { x with exportSeq := (x.exportSeq + 1) % 2 ^ 32, residency := if move then 4 else prev,
                   statePtr := if move then 0 else x.statePtr }
        let m5 := if move then Mod.freeStreamSlot m4 ctx n else m4
        Mod.endFlight m5 fl.id (if po then .poisonedData else .ok) (body.length + 64) 0

/-- Whether another export or import holds the stream: its residency is exporting or importing and this flight is not
the one that made it so. -/
def busyCopy (fl : Flight) (e : StreamEntry) : Bool := (e.residency == 2 || e.residency == 3) && fl.prevRes == 0

/-- STREAM_EXPORT on the module; `move` chooses the row of R158. -/
def Mod.streamExport (m : Mod) (id : Nat) (move : Bool) : Mod :=
  match Mod.ready m id 0x08 with
  | none => m
  | some fl =>
    match Mod.ctx m (descCtx fl.raw) with
    | none => m
    | some c =>
      let n := descFld fl.raw 8 15 0
      let e := Ctx.stream c n
      if bitAt (descFld fl.raw 8 63 0) 16 != move then m
      else if Ctx.streamAbsent c n then Mod.endFlight m id .streamAbsent 0 0
      else if descFld fl.raw 0x18 31 0 < e.stateSize + 128 then Mod.endFlight m id .descriptorInvalid 0 0
      else if e.residency = 4 then Mod.endFlight m id .streamMoved 0 0
      else if Ctx.pinned c n || busyCopy fl e then Mod.modFlight m id fun x => { x with phase := .waiting }
      else Mod.exportRun m fl e move

/-- `STREAM_EXPORT` (R157). -/
def execStreamExport (id : Nat) (s : State) : Out := .next (s.onMod fun m => Mod.streamExport m id false)

/-- `STREAM_EXPORT_MOVE` (R158). -/
def execStreamExportMove (id : Nat) (s : State) : Out := .next (s.onMod fun m => Mod.streamExport m id true)

/-- Take the blob's words into a pool slot, check its CRC, and set the entry (R159, R160). -/
def Mod.importRun (m : Mod) (fl : Flight) (e : StreamEntry) (b : Blob) (h body : List Byte) (po : Bool) (s : Nat) :
    Mod :=
  let ctx := descCtx fl.raw
  let n := descFld fl.raw 8 15 0
  let va := Mod.slotVa m s
  let words := body.take b.bytes
  match Mod.vaWrite m (brimTlbOf va) ctx va (convState e b words) po with
  | (m1, some (f, k)) => Mod.parkFlight m1 fl f .streamCopy k
  | (m1, none) =>
    if po || at_ body b.bytes 4 != crc32c (h ++ words) then
      let m2 := Mod.modStream (Mod.freeStreamSlot m1 ctx n) ctx n fun x => { x with residency := 4, statePtr := 0 }
      Mod.endFlight m2 fl.id .poisonedData (64 + b.bytes + 64) 0
    else
      let m2 := Mod.modStream m1 ctx n fun x =>
        { x with precision := (streamPrec e), nextChunk := b.nextChunk, stepCount := b.stepCount, horizon := b.horizon,
                 reset := false, residency := 0, statePtr := va }
      Mod.endFlight m2 fl.id .ok (64 + b.bytes + 64) 0

/-- The import of a stream that may begin (R159). -/
def Mod.importStart (m : Mod) (fl : Flight) (c : Ctx) (e : StreamEntry) : Mod :=
  let ctx := descCtx fl.raw
  let n := descFld fl.raw 8 15 0
  let isVa := bitAt (descFld fl.raw 8 63 0) 17
  let a := descFld fl.raw 0x10 63 0
  match Mod.blobRead m ctx isVa a 64 with
  | .inl f => Mod.parkFlight m fl f .streamCopy 0
  | .inr (h, po) =>
    let b := readBlob h
    if !po && !Mod.blobFits m e b then Mod.endFlight m fl.id .streamAbsent 0 0
    else if descFld fl.raw 0x18 31 0 < b.bytes + 128 then Mod.endFlight m fl.id .descriptorInvalid 0 0
    else
      let slot := match Mod.slotOf m ctx n with
        | some s => some (m, s)
        | none => Mod.takeSlot m ctx n c.lc [n]
      match slot with
      | none => Mod.modFlight m fl.id fun x => { x with phase := .waiting }
      | some (m1, s) =>
        let prev := if e.residency = 3 then fl.prevRes - 1 else e.residency
        let m2 := Mod.modFlight (Mod.startFlight m1 fl.id) fl.id fun x => { x with prevRes := prev + 1 }
        let m2 := Mod.modStream m2 ctx n fun x => { x with residency := 3 }
        match Mod.blobRead m2 ctx isVa (a + 64) (b.bytes + 64) with
        | .inl f => Mod.parkFlight m2 fl f .streamCopy 64
        | .inr (body, po2) => Mod.importRun m2 fl e b h body (po || po2) s

/-- STREAM_IMPORT on the module. -/
def Mod.streamImport (m : Mod) (id : Nat) : Mod :=
  match Mod.ready m id 0x09 with
  | none => m
  | some fl =>
    match Mod.ctx m (descCtx fl.raw) with
    | none => m
    | some c =>
      let n := descFld fl.raw 8 15 0
      let e := Ctx.stream c n
      if Ctx.streamAbsent c n then Mod.endFlight m id .streamAbsent 0 0
      else if descFld fl.raw 0x18 31 0 < e.stateSize + 128 then Mod.endFlight m id .descriptorInvalid 0 0
      else if Ctx.pinned c n || busyCopy fl e then Mod.modFlight m id fun x => { x with phase := .waiting }
      else Mod.importStart m fl c e

/-- `STREAM_IMPORT` (R159). -/
def execStreamImport (id : Nat) (s : State) : Out := .next (s.onMod fun m => Mod.streamImport m id)

end Sys2Proof.Machine
end

