-- ==== Sys2Proof/Machine/Operands.lean ====
section
/-!
DEFINITION. The operand forms of PVIS: words, fields, val16 fields and extents, queue-end codes, token fields, and
the checks of R293 on one instruction's words.
-/
namespace Sys2Proof.Machine

open Sys2Proof

/-- The field [hi:lo] of the primary word. -/
def PvisWords.f (p : PvisWords) (hi lo : Nat) : Nat := fld p.w.toNat hi lo

/-- The field [hi:lo] of extension word 1. -/
def PvisWords.x1 (p : PvisWords) (hi lo : Nat) : Nat := fld p.e1.toNat hi lo

/-- The field [hi:lo] of extension word 2. -/
def PvisWords.x2 (p : PvisWords) (hi lo : Nat) : Nat := fld p.e2.toNat hi lo

/-- The field [hi:lo] of extension word 3. -/
def PvisWords.x3 (p : PvisWords) (hi lo : Nat) : Nat := fld p.e3.toNat hi lo

/-- The opcode (R285). -/
def PvisWords.op (p : PvisWords) : Nat := PvisWords.f p 63 56

/-- The number of extension words the primary word announces (R285). -/
def PvisWords.ext (p : PvisWords) : Nat := PvisWords.f p 55 54

/-- tmode (R285): 0 none, 1 push, 2 wait, 3 wait and push. -/
def PvisWords.tmode (p : PvisWords) : Nat := PvisWords.f p 53 52

/-- The token number (R285). -/
def PvisWords.token (p : PvisWords) : Nat := PvisWords.f p 51 46

/-- tend (R285). -/
def PvisWords.tend (p : PvisWords) : Nat := PvisWords.f p 45 44

/-- Extension words of an opcode (R294); none for an undefined opcode. -/
def extCount (op : Nat) : Option Nat :=
  if op ≤ 0x04 || (0x06 ≤ op && op ≤ 0x0B) || (0x10 ≤ op && op ≤ 0x12) || op = 0x21 || op = 0x22 then some 0
  else if op = 0x20 then some 2
  else if 0x30 ≤ op && op ≤ 0x33 then some 1
  else if (0x40 ≤ op && op ≤ 0x46) || op = 0x48 || op = 0x49 then some 1
  else if op = 0x4A then some 0
  else if op = 0x50 then some 1
  else if op = 0x51 then some 3
  else if op = 0x53 || op = 0x54 then some 1
  else if op = 0x60 || op = 0x61 then some 2
  else if op = 0x70 || op = 0x71 then some 2
  else if op = 0x72 then some 1
  else if 0x73 ≤ op && op ≤ 0x76 then some 0
  else if op = 0x77 then some 1
  else if op = 0x78 then some 2
  else if 0x80 ≤ op && op ≤ 0x82 then some 2
  else if op = 0x83 then some 0
  else if op = 0x84 then some 1
  else if op = 0x90 || op = 0x91 then some 1
  else if op = 0x92 then some 2
  else if (0xA0 ≤ op && op ≤ 0xA8) || op = 0xB0 || op = 0xC0 || op = 0xC1 then some 0
  else none

/-- The bits [hi:lo] as a mask. -/
def bm (hi lo : Nat) : Nat := 2 ^ (hi + 1) - 2 ^ lo

/-- The bits of [43:0] an opcode's own fields use (R295 to R320); every other bit is reserved. -/
def usedPrimary (op : Nat) : Nat :=
  if op = 0x00 || op = 0x0A || op = 0x0B then 0
  else if op = 0x01 then bm 36 0
  else if op = 0x02 then bm 43 40 + bm 36 32 + bm 28 24 + bm 20 16
  else if op = 0x03 then bm 43 40 + bm 36 32 + bm 28 24 + bm 19 0
  else if op = 0x04 || op = 0x08 then bm 36 32 + bm 3 0
  else if op = 0x06 then bm 42 40 + bm 28 24 + bm 20 16 + bm 15 0
  else if op = 0x07 then bm 36 32 + bm 15 0
  else if op = 0x09 then bm 36 32 + bm 8 0
  else if op = 0x10 then bm 3 0
  else if op = 0x11 then bm 35 16 + bm 3 0
  else if op = 0x12 then bm 12 0
  else if op = 0x20 then bm 43 22
  else if op = 0x21 then bm 39 19
  else if op = 0x22 then bm 39 36 + bm 27 20
  else if op = 0x30 then bm 43 24
  else if 0x31 ≤ op && op ≤ 0x33 then bm 39 24
  else if 0x40 ≤ op && op ≤ 0x46 then bm 43 1
  else if op = 0x48 then bm 43 24
  else if op = 0x49 then bm 43 42 + bm 37 25 + bm 23 22
  else if op = 0x4A then bm 3 0
  else if op = 0x50 then bm 43 8
  else if op = 0x51 then bm 43 2
  else if op = 0x53 || op = 0x54 then 0
  else if op = 0x60 || op = 0x61 then bm 43 7
  else if op = 0x70 then bm 43 16
  else if op = 0x71 then bm 43 28 + bm 23 8
  else if op = 0x72 then bm 43 20
  else if op = 0x73 then bm 36 32 + bm 28 24 + bm 20 16
  else if op = 0x74 || op = 0x75 then bm 36 32
  else if op = 0x76 then bm 36 32 + bm 28 24
  else if op = 0x77 then bm 36 32 + bm 28 24 + bm 20 16
  else if op = 0x78 then bm 43 43 + bm 36 32 + bm 28 24 + bm 20 16 + bm 12 8
  else if op = 0x80 then bm 36 24
  else if op = 0x81 then bm 36 24 + bm 17 11
  else if op = 0x82 then bm 36 24 + bm 11 11
  else if op = 0x83 || op = 0x84 then bm 36 24
  else if op = 0x90 then bm 43 15
  else if op = 0x91 then bm 43 36 + bm 26 15
  else if op = 0x92 then bm 43 36
  else if op = 0xA0 || op = 0xA1 then bm 23 16 + bm 11 0
  else if op = 0xA2 || op = 0xA3 then bm 11 0
  else if op = 0xA4 || op = 0xA5 then bm 3 0
  else if op = 0xA6 then bm 36 32 + bm 23 17 + bm 15 0
  else if op = 0xA7 then bm 36 32 + bm 23 17
  else if op = 0xA8 then bm 28 17
  else if op = 0xB0 then bm 15 8 + bm 1 0
  else if op = 0xC0 then bm 7 0
  else bm 36 32 + bm 31 16

/-- The bits of extension word `k` an opcode's fields use. -/
def usedExt (op k : Nat) : Nat :=
  if op = 0x20 then (if k = 1 then bm 63 0 else bm 63 16)
  else if op = 0x30 then bm 63 20
  else if op = 0x31 then bm 63 54 + bm 52 42
  else if op = 0x32 then bm 63 49 + bm 47 37
  else if op = 0x33 then bm 63 54 + bm 52 40
  else if 0x40 ≤ op && op ≤ 0x46 then bm 63 37
  else if op = 0x48 || op = 0x49 then bm 63 16
  else if op = 0x50 then bm 63 58 + bm 16 0
  else if op = 0x51 then bm 63 0
  else if op = 0x53 then bm 63 16
  else if op = 0x54 then bm 63 48 + bm 47 41
  else if op = 0x60 || op = 0x61 then (if k = 1 then bm 63 38 + bm 31 16 else bm 63 32)
  else if op = 0x70 then (if k = 1 then bm 63 43 + bm 31 0 else bm 63 38)
  else if op = 0x71 then (if k = 1 then bm 63 43 + bm 31 16 else bm 63 22)
  else if op = 0x72 then bm 63 38 + bm 31 16
  else if op = 0x77 then bm 63 33 + bm 31 0
  else if op = 0x78 then (if k = 1 then bm 63 43 else bm 63 6)
  else if 0x80 ≤ op && op ≤ 0x82 then (if k = 1 then bm 63 43 + bm 31 16 else bm 63 27)
  else if op = 0x84 then bm 63 38
  else if op = 0x90 then bm 63 43 + bm 31 0
  else if op = 0x91 then bm 63 43 + bm 31 16
  else if op = 0x92 then (if k = 1 then bm 63 43 + bm 31 16 else bm 63 43)
  else 0

/-- No bit of `x` stands outside the mask `m`, up to `w` bits. -/
def onlyBits (m w x : Nat) : Bool := (x % 2 ^ w) &&& m == x % 2 ^ w

/-- Instructions that name no queue end a token could act on (R289). -/
def noToken (op : Nat) : Bool :=
  op ≤ 0x0B || (0x70 ≤ op && op ≤ 0x76) || op = 0x83 || op = 0x84 || 0xA0 ≤ op

/-- A val16 field that names a register has bits [14:5] zero (R286). -/
def val16Ok (v : Nat) : Bool := v < 0x8000 || fld v 14 5 == 0

/-- An immediate extent lies in 1 to `hi` (a register is checked when the instruction issues, R292). -/
def extentOk (hi v : Nat) : Bool := val16Ok v && (0x8000 ≤ v || v + 1 ≤ hi)

/-- An immediate value lies in `lo` to `hi`. -/
def valueOk (lo hi v : Nat) : Bool := val16Ok v && (0x8000 ≤ v || (lo ≤ v && v ≤ hi))

/-- Vector data inputs (R91) and the codes for no queue end (R287). -/
def vecIn (e : Nat) : Bool :=
  e = 3 || e = 4 || e = 5 || e = 6 || e = 7 || e = 10 || e = 12 || e = 13

/-- Vector outputs (R91). -/
def vecOut (e : Nat) : Bool := e = 6 || e = 8 || e = 11

/-- Formats of a vector command (R88). -/
def vecFmt (f : Nat) : Bool := f ≤ 2 || f = 0xD

/-- Scratchpad formats of the load/store unit (R89). -/
def spadFmt (f : Nat) : Bool := f ≤ 4 || f = 0xB || f = 0xD

/-- The carry rows a coefficient slot names stay within the file (R98, R293). -/
def coefOk (slot : Nat) : Bool :=
  let src := fld slot 10 8
  let r := fld slot 7 3
  let c := fld slot 2 0 + 1
  src ≤ 4 && (if src = 2 || src = 3 then r + c ≤ 32 else true)

/-- Stationary and moving formats that may pair (R72). -/
def pairOk (s m : Nat) : Bool :=
  let fp (f : Nat) : Bool := f = 3 || f = 4 || (5 ≤ f && f ≤ 9)
  (fp s && fp m) || ((s = 0xB || s = 0xC) && m = 0xB) || (s = 0xA && m = 0xA)
    || ((s = 1 || s = 2) && (m = 1 || m = 2))

/-- The engine that pushes a queue end (R25, R297), as an engine mask bit; none where this core has no pusher. -/
def pusherOf (e : Nat) : Option Nat :=
  if e = 0 || e = 1 || e = 2 || e = 11 then some 0
  else if e = 3 then some 1
  else if e = 4 || e = 5 then some 3
  else if e = 6 || e = 8 then some 2
  else if e = 7 then some 5
  else if e = 9 then some 4
  else none

/-- The engine that pops a queue end (R25, R297), as an engine mask bit. -/
def popperOf (e : Nat) : Option Nat :=
  if e = 0 || e = 1 || e = 9 || e = 10 then some 0
  else if e = 2 then some 1
  else if e = 3 || e = 4 || e = 5 || e = 7 then some 2
  else if e = 6 then some 3
  else if e = 8 then some 5
  else none

/-- Queue-end codes of a list that are real ends. -/
def realEnds (l : List Nat) : List Nat := l.filter (· < 12)

/-- The code this model uses for "the consumer's end of the named channel" as a token end. -/
def chanEnd : Nat := 16

/-- The input ends of an instruction, in the order tend counts them (R289, R298). -/
def inEnds (p : PvisWords) : List Nat :=
  let op := PvisWords.op p
  if op = 0x11 then [PvisWords.f p 3 0]
  else if op = 0x20 then [if PvisWords.f p 41 41 = 1 then 9 else 0, 1]
  else if op = 0x21 then [10]
  else if 0x30 ≤ op && op ≤ 0x33 then [2]
  else if 0x40 ≤ op && op ≤ 0x46 then realEnds [PvisWords.f p 39 36, PvisWords.f p 35 32, PvisWords.f p 31 28]
  else if op = 0x49 then (if PvisWords.f p 43 42 = 0 then [6] else [])
  else if op = 0x4A then [PvisWords.f p 3 0]
  else if op = 0x51 then [9, 1]
  else if op = 0x61 then (if PvisWords.f p 43 42 = 1 then [PvisWords.f p 39 36] else [])
  else if op = 0x77 || op = 0x78 then [4, 5]
  else if 0x80 ≤ op && op ≤ 0x82 then [0, 1]
  else []

/-- The output ends of an instruction, in the order tend counts them (R289, R290). -/
def outEnds (p : PvisWords) : List Nat :=
  let op := PvisWords.op p
  if op = 0x10 then [PvisWords.f p 3 0]
  else if op = 0x20 then (if PvisWords.f p 22 22 = 1 then [PvisWords.f p 34 31] else [])
  else if op = 0x21 then realEnds [PvisWords.f p 27 24]
  else if op = 0x22 then [PvisWords.f p 27 24]
  else if 0x30 ≤ op && op ≤ 0x33 then [3]
  else if 0x40 ≤ op && op ≤ 0x46 then realEnds [PvisWords.f p 24 21, PvisWords.f p 20 17]
  else if op = 0x48 then (if PvisWords.f p 43 42 = 0 then [PvisWords.f p 41 38] else [])
  else if op = 0x51 then [3]
  else if op = 0x60 then [PvisWords.f p 39 36]
  else if op = 0x61 then (if PvisWords.f p 41 40 = 2 then [chanEnd] else [])
  else if op = 0x77 || op = 0x78 then [8]
  else if 0x80 ≤ op && op ≤ 0x82 then [3]
  else if op = 0x90 then [chanEnd]
  else []

/-- The token fields are allowed (R289). -/
def tokenOk (p : PvisWords) : Bool :=
  let op := PvisWords.op p
  let tm := PvisWords.tmode p
  if noToken op then tm == 0 && PvisWords.token p == 0 && PvisWords.tend p == 0
  else if op = 0x10 then tm == 1 && PvisWords.tend p == 0
  else if tm = 0 then PvisWords.token p == 0
  else if tm = 1 then PvisWords.tend p < (outEnds p).length
  else PvisWords.tend p < (inEnds p).length && (tm = 2 || 0 < (outEnds p).length)

/-- The opcode's own field ranges (R293), with the immediates that a register-supplied value would be checked for by
R292. Pairs of formats and the extents of a convolution have diagnostics of their own (R72, R113, R123). -/
def fieldsOk (p : PvisWords) : Bool :=
  let op := PvisWords.op p
  let f := PvisWords.f p
  let x1 := PvisWords.x1 p
  let x2 := PvisWords.x2 p
  if op = 0x02 || op = 0x03 then f 43 40 ≤ 14
  else if op = 0x06 then f 42 40 ≤ 6
  else if op = 0x08 then f 3 0 < 12
  else if op = 0x09 then f 7 7 == 0
  else if op = 0x10 then (pusherOf (f 3 0)).isSome
  else if op = 0x11 then (popperOf (f 3 0)).isSome
  else if op = 0x12 then f 3 0 < 12 && f 7 4 ≤ 1
  else if op = 0x20 then
    (f 34 31 = 2 || f 34 31 = 11 || (f 34 31 = 14 && f 22 22 = 0)) && (f 40 40 = 0 || f 43 42 = 3)
      && valueOk 0 1023 (x1 63 48) && (f 41 41 = 1 || valueOk 0 1023 (x1 47 32)) && val16Ok (x1 31 16)
      && val16Ok (x1 15 0) && extentOk 8 (x2 63 48)
      && extentOk (if f 43 42 = 1 || f 43 42 = 3 then 8 else 64) (x2 47 32) && val16Ok (x2 31 16)
  else if op = 0x21 then (f 27 24 = 2 || f 27 24 = 11 || f 27 24 = 14) && f 23 20 ≤ 7
  else if op = 0x22 then (f 27 24 = 2 || f 27 24 = 11) && f 23 20 ≤ 7
  else if 0x30 ≤ op && op ≤ 0x33 then
    (f 39 36 ≤ 4 || f 39 36 = 0xB) && (f 35 35 = 0 || f 39 36 = 1 || f 39 36 = 3 || f 39 36 = 4)
      && (if op = 0x30 then f 43 40 ≤ 9 && coefOk (x1 63 53) && coefOk (x1 52 42) && coefOk (x1 41 31)
            && coefOk (x1 30 20)
          else if op = 0x31 then x1 63 59 ≤ 24 && x1 58 54 ≤ 24 && coefOk (x1 52 42)
          else if op = 0x32 then x1 63 59 ≤ 24 && x1 58 54 ≤ 24 && x1 53 49 ≤ 24 && coefOk (x1 47 37)
          else x1 63 59 ≤ 24 && x1 58 54 ≤ 24 && coefOk (x1 52 42))
  else if 0x40 ≤ op && op ≤ 0x46 then
    vecFmt (f 43 40) && vecIn (f 39 36)
      && (vecIn (f 35 32) || (op = 0x44 && f 14 14 = 0 && f 35 32 = 14))
      && (if op = 0x42 then vecIn (f 31 28) else f 31 28 = 14 || vecIn (f 31 28))
      && (let es := realEnds [f 39 36, f 35 32, f 31 28]; es.Nodup)
      && (vecOut (f 24 21) || (op = 0x43 && f 1 1 = 0 && f 24 21 = 14)) && (vecOut (f 20 17) || f 20 17 = 14)
      && (op ≠ 0x43 || f 6 4 ≤ 5)
      && (x1 63 63 = 0 || (x1 62 62 = 0 && x1 61 37 = 0)) && (x1 62 62 = 0 || x1 56 37 = 0)
      && (x1 63 62 ≠ 0 || x1 61 57 = 0)
  else if op = 0x48 then
    f 43 42 ≤ 2 && (f 43 42 ≠ 0 || f 41 38 = 4 || f 41 38 = 5) && spadFmt (f 32 29) && vecFmt (f 28 25)
      && valueOk 0 1023 (x1 63 48) && extentOk 1024 (x1 47 32) && val16Ok (x1 31 16)
      && (f 43 42 ≠ 2 || 0x8000 ≤ x1 47 32 || f 37 33 + x1 47 32 < 32)
  else if op = 0x49 then
    (f 43 42 = 0 || f 43 42 = 2) && spadFmt (f 32 29) && vecFmt (f 28 25)
      && valueOk 0 1023 (x1 63 48) && extentOk 1024 (x1 47 32) && val16Ok (x1 31 16)
      && (f 43 42 ≠ 2 || 0x8000 ≤ x1 47 32 || f 37 33 + x1 47 32 < 32)
  else if op = 0x4A then vecIn (f 3 0) && f 3 0 < 12
  else if op = 0x50 then
    2 ≤ f 31 25 && f 31 25 ≤ 64 && f 24 16 ≤ 255
      && (if x1 63 63 = 1 then x1 16 0 = 0 else x1 62 58 = 0 && decide (-255 ≤ signed 17 (x1 16 0)))
  else if op = 0x51 then
    1 ≤ f 41 36 && 1 ≤ f 35 30 && val16Ok (x2 63 48) && val16Ok (x2 47 32) && val16Ok (x2 31 16) && val16Ok (x2 15 0)
  else if op = 0x53 then valueOk 0 1023 (x1 47 32) && val16Ok (x1 31 16)
  else if op = 0x60 then
    f 43 42 ≤ 1 && f 41 40 ≤ 2 && f 35 33 ≤ 4 && (f 35 33 ≠ 3 || f 32 31 ≠ 0) && f 20 19 ≤ 2
      && (f 41 40 = 1 || f 22 21 = 0)
      && (if f 41 40 = 2 then f 39 36 = 4 || f 39 36 = 5 || f 39 36 = 7
          else f 39 36 = 0 || f 39 36 = 1 || f 39 36 = 4 || f 39 36 = 5 || f 39 36 = 7)
      && val16Ok (x1 31 16) && val16Ok (x2 63 48) && val16Ok (x2 47 32)
  else if op = 0x61 then
    f 43 42 ≤ 1 && f 41 40 ≤ 2 && f 35 33 ≤ 4 && (f 35 33 ≠ 3 || f 32 31 ≠ 0) && f 20 19 ≤ 2
      && (f 43 42 = 0 || f 39 36 = 8 || f 39 36 = 3)
      && val16Ok (x1 31 16) && val16Ok (x2 63 48) && val16Ok (x2 47 32)
  else if op = 0x70 then 1 ≤ f 23 16 && val16Ok (x1 31 16)
  else if op = 0x71 then f 31 28 ≤ 8 && 1 ≤ f 15 8 && val16Ok (x1 31 16)
  else if op = 0x72 then val16Ok (x1 31 16)
  else if op = 0x77 then val16Ok (x1 31 16)
  else if op = 0x78 then f 36 32 ≤ 30 && val16Ok (x2 26 11)
  else if 0x80 ≤ op && op ≤ 0x82 then
    1 ≤ f 31 24 && f 31 24 ≤ 8 && val16Ok (x1 31 16) && valueOk 0 1023 (x2 63 48) && val16Ok (x2 47 32)
      && (op ≠ 0x81 || (1 ≤ f 17 16 && 6 ≤ f 15 12 && f 15 12 ≤ 12))
  else if op = 0x83 || op = 0x84 then 1 ≤ f 31 24
  else if op = 0x90 then
    (f 33 30 = 0 || f 33 30 = 1 || f 33 30 = 3) && f 29 27 ≤ 4 && f 35 34 ≤ 2 && valueOk 0 4096 (x1 31 16)
  else if op = 0x91 || op = 0x92 then valueOk 0 4096 (x1 31 16)
  else if op = 0xA0 || op = 0xA1 then f 23 23 = 0
  else if 0xA6 ≤ op && op ≤ 0xA8 then
    (f 23 23 = 1 || f 22 19 = 0) && (op = 0xA8 || f 36 32 ≤ 30) && (op ≠ 0xA6 || valueOk 1 0x7FFF (f 15 0))
  else if op = 0xB0 then f 15 15 = 0
  else true

/-- The words of one instruction are ones that an accepted image may hold (R293): defined opcode, its count of
extension words (absent ones zero), no reserved bit, allowed token fields and field ranges. -/
def pvisOk (p : PvisWords) : Bool :=
  match extCount (PvisWords.op p) with
  | none => false
  | some n =>
    PvisWords.ext p == n
      && onlyBits (usedPrimary (PvisWords.op p)) 44 p.w.toNat
      && (if 1 ≤ n then onlyBits (usedExt (PvisWords.op p) 1) 64 p.e1.toNat else p.e1 == 0)
      && (if 2 ≤ n then onlyBits (usedExt (PvisWords.op p) 2) 64 p.e2.toNat else p.e2 == 0)
      && (if 3 ≤ n then onlyBits (usedExt (PvisWords.op p) 3) 64 p.e3.toNat else p.e3 == 0)
      && tokenOk p && fieldsOk p

/-- The words are an accepted instruction of opcode `op`. -/
def pvisIs (op : Nat) (p : PvisWords) : Bool := PvisWords.op p == op && pvisOk p

/-- Instructions take 1 to 4 words (R285). -/
def pvisLen (p : PvisWords) : Nat := 1 + PvisWords.ext p

end Sys2Proof.Machine
end

