-- ==== Sys2Proof/Machine/Words.lean ====
section
/-!
DEFINITION. The words of a role: its instructions in order, branch targets, the registers an instruction writes, and
the loops whose trip count the translator bounds (R285, R293, R295, R296).
-/
namespace Sys2Proof.Machine

open Sys2Proof

/-- The instruction whose primary word stands at `i`. -/
def pvisAt (ws : List DWord) (i : Nat) : PvisWords :=
  let p : PvisWords := { w := nth 0 ws i }
  let n := PvisWords.ext p
  { w := nth 0 ws i
    e1 := if 1 ≤ n then nth 0 ws (i + 1) else 0
    e2 := if 2 ≤ n then nth 0 ws (i + 2) else 0
    e3 := if 3 ≤ n then nth 0 ws (i + 3) else 0 }

/-- The instructions of a role with their word offsets, up to the first word whose opcode is undefined or whose ext
differs from the opcode's count (R293); the offset of that word. -/
def scanWords (ws : List DWord) : Nat → Nat → List (Nat × PvisWords) × Option Nat
  | 0, _ => ([], none)
  | fuel + 1, i =>
    if ws.length ≤ i then ([], none)
    else
      let p := pvisAt ws i
      if extCount (PvisWords.op p) = some (PvisWords.ext p) && i + PvisWords.ext p < ws.length then
        let r := scanWords ws fuel (i + pvisLen p)
        ((i, p) :: r.1, r.2)
      else ([], some i)

/-- The instructions of a role. -/
def roleInstrs (ws : List DWord) : List (Nat × PvisWords) := (scanWords ws ws.length 0).1

/-- The target of a branch or loop at word `i` (R295); none for another instruction or a target below 0. -/
def branchTarget (i : Nat) (p : PvisWords) : Option Nat :=
  if PvisWords.op p = 0x06 then
    let t : Int := i + signed 16 (PvisWords.f p 15 0)
    if t < 0 then none else some t.toNat
  else if PvisWords.op p = 0x07 then
    if PvisWords.f p 15 0 ≤ i then some (i - PvisWords.f p 15 0) else none
  else none

/-- The instruction branches. -/
def isBranch (p : PvisWords) : Bool := PvisWords.op p == 0x06 || PvisWords.op p == 0x07

/-- The scalar registers an instruction writes (R295, R312, R313, R318). -/
def regsWritten (p : PvisWords) : List Nat :=
  let op := PvisWords.op p
  let rd := PvisWords.f p 36 32
  if (0x01 ≤ op ∧ op ≤ 0x04) ∨ (0x07 ≤ op ∧ op ≤ 0x09) then [rd]
  else if op = 0x77 then [rd]
  else if op = 0x78 ∨ op = 0xA6 ∨ op = 0xA7 then [rd, rd + 1]
  else []

/-- The translator bounds the trip count of the LOOP at word `i` (R296): its counter is loaded by an LI before the
body, which no branch from outside enters, and nothing in the body but the LOOP writes it. -/
def loopBounded (is : List (Nat × PvisWords)) (i : Nat) (p : PvisWords) : Bool :=
  match branchTarget i p with
  | none => false
  | some t =>
    let r := PvisWords.f p 36 32
    let body := is.filter fun x => t ≤ x.1 && x.1 < i
    let before := is.filter fun x => x.1 < t && (regsWritten x.2).contains r
    match before.getLast? with
    | none => false
    | some li =>
      PvisWords.op li.2 == 0x01 && body.all (fun x => !(regsWritten x.2).contains r)
        && is.all fun x => match branchTarget x.1 x.2 with
          | some u => !(li.1 < u && u ≤ i && (x.1 < li.1 || i < x.1))
          | none => true

/-- The word at `i` is a back-edge whose trip count the translator cannot bound (R272, R296). -/
def unboundedEdge (ws : List DWord) (i : Nat) : Bool :=
  let p := pvisAt ws i
  match branchTarget i p with
  | none => false
  | some t => decide (t ≤ i) && !(PvisWords.op p == 0x07 && loopBounded (roleInstrs ws) i p)

end Sys2Proof.Machine
end

