-- ==== Sys2Proof/Machine/Jobs.lean ====
section
/-!
DEFINITION. Jobs: taking a RUN (R365), starting it (R141 to R147, R366, R382 to R397), ending it (R141, R342, R525),
preemption, saves and restores (R386 to R398), and ABORT (R377 to R379).
-/
namespace Sys2Proof.Machine

open Sys2Proof

/-! ## RUN -/

/-- The stream-list entries of a RUN, from their bytes (R365). -/
def streamRefs (bs : List Byte) : Nat → List StreamRef
  | 0 => []
  | k + 1 =>
    let w := at_ bs 0 8
    { stream := fld w 15 0, final := bitAt w 16, chunk := fld w 63 32 } :: streamRefs (bs.drop 8) k

/-- RUN on the module (R365): read the stream list; a poisoned list ends the job (R526), one stream named twice makes
the descriptor invalid; else the job waits to start. -/
def Mod.run (m : Mod) (id : Nat) : Mod :=
  match Mod.ready m id 0x03 with
  | none => m
  | some fl =>
    if fl.started || fl.phase == .waiting then m
    else
      let n := descFld fl.raw 0x0E 15 0
      let va := descFld fl.raw 0x08 47 0
      let r := if n = 0 then .inr ([], false) else Mod.vaRead m (brimTlbOf va) (descCtx fl.raw) va (8 * n)
      match r with
      | .inl f => Mod.parkFlight m fl f .bookkeeping 0
      | .inr (bs, po) =>
        let refs := streamRefs bs n
        if po then Mod.endFlight m id .poisonedData 0 0
        else if !(refs.map (·.stream)).Nodup then Mod.endFlight m id .descriptorInvalid 0 0
        else Mod.modFlight m id fun x => { x with phase := .waiting, streams := refs }

/-- `RUN` (R365). -/
def execRun (id : Nat) (s : State) : Out := .next (s.onMod fun m => Mod.run m id)

/-! ## Starting a job -/

/-- What the checks of a job start say. -/
inductive StartCheck where
  | wait
  | fault (f : AccFault)
  | poison (va : Nat)
  | end_ (s : Status)
  | go
  deriving DecidableEq, Repr, Inhabited

/-- The first stream-table entry of a list whose read faults or is poisoned (R526). -/
def Mod.entriesBad (m : Mod) (ctx : Nat) (c : Ctx) : List StreamRef → Option StartCheck
  | [] => none
  | r :: rs =>
    if c.blk.streamEntries ≤ r.stream then Mod.entriesBad m ctx c rs
    else match Mod.recordAt m ctx (Ctx.entryVa c r.stream) 64 false with
      | .inl f => some (.fault f)
      | .inr true => some (.poison (Ctx.entryVa c r.stream))
      | .inr false => Mod.entriesBad m ctx c rs

/-- The chunk order of R141 for one stream: `none` when it has come, else whether the chunk is behind. -/
def chunkState (c : Ctx) (r : StreamRef) : Option Bool :=
  let e := Ctx.stream c r.stream
  if e.nextChunk = r.chunk then none else some (behind32 r.chunk e.nextChunk)

/-- The checks of R141 and R142 on a job's streams. -/
def Mod.startCheck (m : Mod) (ctx : Nat) (c : Ctx) (refs : List StreamRef) : StartCheck :=
  match Mod.entriesBad m ctx c refs with
  | some b => b
  | none =>
    if refs.any fun r => Ctx.streamAbsent c r.stream then .end_ .streamAbsent
    else if refs.any fun r => (Ctx.stream c r.stream).residency == 4 then .end_ .streamMoved
    else if refs.any fun r => chunkState c r == some true then .end_ .streamAbsent
    else if refs.any fun r => chunkState c r == some false then .wait
    else if refs.any fun r => Mod.streamBad m c r.stream then .end_ .streamAbsent
    else if Mod.poolSlots m < refs.length then .end_ .streamAbsent
    else if refs.any fun r =>
      (Ctx.stream c r.stream).residency == 2 || (Ctx.stream c r.stream).residency == 3 || Ctx.pinned c r.stream
    then .wait
    else if !Mod.slotsFor m ctx c.lc (refs.map (·.stream)) then .wait
    else .go

/-- A RUN that has been taken and waits to start. -/
def Flight.waitsToStart (f : Flight) : Bool := descKind f.raw == 0x03 && f.phase == .waiting && !f.started

/-- A RUN that runs. -/
def Flight.runsJob (f : Flight) : Bool := descKind f.raw == 0x03 && f.started && f.phase != .ending

/-- A waiting RUN whose chunk order and checks let it start (R141, R142). -/
def Mod.startable (m : Mod) (f : Flight) : Bool :=
  f.waitsToStart && match Mod.ctx m (descCtx f.raw) with
    | some c => Mod.startCheck m (descCtx f.raw) c f.streams == .go
    | none => false

/-- The exclusive context whose RUN runs or is ready to start (R366, R396). -/
def Mod.exclusiveActive (m : Mod) : Option Nat :=
  (List.range 16).find? fun k => Mod.isExclusive m k &&
    m.host.flights.any fun f => descCtx f.raw == k && (f.runsJob || Mod.startable m f)

/-- The class of the context a flight belongs to. -/
def Mod.flightLc (m : Mod) (f : Flight) : Bool :=
  match Mod.ctx m (descCtx f.raw) with | some c => c.lc | none => false

/-- The clusters of a context's placement. -/
def Mod.placed (m : Mod) (k : Nat) : List Nat :=
  match Mod.ctx m k with | some c => Image.clusterList c.image | none => []

/-- Another waiting job that needs one of these clusters comes first by R345: the latency-critical class, then the
older one. -/
def Mod.outranked (m : Mod) (fl : Flight) (cls : List Nat) : Bool :=
  m.host.flights.any fun f =>
    f.id != fl.id && f.waitsToStart && !f.held
      && (if Mod.flightLc m f != Mod.flightLc m fl then Mod.flightLc m f else decide (f.id < fl.id))
      && (Mod.placed m (descCtx f.raw)).any cls.contains && Mod.startable m f

/-- The cluster can take the job now: no job, no load, no retirement, and no saved job of the same context. -/
def Mod.clusterFree (m : Mod) (k l : Nat) : Bool :=
  let c := Mod.cluster m l
  c.job.isNone && !c.retiring && c.bank0.state != 1 && c.bank1.state != 1
    && (match Mod.ctx m k with | some x => sget default x.saves l == default | none => true)

/-- A cluster whose job the starting job may preempt (R382): its context is best-effort and another one. -/
def Mod.mayPreempt (m : Mod) (k l : Nat) : Bool :=
  match (Mod.cluster m l).ctx with
  | some v => v != k && (match Mod.ctx m v with | some c => !c.lc && !c.exclusive | none => false)
  | none => false

/-- Request the preemption of a cluster's job (R386, R387): hard at once where hard_enable says so. -/
def Mod.requestPreempt (m : Mod) (forJob : Option Nat) (l : Nat) : Mod :=
  let c := Mod.cluster m l
  if c.job.isNone || c.preempt.isSome then m
  else
    let hard := match c.ctx with | some v => bitAt (m.sys.preempt.toNat) (16 + v) | none => false
    Mod.modCluster m l fun x => { x with preempt := some ⟨forJob, hard, m.sys.requests⟩ }

/-- Request the preemption of a list of clusters as one request. -/
def Mod.requestAll (m : Mod) (forJob : Option Nat) (ls : List Nat) : Mod :=
  ls.foldl (fun x l => Mod.requestPreempt x forJob l) { m with sys := { m.sys with requests := m.sys.requests + 1 } }

/-- Hold a job (R366, R396): a latency-critical one raises lc_held once. -/
def Mod.hold (m : Mod) (fl : Flight) (ex : Nat) : Mod :=
  let m1 := Mod.modFlight m fl.id fun x => { x with held := true }
  match Mod.ctx m ex with
  | some e =>
    if Mod.flightLc m fl && !e.lcHeldPosted then
      Mod.event (Mod.modCtx m1 ex fun x => { x with lcHeldPosted := true }) .lcHeld ex ex 0
    else m1
  | none => m1

/-- A bank holds the words of a role for a context. -/
def Bank.holds (b : Bank) (words : List DWord) : Bool := decide (2 ≤ b.state) && b.words == words

/-- Another context's saved code stands in this bank of the cluster (R392 step 6). -/
def Mod.savedIn (m : Mod) (k l b : Nat) : Bool :=
  m.ctxs.any fun p => match p.2 with
    | some c => p.1 != k && (let s : SavedCluster := sget default c.saves l
                             s != default && s.bank == b)
    | none => false

/-- The bank the cores of a cluster will fetch from: one that holds the role, else one that is loaded with it, not one
that holds a saved context's code. -/
def Mod.readyBank (m : Mod) (k l role : Nat) (words : List DWord) : Mod × Nat :=
  let c := Mod.cluster m l
  if Bank.holds c.bank0 words then (m, 0)
  else if Bank.holds c.bank1 words then (m, 1)
  else
    let b := if c.bank0.state = 3 || (Mod.savedIn m k l 0 && c.bank1.state != 3) then 1 else 0
    (Mod.modCluster m l fun x => Cluster.setBank x b
      { state := 2, role := role, ctx := some k, words := words, waitLoad := (Cluster.bank x b).waitLoad }, b)

/-- Apply a context's selectors in a cluster at a job start there (R472): a counter whose selector changed is zeroed. -/
def Mod.applySelectors (m : Mod) (k l : Nat) : Mod :=
  let key := l * 16 + k
  let new := sget 0 m.vis.clsel k
  let old := sget 0 m.vis.clInForce key
  let vals := (List.range 4).foldl (fun v i =>
    if fld new.toNat (16 * i + 15) (16 * i) = fld old.toNat (16 * i + 15) (16 * i) then v
    else sset ({} : VCount) v (key * 4 + i) {}) m.vis.clVals
  { m with vis := { m.vis with clInForce := sset 0 m.vis.clInForce key new, clVals := vals } }

/-- Start one core's role. -/
def Core.begin (x : Core) (k job role b : Nat) : Core :=
  { x with ctx := some k, job := job, role := role, running := true, bank := b, pc := 0 }

/-- Start the role of a context in a cluster (R392 step 7). -/
def Mod.startCluster (m : Mod) (k job : Nat) (img : Image) (l : Nat) : Mod :=
  let role := (Image.roleAt img l).getD 0
  let r := Mod.readyBank m k l role (Image.roleWords img role)
  let m1 := Mod.applySelectors r.1 k l
  let m2 := Mod.modCluster m1 l fun c =>
    Cluster.setBank { c with job := some job, ctx := some k, resident := [k] } r.2
      { Cluster.bank c r.2 with fetch := (Cluster.bank c r.2).fetch + 16, state := 3 }
  (coresOf l).foldl (fun x c => Mod.modCore x c fun y => Core.begin y k job role r.2) m2

/-- Start a job in its clusters, its streams ready (R142 step 5, R392 step 7). -/
def Mod.startRoles (m : Mod) (fl : Flight) (c : Ctx) : Mod :=
  let k := descCtx fl.raw
  let ls := Image.clusterList c.image
  let m1 := Mod.modCtx m k fun x => { x with
    pins := fl.streams.foldl (fun p r => sset 0 p r.stream (fl.id + 1)) x.pins
    streams := fl.streams.foldl (fun t r => smod {} t r.stream fun e => { e with precision := streamPrec e }) x.streams }
  let m2 := ls.foldl (fun x l => Mod.startCluster x k fl.id c.image l) m1
  Mod.modFlight (Mod.startFlight m2 fl.id) fl.id fun x => { x with held := false, total := ls.length, ended := 0 }

/-- Bring the streams of a job in, apply resets, and start its roles (R142 steps 3 to 5). -/
def Mod.startNow (m : Mod) (fl : Flight) (c : Ctx) : Mod :=
  let k := descCtx fl.raw
  let ns := fl.streams.map (·.stream)
  match Mod.bringAll m k c.lc ns ns with
  | none => m
  | some m1 =>
    match Mod.flight m1 fl.id, Mod.ctx m1 k with
    | some _, some _ =>
      match Mod.applyResets m1 k ns with
      | (m2, some f) => Mod.parkFlight m2 fl f .streamCopy 0
      | (m2, none) => Mod.startRoles m2 fl c
    | _, _ => m1

/-- The clusters an exclusive job must empty: every cluster where a job of another context runs (R396). -/
def Mod.othersRunning (m : Mod) (k : Nat) : List Nat :=
  (m.clusters.filter fun p => p.2.job.isSome && p.2.ctx != some k).map (·.1)

/-- A job whose checks pass: start it, or request the preemptions it may and wait (R392, R396). -/
def Mod.tryStart (m : Mod) (fl : Flight) (c : Ctx) : Mod :=
  let k := descCtx fl.raw
  let ls := Image.clusterList c.image
  let block := if c.exclusive then ls.filter (fun l => !Mod.clusterFree m k l) ++ Mod.othersRunning m k
    else ls.filter fun l => !Mod.clusterFree m k l
  if Mod.outranked m fl ls then m
  else if block.isEmpty then Mod.startNow m fl c
  else if c.lc || c.exclusive then Mod.requestAll m (some fl.id) (block.filter (Mod.mayPreempt m k))
  else m

/-- The length-table rows of a RUN (R172, R365), and whether one is poisoned; none where the table cannot be read. -/
def Mod.jobRows (m : Mod) (fl : Flight) : List LenRow × Bool :=
  let va := descFld fl.raw 0x10 47 0
  let n := descFld fl.raw 0x18 31 0
  if va = 0 ∨ n = 0 then ([], false)
  else match Mod.vaRead m (brimTlbOf va) (descCtx fl.raw) va (32 * n) with
    | .inl _ => ([], false)
    | .inr (bs, po) => ((lenRowsOf va bs n).map (·.2), po)

/-- The branches a RUN names in its length table. -/
def Mod.jobBranches (m : Mod) (fl : Flight) : List Nat :=
  (Mod.jobRows m fl).1.foldl (fun acc r => if acc.contains r.branch then acc else acc ++ [r.branch]) []

/-- Kills and prunes of a context that wait (R198). -/
def Mod.waitingKills (m : Mod) (c : Ctx) : List KillWait := c.kills.filter fun w => (Mod.flight m w.job).isSome

/-- A kill or prune that waits removes a branch that the RUN names (R198). -/
def Mod.killBlocks (m : Mod) (c : Ctx) (fl : Flight) : Bool :=
  let bs := Mod.jobBranches m fl
  (Mod.waitingKills m c).any fun w => w.removes.any bs.contains

/-- RUN_JOB_START on the module. -/
def Mod.runJobStart (m : Mod) (id : Nat) : Mod :=
  match Mod.flight m id with
  | none => m
  | some fl =>
    if !fl.waitsToStart then m
    else match Mod.ctx m (descCtx fl.raw) with
      | none => m
      | some c =>
        match Mod.startCheck m (descCtx fl.raw) c fl.streams with
        | .wait => m
        | .fault f => Mod.parkFlight m fl f .bookkeeping 0
        | .poison va => Mod.controlPoison m (descCtx fl.raw) id 0 va
        | .end_ st => Mod.endFlight m id st (Flight.progressField fl) 0
        | .go =>
          if !(Mod.waitingKills m c).isEmpty && (Mod.jobRows m fl).2 then Mod.endFlight m id .poisonedData 0 0
          else if Mod.killBlocks m c fl then m
          else match Mod.exclusiveActive m with
          | some ex => if ex = descCtx fl.raw then Mod.tryStart m fl c else Mod.hold m fl ex
          | none => Mod.tryStart m fl c

/-- `RUN_JOB_START` (R142). -/
def execRunJobStart (id : Nat) (s : State) : Out := .next (s.onCrown fun m => Mod.runJobStart m id)

/-! ## Ending a job -/

/-- The first stream-table entry a job's end cannot write (R525). -/
def Mod.endWriteFault (m : Mod) (ctx : Nat) (c : Ctx) : List StreamRef → Option AccFault
  | [] => none
  | r :: rs =>
    match Mod.recordAt m ctx (Ctx.entryVa c r.stream) 64 true with
    | .inl f => some f
    | .inr _ => Mod.endWriteFault m ctx c rs

/-- The first branch record a job's end cannot write (R192, R525). -/
def Mod.endBranchFault (m : Mod) (ctx : Nat) (c : Ctx) : List Nat → Option AccFault
  | [] => none
  | b :: bs =>
    match Mod.recordAt m ctx (c.blk.branchTable + 64 * b) 64 true with
    | .inl f => some f
    | .inr _ => Mod.endBranchFault m ctx c bs

/-- The branches whose records a job's end writes: those its length table names, where the context has a table (R192). -/
def Mod.endBranches (m : Mod) (c : Ctx) (fl : Flight) : List Nat :=
  if c.blk.branchTable = 0 then [] else Mod.jobBranches m fl

/-- The length of a branch's record at a job end: the largest among its lists (R192). -/
def Ctx.summarise (c : Ctx) (b : Nat) : Ctx :=
  let r : BranchRec := sget {} c.branches b
  if r.state = 0 then c
  else
    let top := ((c.listsOf r.listBlock).map fun k => (c.list k).length).foldl max 0
    { c with branches := sset {} c.branches b { r with length := top } }

/-- Advance the streams of an ended job (R141) and unpin them. -/
def Ctx.advance (c : Ctx) (fl : Flight) (ends : Nat) : Ctx :=
  { c with
    streams := fl.streams.foldl (fun t r => smod {} t r.stream fun e =>
      { e with nextChunk := (e.nextChunk + 1) % 2 ^ 32
               stepCount := (e.stepCount + sget 0 fl.steps r.stream) % 2 ^ 64 }) c.streams
    pins := fl.streams.foldl (fun p r => sset 0 p r.stream 0) c.pins
    lastEnd := fl.streams.foldl (fun p r => sset 0 p r.stream ends) c.lastEnd }

/-- The saved records of a job are discarded (R398). -/
def Ctx.dropSaves (c : Ctx) (job : Nat) : Ctx := { c with saves := c.saves.filter fun p => p.2.job != job }

/-- Release held latency-critical jobs at the end of an exclusive job (R366, R396). -/
def Mod.releaseJobs (m : Mod) (k : Nat) : Mod :=
  if Mod.isExclusive m k then
    let m1 := Mod.releaseHeld m k
    Mod.onHost m1 fun h => { h with flights := h.flights.map fun f => { f with held := false } }
  else m

/-- Make the writes of a job's end and post its record; a write that faults parks them (R525). -/
def Mod.finishWrites (m : Mod) (fl : Flight) (st : Status) : Mod :=
  let k := descCtx fl.raw
  match Mod.ctx m k with
  | none => Mod.endFlight m fl.id st (Flight.progressField fl) 0
  | some c =>
    let bs := Mod.endBranches m c fl
    let bad := match Mod.endWriteFault m k c fl.streams with
      | some f => some f
      | none => Mod.endBranchFault m k c bs
    match (if fl.started then bad else none) with
    | some f =>
      let r := Mod.raiseAcc m f .bookkeeping k 0 (descTag fl.raw) 0 true (some (.bookkeeping fl.id))
      Mod.modFlight r.1 fl.id fun x => { x with phase := .ending, endStatus := some st }
    | none =>
      let ends := m.kv.jobEnds + 1
      let m1 := { m with kv := { m.kv with jobEnds := ends } }
      let m2 := if fl.started then Mod.modCtx m1 k fun x => bs.foldl Ctx.summarise (Ctx.advance x fl ends) else m1
      Mod.endFlight (Mod.releaseJobs m2 k) fl.id st (Flight.progressField fl) 0

/-- End a job (R141, R342, R378): its clusters are released and its saved records discarded; then its writes. -/
def Mod.finishJob (m : Mod) (id : Nat) (st : Status) : Mod :=
  match Mod.flight m id with
  | none => m
  | some fl =>
    let m1 := Mod.stopJob m id
    let m2 := Mod.dropSavedPasses m1 (descCtx fl.raw) (·.job == id)
    let m3 := Mod.modCtx m2 (descCtx fl.raw) fun c => Ctx.dropSaves c id
    Mod.finishWrites m3 fl st

/-- A job whose every role has executed END (R342, R378). -/
def Flight.allEnded (f : Flight) : Bool := f.started && f.total == f.ended

/-! ## Preemption, save and restore -/

/-- `SOFT_PREEMPT_TIMEOUT` (R387): the request turns hard. -/
def execSoftPreemptTimeout (cl : ClusterId) (s : State) : Out :=
  .next (s.onCrown fun m => Mod.modCluster m cl fun c => { c with preempt := c.preempt.map fun p => { p with hard := true } })

/-- The control unit waits at an instruction boundary that R272 makes a point. -/
def CoreWait.isPoint : CoreWait → Bool
  | .level .. | .flag .. | .halo .. | .arrive .. | .release .. | .parked .. | .page .. | .bank .. | .kill .. => true
  | _ => false

/-- A core stands at a preemption point (R272): an image's point, role entry or end, a wait, or a back-edge. -/
def Mod.atPoint (m : Mod) (c : Nat) : Bool :=
  let x := Mod.core m c
  !x.running || x.pc == 0 || x.wait.isPoint || unboundedEdge (Cluster.bank (Mod.cluster m (c / 16)) x.bank).words x.pc
    || (match Mod.ctx m (x.ctx.getD 0xFF) with
        | some k => k.image.points.any fun (p : PreemptPoint) => p.role == x.role && p.offset == x.pc
        | none => false)

/-- The engines of a core have completed their commands, or are parked (R386, R388). -/
def Core.quiet (x : Core) : Bool := x.engines.all fun p => p.2.isEmpty || sget 0 x.parked p.1 != 0

/-- The core has stopped for the cluster's preemption request (R386, R387). -/
def Mod.stopped (m : Mod) (hard : Bool) (c : Nat) : Bool :=
  if hard then true else Mod.atPoint m c && (Mod.core m c).quiet

/-- The core may issue its next instruction: no preemption request holds it here. -/
def Mod.mayIssue (m : Mod) (c : Nat) : Bool :=
  match (Mod.cluster m (c / 16)).preempt with
  | some p => !(p.hard || Mod.atPoint m c)
  | none => true

/-- Bytes of a cluster's slot in a save area (R390). -/
def Mod.saveSlotBytes (m : Mod) : Nat := 512 + 16 * (10272 + 32 * (1024 - Mod.weightLines m))

/-- The context save size of QUERY item 0 (R390). -/
def Mod.saveBytes (m : Mod) : Nat := Config.clusters m.sys.grade * Mod.saveSlotBytes m

/-- Poison of the physical memory behind a device virtual range, or the fault of its translation. -/
def Mod.rangeState (m : Mod) (ctx : Nat) (write : Bool) : List (Nat × Nat) → AccFault ⊕ Bool
  | [] => .inr false
  | (va, n) :: ps =>
    match Mod.translate m (brimTlbOf va) ctx va write with
    | .inl f => .inl f
    | .inr p =>
      match Mod.rangeState m ctx write ps with
      | .inl f => .inl f
      | .inr po => .inr (po || (if p.host then anyIn m.mem.hostPoison p.addr n else Mod.rangePoison m p.addr n))

/-- A good write of a range of GDDR without the bytes it writes, which are the module's own (R390): poison entries of
whole granules go (R219). -/
def Mod.cleanRange (m : Mod) (ctx : Nat) : List (Nat × Nat) → Mod
  | [] => m
  | (va, n) :: ps =>
    match Mod.translate m (brimTlbOf va) ctx va true with
    | .inl _ => Mod.cleanRange m ctx ps
    | .inr p =>
      let (k, cnt) := wholeGranules p.addr n
      let gs := m.mem.granules.filter fun x => p.host || decide (x.1 < k ∨ k + cnt ≤ x.1)
      Mod.cleanRange { m with mem := { m.mem with granules := gs } } ctx ps

/-- The pieces of a cluster's slot in a context's save area. -/
def Mod.savePieces (m : Mod) (c : Ctx) (l : Nat) : List (Nat × Nat) :=
  pieces (c.blk.saveArea + l * Mod.saveSlotBytes m) (Mod.saveSlotBytes m)

/-- Clusters of a context that a preemption request still has to save. -/
def Mod.requestLeft (m : Mod) (k req : Nat) : Bool :=
  m.clusters.any fun p => p.2.ctx == some k && (match p.2.preempt with | some q => q.request == req | none => false)

/-- Clusters of a context saved under a request. -/
def Ctx.savedUnder (c : Ctx) (req : Nat) : Nat := (c.saves.filter fun p => p.2.request == req).length

/-- Write a cluster's records and free it (R389); the last cluster of a request posts context_preempted (R392). -/
def Mod.saveCluster (m : Mod) (k l : Nat) (p : Preempt) : Mod :=
  let c := Mod.cluster m l
  let cores := (coresOf l).map (Mod.core m)
  let x0 := nth default cores 0
  let sv : SavedCluster :=
    { job := c.job.getD 0, role := x0.role, bank := x0.bank, cores := cores, order := m.sys.requests + 1,
      request := p.request, forJob := p.forJob }
  let m1 := { m with sys := { m.sys with requests := m.sys.requests + 1 } }
  let m2 := Mod.modCtx m1 k fun x => { x with saves := sset default x.saves l sv }
  -- the readers a waiting pass holds stay with the saved records
  let m3 := (coresOf l).foldl (fun x y => Mod.modCore x y fun z => { z with pass := none }) m2
  let m4 := Mod.stopCluster m3 false l
  if Mod.requestLeft m4 k p.request then m4
  else match Mod.ctx m4 k with
    | some x => Mod.event m4 .contextPreempted k k (Ctx.savedUnder x p.request)
    | none => m4

/-- CLUSTER_SAVE on the module: once the cores have stopped (R386 to R389, R398). -/
def Mod.clusterSave (m : Mod) (l : Nat) : Mod :=
  let c := Mod.cluster m l
  match c.preempt, c.ctx with
  | some p, some k =>
    if !(coresOf l).all (Mod.stopped m p.hard) then m
    else match Mod.ctx m k with
      | none => m
      | some x =>
        match Mod.rangeState m k true (Mod.savePieces m x l) with
        | .inl f => Mod.saveFault m k f
        | .inr _ => Mod.saveCluster (Mod.cleanRange m k (Mod.savePieces m x l)) k l p
  | _, _ => m

/-- `CLUSTER_SAVE` (R389). -/
def execClusterSave (cl : ClusterId) (s : State) : Out := .next (s.onCrown fun m => Mod.clusterSave m cl)

/-- Saved records of a cluster: context and record, the earliest saved first (R392). -/
def Mod.nextRestore (m : Mod) (l : Nat) : Option (Nat × SavedCluster) :=
  let all := m.ctxs.filterMap fun p => match p.2 with
    | some c => (let s : SavedCluster := sget default c.saves l
                 if s == default then none else some (p.1, s))
    | none => none
  all.foldl (fun (acc : Option (Nat × SavedCluster)) x =>
    match acc with
    | none => some x
    | some b => if x.2.order < b.2.order then some x else some b) none

/-- A core as restored: the saved core with the weight region as it stands now (R389). -/
def Core.restored (now saved : Core) (weightLines : Nat) : Core :=
  { saved with
    spad := (now.spad.filter fun p => decide (p.1 < weightLines * 32))
      ++ saved.spad.filter fun p => decide (weightLines * 32 ≤ p.1)
    spadPoison := (now.spadPoison.filter fun p => decide (p.1 < weightLines * 4))
      ++ saved.spadPoison.filter fun p => decide (weightLines * 4 ≤ p.1)
    arrayReset := saved.arrayReset || now.arrayReset }

/-- Register a restored core's flag wait again: it is satisfied where the flag has the value now (R327, R331). -/
def Mod.rewait (m : Mod) (c : Nat) (x : Core) : Core :=
  match x.wait with
  | .flag f v _ => { x with wait := .flag f v (Mod.flagValue m (x.ctx.getD 0xFF) (c / 16) f == v) }
  | _ => x

/-- Restore the cores of a cluster, in order. -/
def Mod.restoreCores (m : Mod) (wl b : Nat) : List Nat → List Core → Mod
  | c :: cs, x :: xs =>
    let y := Mod.rewait m c { Core.restored (Mod.core m c) x wl with bank := b }
    Mod.restoreCores (Mod.modCore m c fun _ => y) wl b cs xs
  | _, _ => m

/-- A job that waits for this cluster comes before a restore: it is latency-critical or exclusive (R394, R396). -/
def Mod.awaited (m : Mod) (k l : Nat) : Bool :=
  m.host.flights.any fun f => f.waitsToStart && !f.held && descCtx f.raw != k
    && (Mod.flightLc m f || Mod.isExclusive m (descCtx f.raw)) && (Mod.placed m (descCtx f.raw)).contains l
    && Mod.startable m f

/-- Put a saved context back into a cluster (R389, R392). -/
def Mod.restoreCluster (m : Mod) (k l : Nat) (sv : SavedCluster) (poison : Bool) : Mod :=
  match Mod.ctx m k with
  | none => m
  | some x =>
    let r := Mod.readyBank m k l sv.role (Image.roleWords x.image sv.role)
    let run := (sv.cores.filter (·.running)).length
    let m1 := Mod.modCluster r.1 l fun c =>
      let b := Cluster.bank c r.2
      let c := { c with job := some sv.job, ctx := some k, resident := [k] }
      if run = 0 then c else Cluster.setBank c r.2 { b with fetch := b.fetch + run, state := 3 }
    let m2 := Mod.restoreCores m1 (Mod.weightLines m) r.2 (coresOf l) sv.cores
    let m3 := Mod.modCtx m2 k fun c => { c with saves := sset default c.saves l default }
    let m4 := if poison then Mod.markPoison m3 sv.job else m3
    match Mod.ctx m4 k with
    | some y => if y.saves.isEmpty then Mod.event m4 .contextResumed k k 0 else m4
    | none => m4

/-- CLUSTER_RESTORE on the module (R392, R394, R396, R398). -/
def Mod.clusterRestore (m : Mod) (l : Nat) : Mod :=
  match Mod.nextRestore m l with
  | none => m
  | some (k, sv) =>
    let c := Mod.cluster m l
    let mine := match sv.forJob with | some j => (Mod.flight m j).isSome | none => false
    let excl := match Mod.exclusiveActive m with | some e => e != k | none => false
    if c.job.isSome || c.retiring || mine || excl || Mod.awaited m k l then m
    else match Mod.ctx m k with
      | none => m
      | some x =>
        match Mod.rangeState m k false (Mod.savePieces m x l) with
        | .inl f => Mod.saveFault m k f
        | .inr po => Mod.restoreCluster m k l sv po

/-! ## Abort -/

/-- How an abort leaves its target. -/
inductive AbortOutcome where
  | aborted
  | late
  deriving DecidableEq, Repr, Inhabited

/-- Operations that wait for a flight are dropped (R233). -/
def Mod.dropFlightOps (m : Mod) (id : Nat) : Mod :=
  Mod.dropOps m fun o => match o with | .flight i => i == id | _ => false

/-- A started descriptor an abort may end (R360, R378): an unfinished RUN, COPY, WAIT, stream copy or flush, or a role
load that has written no bank. -/
def Flight.abortable (f : Flight) : Bool :=
  let k := descKind f.raw
  if k = 0x03 then !f.allEnded
  else if k = 0x02 then descFld f.raw 8 1 0 == 0 && f.progress == 0
  else k == 0x04 || k == 0x06 || k == 0x08 || k == 0x09 || k == 0x0B

/-- Drop the waiting bank loads of a descriptor. -/
def Mod.dropLoads (m : Mod) (id : Nat) : Mod :=
  let fix (b : Bank) : Bank := match b.waitLoad with
    | some w => if w.1 = id then { b with waitLoad := none } else b
    | none => b
  { m with clusters := m.clusters.map fun (p : Nat × Cluster) =>
      (p.1, { p.2 with bank0 := fix p.2.bank0, bank1 := fix p.2.bank1 }) }

/-- Resolve an abort of one target (R378, R379). -/
def Mod.abortOne (m : Mod) (t : Flight) : Mod × AbortOutcome :=
  if t.phase == .ending then (m, .late)
  else if !t.started then (Mod.endFlight (Mod.dropFlightOps m t.id) t.id .aborted 0 0, .aborted)
  else if !t.abortable then (m, .late)
  else
    let m1 := Mod.dropFlightOps m t.id
    let k := descKind t.raw
    if k = 0x03 then (Mod.finishJob m1 t.id .aborted, .aborted)
    else if k = 0x08 ∨ k = 0x09 then
      (Mod.endFlight (Mod.copyFailed m1 t) t.id .aborted (Flight.progressField t) 0, .aborted)
    else (Mod.endFlight (Mod.dropLoads m1 t.id) t.id .aborted (Flight.progressField t) 0, .aborted)

/-- Resolve an abort of several targets: whether any was aborted, and the targets whose records are still to come. -/
def Mod.abortAll (m : Mod) : List Nat → Mod × Bool × List Nat
  | [] => (m, false, [])
  | t :: ts =>
    match Mod.flight m t with
    | none => Mod.abortAll m ts
    | some f =>
      let r := Mod.abortOne m f
      let still := (Mod.flight r.1 t).isSome
      let q := Mod.abortAll r.1 ts
      (q.1, (r.2 == .aborted) || q.2.1, (if still then [t] else []) ++ q.2.2)

/-- The targets of an ABORT (R377). -/
def Mod.abortTargets (m : Mod) (fl : Flight) (wide : Bool) : List Nat :=
  let open_ := m.host.flights.filter fun f => descKind f.raw != 0x0D
  if wide then (open_.filter fun f => descCtx f.raw == descCtx fl.raw).map (·.id)
  else ((open_.filter fun f => f.ring == descFld fl.raw 0x0C 5 0 && descTag f.raw == descFld fl.raw 8 31 0).map (·.id)).take 1

/-- ABORT on the module. -/
def Mod.abort (m : Mod) (id : Nat) (wide : Bool) : Mod :=
  match Mod.ready m id 0x0D with
  | none => m
  | some fl =>
    if bitAt (descFld fl.raw 0x0C 31 0) 8 != wide then m
    else
      let ts := Mod.abortTargets m fl wide
      if ts.isEmpty then Mod.endFlight m id .abortNoTarget 0 0
      else
        let m1 := Mod.startFlight m id
        let r := Mod.abortAll m1 ts
        let st : Status := if r.2.1 then .ok else .abortLate
        if r.2.2.isEmpty then Mod.endFlight r.1 id st 0 0
        else Mod.modFlight r.1 id fun x => { x with phase := .ending, endStatus := some st, waitsFor := r.2.2 }

/-- `ABORT` (R378). -/
def execAbort (id : Nat) (s : State) : Out := .next (s.onMod fun m => Mod.abort m id false)

/-- `ABORT_CONTEXT_WIDE` (R378). -/
def execAbortContextWide (id : Nat) (s : State) : Out := .next (s.onMod fun m => Mod.abort m id true)

end Sys2Proof.Machine
end

