-- ==== Sys2Proof/Machine/Engine.lean ====
section
/-!
DEFINITION. What every engine of a core shares: issue and its checks (R19, R286, R292), queues, markers and poison (R25
to R34), tokens (R30 to R32, R289, R290), claims (R28), completion and the condition word (R291), and the run of an
engine's commands in order.
-/
namespace Sys2Proof.Machine

open Sys2Proof

/-! ## Registers and operands -/

/-- Scalar register `i` (R18). -/
def Core.reg (x : Core) (i : Nat) : Word := sget 0 x.regs i

/-- Write a scalar register. -/
def Core.setReg (x : Core) (i : Nat) (v : Word) : Core := { x with regs := sset 0 x.regs (i % 32) v }

/-- The number in a scalar register of a command. -/
def ECmd.reg (x : ECmd) (i : Nat) : Nat := (sget 0 x.regs i).toNat

/-- A val16 field (R286). -/
def val16 (regs : SMap Word) (v : Nat) : Nat := if 0x8000 ≤ v then (sget 0 regs (v % 32)).toNat else v

/-- A val16 field marked extent (R286). -/
def extent16 (regs : SMap Word) (v : Nat) : Nat := if 0x8000 ≤ v then (sget 0 regs (v % 32)).toNat else v + 1

/-- A run-time operand: its value, whether it is a count or extent, and the top of its range. -/
structure Operand where
  value : Nat
  count : Bool
  hi : Nat
  deriving DecidableEq, Repr, Inhabited

/-- A count or extent with no upper range of its own. -/
def noTop : Nat := 2 ^ 32

/-- The operands of an instruction that R292 checks when it issues. -/
def operandsOf (p : PvisWords) (r : SMap Word) : List Operand :=
  let op := PvisWords.op p
  let f := PvisWords.f p
  let x1 := PvisWords.x1 p
  let x2 := PvisWords.x2 p
  let line (v : Nat) : Operand := ⟨val16 r v, false, 1023⟩
  let ext (v hi : Nat) : Operand := ⟨extent16 r v, true, hi⟩
  if op = 0x20 then
    [line (x1 63 48)] ++ (if f 41 41 = 1 then [] else [line (x1 47 32)])
      ++ (if isMx (f 30 27) then [line (x1 31 16)] else []) ++ (if isMx (f 26 23) then [line (x1 15 0)] else [])
      ++ [ext (x2 63 48) 8, ext (x2 47 32) (if f 43 42 = 1 || f 43 42 = 3 then 8 else 64), ext (x2 31 16) 65536]
  else if 0x40 ≤ op && op ≤ 0x46 then
    if x1 63 63 = 0 && x1 62 62 = 1 then [⟨(sget 0 r (x1 61 57)).toNat, true, 2 ^ 20⟩] else []
  else if op = 0x48 || op = 0x49 then
    [line (x1 63 48), ext (x1 47 32) (if f 43 42 = 2 then min 1024 (32 - f 37 33) else 1024)]
  else if op = 0x50 then
    if x1 63 63 = 1 then
      let v := signed 32 (sget 0 r (x1 62 58)).toNat
      [⟨if -255 ≤ v ∧ v ≤ 65535 then 0 else 1, false, 0⟩]
    else []
  else if op = 0x51 then [ext (x2 31 16) noTop, ext (x2 15 0) noTop]
  else if op = 0x53 then [line (x1 47 32), ext (x1 31 16) noTop]
  else if op = 0x60 then
    (if f 41 40 = 0 then [line (x1 31 16)] else []) ++ [ext (x2 63 48) noTop, ext (x2 47 32) noTop]
  else if op = 0x61 then
    (if f 43 42 = 0 || f 41 40 = 1 then [line (x1 31 16)] else []) ++ [ext (x2 63 48) noTop, ext (x2 47 32) noTop]
  else if op = 0x70 || op = 0x71 then [ext (x1 31 16) 65536]
  else if op = 0x72 then [ext (x1 31 16) noTop]
  else if op = 0x77 then [ext (x1 31 16) 65536]
  else if op = 0x78 then [ext (x2 26 11) 65536]
  else if 0x80 ≤ op && op ≤ 0x82 then [ext (x1 31 16) noTop, line (x2 63 48)]
  else if op = 0x90 then [⟨val16 r (x1 31 16), false, 4096⟩]
  else if op = 0x91 || op = 0x92 then [⟨val16 r (x1 31 16), true, 4096⟩]
  else if op = 0xA6 then [⟨val16 r (f 15 0), true, 65535⟩]
  else []

/-- What the check of R292 gives; a value above its range comes before a zero. -/
inductive OpCheck where
  | ok | zero | ovf
  deriving DecidableEq, Repr, Inhabited

/-- The check of R292. -/
def checkOperands (os : List Operand) : OpCheck :=
  if os.any fun o => o.hi < o.value then .ovf
  else if os.any fun o => o.count && o.value == 0 then .zero
  else .ok

/-! ## Issue -/

/-- The island's supply holds every handshake (R458). -/
def Mod.held (m : Mod) (c : Nat) : Bool :=
  (sget ({} : Island) m.pwr.islands (islandOf m.sys.grade (c / 16))).uvHold

/-- The control unit of a core issues its next instruction now. -/
def Mod.canIssue (m : Mod) (c : Nat) : Bool :=
  let x := Mod.core m c
  x.running && x.wait == .none && x.ctx.isSome && Mod.mayIssue m c && !Mod.held m c

/-- The words of an instruction. -/
def pvisWords (p : PvisWords) : List DWord := [p.w, p.e1, p.e2, p.e3].take (pvisLen p)

/-- Fetch the instruction: the program counter passes its words, which stand in the 16-word fetch buffer (R18). -/
def Core.fetched (x : Core) (p : PvisWords) : Core :=
  let b := x.fetchBuf ++ pvisWords p
  { x with pc := x.pc + pvisLen p, fetchBuf := b.drop (b.length - 16) }

/-- OR bits into the condition word (R291) and count their events (R470). -/
def Mod.orCond (m : Mod) (c bits : Nat) : Mod :=
  let l := c / 16
  let m1 := if bits = 0 then m else Mod.modCore m c fun x => { x with cond := x.cond ||| bits }
  let m2 := Mod.visor m1 l 0x1B (b2n (bitAt bits 0 || bitAt bits 4))
  let m3 := Mod.visor m2 l 0x1C (b2n (bitAt bits 1 || bitAt bits 5))
  let m4 := Mod.visor m3 l 0x1D (b2n (bitAt bits 2 || bitAt bits 6))
  let m5 := Mod.visor m4 l 0x04 (b2n (bitAt bits 3))
  Mod.visor m5 l 0x1E (b2n (bitAt bits 8))

/-- Issue an instruction on a core (R19, R292): `run` acts on a module whose core has fetched it; `zero` is what it
does when a count or extent is zero. -/
def Mod.issue (m : Mod) (c : Nat) (p : PvisWords) (zero run : Mod → Mod) : Mod :=
  if !Mod.canIssue m c then m
  else match checkOperands (operandsOf p (Mod.core m c).regs) with
    | .ovf => Mod.kill m c .region .controlUnit 0 (Core.here (Mod.core m c))
    | .zero => zero (Mod.modCore m c fun x => Core.fetched x p)
    | .ok => run (Mod.modCore m c fun x => Core.fetched x p)

/-- The outcome of a PVIS command: words no accepted image can hold stop by name (R293). -/
def coreCmd (name : String) (op : Nat) (c : CoreId) (p : PvisWords) (s : State) (zero run : Mod → Mod) : Out :=
  if pvisIs op p then .next (s.onMod fun m => Mod.issue m c p zero run) else .fault (.rejectedEncoding name)

/-- An instruction with no token and no engine whose count is zero only sets zero_output (R292). -/
def Mod.zeroOut (c : Nat) (m : Mod) : Mod := Mod.orCond m c 0x100

/-! ## Queues -/

/-- Entries a queue holds (R25). -/
def queueDepth (e : Nat) : Nat := if e = 1 then 8 else 16

/-- The entries of a queue. -/
def Core.queue (x : Core) (e : Nat) : List QEntry := sget [] x.queues e

/-- The level of a queue (R34). -/
def Core.level (x : Core) (e : Nat) : Nat := (x.queue e).length

/-- Write a queue. -/
def Core.setQueue (x : Core) (e : Nat) (q : List QEntry) : Core := { x with queues := sset [] x.queues e q }

/-- The poison bit of an entry (R26). -/
def QEntry.poison (q : QEntry) : Bool := bitAt q.side.toNat 8

/-- The marker of an entry (R26, R27). -/
def QEntry.marker (q : QEntry) : Nat := fld q.side.toNat 7 6

/-- The token number of an entry. -/
def QEntry.token (q : QEntry) : Nat := fld q.side.toNat 5 0

/-- A side band (R26). -/
def sideOf (poison : Bool) (marker token : Nat) : BitVec 9 :=
  BitVec.ofNat 9 (b2n poison * 256 + marker % 4 * 64 + token % 64)

/-- A data entry of 32 bytes. -/
def dataEntry (bs : List Byte) (poison tileEnd : Bool) : QEntry :=
  { data := BitVec.ofNat 512 (leNat bs), side := sideOf poison (b2n tileEnd) 0 }

/-- A token entry; one handed to the operand fetch carries its command's place in the order of issue (R290). -/
def tokenEntry (k : Nat) (poison : Bool) (seq : Nat) : QEntry :=
  { data := BitVec.ofNat 512 seq, side := sideOf poison 2 k }

/-- The 32 payload bytes of an entry. -/
def QEntry.bytes (q : QEntry) : List Byte := leBytes 32 q.data.toNat

/-- The next core on the cross-core ring (R25). -/
def ringNext (c : Nat) : Nat := c / 16 * 16 + (c % 16 + 1) % 16

/-- The core before on the cross-core ring. -/
def ringPrev (c : Nat) : Nat := c / 16 * 16 + (c % 16 + 15) % 16

/-- The ring carries entries of a core's qx_out to the next core's qx_in while it has room. -/
def Mod.ring (m : Mod) (c : Nat) : Nat → Mod
  | 0 => m
  | k + 1 =>
    match (Mod.core m c).queue 11 with
    | [] => m
    | q :: qs =>
      let d := ringNext c
      if (Mod.core m d).level 10 < queueDepth 10 then
        Mod.ring (Mod.modCore (Mod.modCore m c fun x => x.setQueue 11 qs) d fun x => x.setQueue 10 (x.queue 10 ++ [q])) c k
      else m

/-- Push an entry into a queue end of the core, if it has a free slot (R29). -/
def Mod.pushEnd (m : Mod) (c e : Nat) (q : QEntry) : Option Mod :=
  if (Mod.core m c).level e < queueDepth e then
    let m1 := Mod.modCore m c fun x => x.setQueue e (x.queue e ++ [q])
    let m2 := Mod.visor m1 (c / 16) 0x1A (b2n q.poison)
    some (if e = 11 then Mod.ring m2 c 16 else m2)
  else none

/-! ## Channels -/

/-- The clusters that run a role, in the order of the placement map (R265). -/
def Image.roleClusters (img : Image) (r : Nat) : List Nat :=
  (img.placement.filter fun (e : PlaceEntry) => e.role == r).flatMap fun (e : PlaceEntry) =>
    (List.range e.count).map (e.first + ·)

/-- The place of a cluster among those of its role (SYS item 6, R295). -/
def Image.roleIndex (img : Image) (cl : Nat) : Nat :=
  match Image.roleAt img cl with
  | some r => (Image.roleClusters img r).findIdx (· == cl)
  | none => 0

/-- The counterpart of cluster `cl` among the clusters of another role. DESIGN CHOICE: places correspond. -/
def Image.counterpart (img : Image) (cl r : Nat) : Option Nat :=
  let cs := Image.roleClusters img r
  if cs.isEmpty then none else cs[Image.roleIndex img cl % cs.length]?

/-- A channel's declaration (R268). -/
def Mod.chanDecl (m : Mod) (k ch : Nat) : Option ChanDecl :=
  let mine := match Mod.ctx m k with
    | some c => c.image.channels.find? fun (d : ChanDecl) => d.number == ch
    | none => none
  match mine, m.model with
  | some d, _ => some d
  | none, some md => md.image.channels.find? fun (d : ChanDecl) => d.number == ch
  | none, none => none

/-- The consumer core of a channel for a producer in cluster `cl`. -/
def Mod.chanCore (m : Mod) (k cl : Nat) (d : ChanDecl) : Option Nat :=
  match Mod.ctx m k with
  | some c => (Image.counterpart c.image cl d.consumerRole).map fun l => l * 16 + d.consumerCore % 16
  | none => none

/-- The side band and payload of an entry as a packet carries them (R26, R411). -/
def entryData (q : QEntry) : List Byte := leBytes 2 q.side.toNat ++ q.bytes

/-- A channel's sender state (R413). -/
def Mod.chan (m : Mod) (k ch : Nat) : Chan := sget {} m.fab.chans (k * 65536 + ch)

/-- Write a channel's state. -/
def Mod.setChan (m : Mod) (k ch : Nat) (x : Chan) : Mod :=
  { m with fab := { m.fab with chans := sset {} m.fab.chans (k * 65536 + ch) x } }

/-- Push an entry into a channel (R25, R413): into the consumer core's queue when its context's role is there and it
has a free slot; to another module while a credit is held. None: the push waits. -/
def Mod.pushChan (m : Mod) (k cl ch : Nat) (q : QEntry) : Option Mod :=
  match Mod.chanDecl m k ch with
  | none => none
  | some d =>
    match d.remote with
    | some xyz =>
      let s := Mod.chan m k ch
      if s.used < 16 then
        some (Mod.sendPacket (Mod.setChan m k ch { s with used := s.used + 1 })
          { ptype := 0x04, dest := xyz, src := Mod.here m, context := k, poison := q.poison, lc := Mod.ctxLc m k
            address := ch, data := entryData q } none)
      else none
    | none =>
      match Mod.chanCore m k cl d with
      | none => none
      | some t =>
        if (Mod.core m t).ctx == some k then Mod.pushEnd m t (if d.consumerEnd = 10 then 10 else 7) q else none

/-- Push what a command has ready: an end of the core below 16, else the channel numbered from 65,536 on. -/
def Mod.push (m : Mod) (c e : Nat) (q : QEntry) : Option Mod :=
  if e < 16 then Mod.pushEnd m c e q else Mod.pushChan m (Mod.ctxOf m c) (c / 16) (e - 65536) q

/-- The push target of an output end of a command: the channel a DMAWR or GATHER names for `chanEnd`. -/
def outTarget (p : PvisWords) (e : Nat) : Nat :=
  if e = chanEnd then 65536 + (if PvisWords.op p = 0x90 then PvisWords.x1 p 15 0 else PvisWords.x1 p 63 48) else e

/-! ## Pops -/

/-- What a pop gives. -/
inductive Popped where
  /-- nothing to pop: the command waits (R29) -/
  | wait
  /-- an entry of data -/
  | data (m : Mod) (q : QEntry)
  /-- the context has ended (R27, R31) -/
  | dead (m : Mod)
  deriving Inhabited

/-- The consumer core of a channel that leads into this module. DESIGN CHOICE: the first cluster of the consumer's role. -/
def Mod.heldCore (m : Mod) (k ch : Nat) : Option Nat :=
  match Mod.ctx m k, Mod.chanDecl m k ch with
  | some c, some (d : ChanDecl) => (Image.roleClusters c.image d.consumerRole).head?.map fun l => l * 16 + d.consumerCore % 16
  | _, _ => none

/-- Move entries held for a channel into its consumer's qd_in while it has room, returning a credit for each (R413). DESIGN
CHOICE: a credit is a write acknowledgement that carries the channel number and one data byte. -/
def Mod.drainHeld (m : Mod) (k ch : Nat) : Nat → Mod
  | 0 => m
  | n + 1 =>
    let s := Mod.chan m k ch
    match s.held, Mod.heldCore m k ch with
    | q :: qs, some t =>
      if (Mod.core m t).ctx != some k then m
      else match Mod.pushEnd m t 7 q with
        | some m1 =>
          Mod.drainHeld (Mod.sendPacket (Mod.setChan m1 k ch { s with held := qs })
            { ptype := 0x08, dest := s.src, src := Mod.here m, context := k, address := ch, data := [1] } none) k ch n
        | none => m
    | _, _ => m

/-- A slot of a core's qd_in has freed: the channels that hold entries for it move them in. -/
def Mod.refill (m : Mod) (c : Nat) : Mod :=
  let mine := m.fab.chans.filter fun p => !p.2.held.isEmpty && Mod.heldCore m (p.1 / 65536) (p.1 % 65536) == some c
  mine.foldl (fun x p => Mod.drainHeld x (p.1 / 65536) (p.1 % 65536) 16) m

/-- Take the head of a queue, let the ring refill qx_in, and let entries held for qd_in move in. -/
def Mod.dropHead (m : Mod) (c e : Nat) : Mod :=
  let m1 := Mod.modCore m c fun x => x.setQueue e (x.queue e).tail
  if e = 10 then Mod.ring m1 (ringPrev c) 16 else if e = 7 then Mod.refill m1 c else m1

/-- The entry a command reads from an input that the null engine's token ended: zero, poisoned, a tile end (R51). -/
def dryEntry : QEntry := { data := 0, side := sideOf true 1 0 }

/-- Pop an entry for a command (R27, R31, R33, R51): a token met without waiting ends the context, but a poisoned one
is the end of the input. -/
def Mod.pop (m : Mod) (c e : Nat) (x : ECmd) : Popped :=
  if x.dry.contains e then .data m dryEntry
  else match (Mod.core m c).queue e with
    | [] => .wait
    | q :: _ =>
      if q.marker = 3 then .dead (Mod.kill m c .reservedMarker .engine 0 0)
      else if q.marker = 2 then
        if q.poison then .data (Mod.dropHead m c e) dryEntry else .dead (Mod.kill m c .tokenOrder .engine 0 q.token)
      else .data (Mod.dropHead m c e) q

/-- The input ended with the null engine's token when it was popped. -/
def Mod.endsDry (m : Mod) (c e : Nat) : Bool :=
  match (Mod.core m c).queue e with | q :: _ => q.marker == 2 && q.poison | [] => false

/-! ## Commands of an engine -/

/-- What a step of an engine's command gives. -/
inductive EStep where
  /-- it waits on a queue, a claim or a fault record -/
  | blocked
  | more (m : Mod) (x : ECmd)
  /-- the context has ended -/
  | dead (m : Mod)
  /-- the module changed and the command waits: it parked, or counted a wait -/
  | waits (m : Mod)
  deriving Inhabited

/-- The commands of an engine, oldest first. -/
def Core.cmds (x : Core) (e : Nat) : List ECmd := sget [] x.engines e

/-- Write the commands of an engine. -/
def Core.setCmds (x : Core) (e : Nat) (l : List ECmd) : Core := { x with engines := sset [] x.engines e l }

/-- Replace the oldest command of an engine. -/
def Mod.setFront (m : Mod) (c e : Nat) (x : ECmd) : Mod :=
  Mod.modCore m c fun y => y.setCmds e (x :: (y.cmds e).tail)

/-- Ends a command claims (R28): input ends, and output ends numbered from 32 on. The token ends qa_in and qw_in of a
DMA command are handed to the operand fetch (R290), and the array's own operands pass no queue of this model. -/
def claimsOf (x : ECmd) : List Nat :=
  let op := x.op
  let ins := (inEnds x.p).filter fun e => 2 ≤ e
  let outs := (outEnds x.p).filter fun e => 2 ≤ e && e < 16
    && !(op == 0x60 && PvisWords.f x.p 41 40 != 2 && PvisWords.tmode x.p == 0)
  ins ++ outs.map (32 + ·)

/-- Carry rows a command claims, numbered from 64 on (R100). -/
def rowClaims (x : ECmd) : List Nat :=
  let p := x.p
  let slot (s : Nat) : List Nat :=
    if fld s 10 8 = 2 ∨ fld s 10 8 = 3 then (List.range (fld s 2 0 + 1)).map (64 + fld s 7 3 + ·)
    else if fld s 10 8 = 4 then [64 + fld s 7 3] else []
  let eight (r : Nat) : List Nat := (List.range 8).map (64 + r + ·)
  let x1 := PvisWords.x1 p
  if x.op = 0x30 then slot (x1 63 53) ++ slot (x1 52 42) ++ slot (x1 41 31) ++ slot (x1 30 20)
  else if x.op = 0x31 then eight (x1 63 59) ++ eight (x1 58 54) ++ slot (x1 52 42)
  else if x.op = 0x32 then eight (x1 63 59) ++ eight (x1 58 54) ++ eight (x1 53 49) ++ slot (x1 47 37)
  else if x.op = 0x33 then eight (x1 63 59) ++ eight (x1 58 54) ++ slot (x1 52 42)
  else if (x.op = 0x48 ∨ x.op = 0x49) ∧ PvisWords.f p 43 42 = 2 then
    (List.range (extent16 x.regs (x1 47 32))).map (64 + PvisWords.f p 37 33 + ·)
  else []

/-- Line-buffer slots a command claims, numbered from 128 on (R117). -/
def slotClaims (y : Core) (x : ECmd) : List Nat :=
  if x.op = 0x60 ∧ PvisWords.f x.p 41 40 = 1 then
    let lb := PvisWords.f x.p 22 21
    let b : LineBuf := sget {} y.lineBufs lb
    [128 + lb * 64 + val16 x.regs (PvisWords.x1 x.p 31 16) % max 1 b.slots]
  else []

/-- Everything a command claims. -/
def allClaims (y : Core) (x : ECmd) : List Nat := claimsOf x ++ rowClaims x ++ slotClaims y x

/-- An earlier-issued, unfinished command on another engine claims something this command claims (R28, R100). -/
def Core.claimed (y : Core) (e : Nat) (x : ECmd) : Bool :=
  let mine := allClaims y x
  !mine.isEmpty && y.engines.any fun p =>
    p.1 != e && p.2.any fun z => decide (z.seq < x.seq) && (allClaims y z).any mine.contains

/-- The head of the end a command waits for a token on. A token handed to the operand fetch stands ahead of the data
of array commands issued after it only (R290). -/
def Core.tokenHead (y : Core) (x : ECmd) (e : Nat) : Option QEntry :=
  match y.queue e with
  | q :: _ => if e < 2 && x.seq < q.data.toNat then none else some q
  | [] => none

/-- Start a command: wait for its token and take it (R31, R33, R51). -/
def Mod.startCmd (m : Mod) (c : Nat) (x : ECmd) : EStep :=
  let y := Mod.core m c
  if PvisWords.tmode x.p < 2 then .more m { x with started := true }
  else
    let e := nth 15 (inEnds x.p) (PvisWords.tend x.p)
    match Core.tokenHead y x e with
    | none => .blocked
    | some q =>
      if q.marker ≠ 2 then .blocked
      else if q.poison then .more (Mod.dropHead m c e) { x with started := true, poison := true }
      else if q.token = PvisWords.token x.p then .more (Mod.dropHead m c e) { x with started := true }
      else .dead (Mod.kill m c .tokenOrder .engine 0 q.token)

/-- The token a command pushes after its last output (R30, R289). -/
def tokenOut (x : ECmd) : List (Nat × QEntry) :=
  let tm := PvisWords.tmode x.p
  if tm = 1 ∨ tm = 3 then
    match (outEnds x.p)[if tm = 1 then PvisWords.tend x.p else 0]? with
    | some e => [(outTarget x.p e, tokenEntry (PvisWords.token x.p) x.poison (if e < 2 then x.seq else 0))]
    | none => []
  else []

/-- All results of a command are formed: its token follows them. -/
def ECmd.finish (x : ECmd) : ECmd := { x with finished := true, out := x.out ++ tokenOut x }

/-- The engines of a mask have no unfinished command of the core; bit 6 covers its bags (R291). -/
def Mod.maskIdle (m : Mod) (c mask : Nat) : Bool :=
  let y := Mod.core m c
  (List.range 7).all fun e => !bitAt mask e || ((y.cmds e).isEmpty
    && (e != 6 || !m.tab.bags.any fun (b : Bag) => b.core == c))

/-- A remote write of the core's job still waits for its acknowledgement (R412). -/
def Mod.ackWaits (m : Mod) (c : Nat) : Bool :=
  m.fab.reqs.any fun r => r.ptype == 0x01 && r.job == (Mod.core m c).job

/-- The channel that a flag is named with (R307, R325): a mirror pair. -/
def Ctx.mirrorChan (c : Ctx) (v : Nat) : Option Nat :=
  let is := c.image.roles.flatMap fun (r : RoleCode) => roleInstrs r.words
  (is.find? fun i => PvisWords.op i.2 == 0x61 && PvisWords.f i.2 41 40 != 0 && PvisWords.f i.2 20 19 != 0
    && PvisWords.f i.2 18 7 == v).map fun i => PvisWords.x1 i.2 63 48

/-- Where the far copy of a mirror pair lies, seen from cluster `l` (R325): a cluster of this module, or the module of
a remote consumer. -/
def Mod.farCopy (m : Mod) (k l v : Nat) : Option (Nat ⊕ Xyz) :=
  match Mod.ctx m k with
  | none => none
  | some c =>
    match Ctx.flagClass c v, Ctx.mirrorChan c v with
    | .cluster, some ch =>
      match Mod.chanDecl m k ch with
      | some (d : ChanDecl) =>
        if Image.roleAt c.image l = some d.producerRole then
          match d.remote with
          | some xyz => some (.inr xyz)
          | none => (Image.counterpart c.image l d.consumerRole).map .inl
        else (Image.counterpart c.image l d.producerRole).map .inl
      | none => none
    | _, _ => none

/-- A flag change of R316 or R308, made at its place in the program: the issuer's copy first, then the far copy of a
mirror pair (R325). -/
def Mod.flagOp (m : Mod) (c v : Nat) (val : Bool) : Mod :=
  let k := Mod.ctxOf m c
  let m1 := Mod.changeFlag m k (c / 16) v val
  match Mod.farCopy m k (c / 16) v with
  | some (.inl l) => Mod.changeFlag m1 k l v val
  | some (.inr xyz) =>
    Mod.sendPacket m1 { ptype := 0x05, dest := xyz, src := Mod.here m, context := k, lc := Mod.ctxLc m k, address := v
                        data := leBytes 1 (b2n val) } none
  | none => m1

/-- Waits of the control unit that the completion of commands ends: a full command queue (R19), COND, FENCE, FSET and
FCLR. -/
def Mod.settle (m : Mod) (c : Nat) : Mod :=
  let y := Mod.core m c
  match y.wait with
  | .engine e x =>
    if (y.cmds e).length < 4 then Mod.modCore m c fun z => { z.setCmds e (z.cmds e ++ [x]) with wait := .none } else m
  | .cond rd clear mask =>
    if Mod.maskIdle m c mask then
      Mod.modCore m c fun z => { z.setReg rd (BitVec.ofNat 32 z.cond) with
        wait := .none, cond := if clear then 0 else z.cond }
    else m
  | .fence scope mask =>
    if Mod.maskIdle m c mask && (scope < 2 || !Mod.ackWaits m c) then Mod.modCore m c fun z => { z with wait := .none }
    else m
  | .flagOp v val mask =>
    if Mod.maskIdle m c mask && !Mod.ackWaits m c then
      Mod.flagOp (Mod.modCore m c fun z => { z with wait := .none }) c v val
    else m
  | _ => m

/-- The flag op of a DMA command (R308): applied when the command completes. -/
def Mod.dmaFlag (m : Mod) (c : Nat) (x : ECmd) : Mod :=
  if x.op = 0x60 ∨ x.op = 0x61 then
    let fo := PvisWords.f x.p 20 19
    if fo = 1 ∨ fo = 2 then Mod.flagOp m c (PvisWords.f x.p 18 7) (fo == 1) else m
  else m

/-- A command completes: it leaves its engine, its condition bits enter the word, its flag op is applied, and a poisoned
command marks its job (R33). -/
def Mod.complete (m : Mod) (c e : Nat) (x : ECmd) : Mod :=
  let m1 := Mod.modCore m c fun y => y.setCmds e (y.cmds e).tail
  let m2 := Mod.orCond m1 c x.cond
  let m3 := if x.poison then Mod.markPoison m2 (Mod.core m2 c).job else m2
  Mod.settle (Mod.dmaFlag m3 c x) c

/-- One step of an engine with the step function of its units; none when it cannot move. -/
def Mod.engineOne (unit_ : Mod → Nat → ECmd → EStep) (m : Mod) (c e : Nat) : Option Mod :=
  let y := Mod.core m c
  match y.cmds e with
  | [] => none
  | x :: _ =>
    if sget 0 y.parked e ≠ 0 ∨ Mod.held m c then none
    else match x.out with
      | (q, ent) :: rest => (Mod.push m c q ent).map fun m1 => Mod.setFront m1 c e { x with out := rest }
      | [] =>
        if x.finished then
          -- a flag op that covers remote writes waits for their acknowledgements (R412)
          if x.op = 0x61 && PvisWords.f x.p 20 19 != 0 && Mod.ackWaits m c then none else some (Mod.complete m c e x)
        else if y.claimed e x then none
        else
          let r := if x.started then (if x.op = 0 then .more m (ECmd.finish { x with cond := 0x100 }) else unit_ m c x)
            else Mod.startCmd m c x
          match r with
          | .blocked => none
          | .more m1 x1 => some (Mod.setFront m1 c e x1)
          | .dead m1 => some m1
          | .waits m1 => some m1

/-- Run an engine until it waits; the bound is above what one run can take. -/
def Mod.runEngine (unit_ : Mod → Nat → ECmd → EStep) (m : Mod) (c e : Nat) : Nat → Mod
  | 0 => m
  | k + 1 => match Mod.engineOne unit_ m c e with
    | some m1 => Mod.runEngine unit_ m1 c e k
    | none => m

/-- The bound of one run of an engine. -/
def runBound : Nat := 2 ^ 40

/-- Run the engines of a list, and again those whose claim was released by a completion. -/
def Mod.runEngines (unit_ : Mod → Nat → ECmd → EStep) (m : Mod) (c : Nat) : List Nat → Mod
  | [] => m
  | e :: es => Mod.runEngines unit_ (Mod.runEngine unit_ m c e runBound) c es

/-- The engines whose oldest command waits for a claim. -/
def Core.onClaim (y : Core) : List Nat :=
  (List.range 7).filter fun e => match y.cmds e with | x :: _ => y.claimed e x | [] => false

/-- Run engine `e`; then the engines that waited for a claim it held (R28). -/
def Mod.runFrom (unit_ : Mod → Nat → ECmd → EStep) (m : Mod) (c e : Nat) : Mod :=
  let waiting := ((Mod.core m c).onClaim).filter (· != e)
  Mod.runEngines unit_ (Mod.runEngine unit_ m c e runBound) c (waiting ++ waiting)

/-- Put a command into an engine's queue of four, or stall the control unit at it (R19). -/
def Mod.enqueue (m : Mod) (c e : Nat) (op : Nat) (p : PvisWords) : Mod :=
  let y := Mod.core m c
  let x : ECmd := { op := op, p := p, regs := y.regs, seq := y.issued }
  let y1 := { y with issued := y.issued + 1 }
  let y2 := if (y.cmds e).length < 4 then y1.setCmds e (y.cmds e ++ [x]) else { y1 with wait := .engine e x }
  let m1 := Mod.modCore m c fun _ => y2
  let waits := 2 ≤ PvisWords.tmode p
    && (match Core.tokenHead y x (nth 15 (inEnds p) (PvisWords.tend p)) with | some _ => false | none => true)
  Mod.visor m1 (c / 16) 0x11 (b2n waits)

/-! ## Macro instructions

A macro runs whole at its place in the program, once its engines have completed the commands issued before it. -/

/-- The token a macro waits for is at the head of its end, or it waits for none (R289, R31): `none` when it must wait,
else the module after taking it, and its poison. -/
def Mod.macroToken (m : Mod) (c : Nat) (p : PvisWords) : EStep :=
  let y := Mod.core m c
  Mod.startCmd m c { op := PvisWords.op p, p := p, regs := y.regs, seq := y.issued }

/-- The end a macro's token goes to has a free slot. -/
def Mod.macroRoom (m : Mod) (c : Nat) (p : PvisWords) : Bool :=
  (tokenOut { p := p }).all fun q => q.1 < 16 && (Mod.core m c).level q.1 < queueDepth q.1

/-- Push a macro's token. -/
def Mod.macroPush (m : Mod) (c : Nat) (p : PvisWords) (poison : Bool) : Mod :=
  match tokenOut { p := p, poison := poison, seq := (Mod.core m c).issued } with
  | (e, q) :: _ => (Mod.push m c e q).getD m
  | [] => m

/-- A macro that did not complete (it parked, or waits for a page or a frame) has not taken its token: the token is at
the head of its end again. -/
def Mod.untake (before after : Mod) (c : Nat) (p : PvisWords) : Mod :=
  let y := Mod.core after c
  if 2 ≤ PvisWords.tmode p && y.running && y.pc == (Mod.core before c).pc then
    let e := nth 15 (inEnds p) (PvisWords.tend p)
    match (Mod.core before c).queue e with
    | q :: _ => Mod.modCore after c fun x => x.setQueue e (q :: x.queue e)
    | [] => after
  else after

/-- Issue a macro on engines `mask`: `run` is given whether its token was poisoned. -/
def Mod.issueMacro (m : Mod) (c : Nat) (p : PvisWords) (mask : Nat) (run : Bool → Mod → Mod) : Mod :=
  if !Mod.canIssue m c || !Mod.maskIdle m c mask || !Mod.macroRoom m c p then m
  else match Mod.macroToken m c p with
    | .blocked => m
    | .dead m1 => m1
    | .waits m1 => m1
    | .more m1 x =>
      Mod.untake m (Mod.issue m1 c p (fun m2 => Mod.zeroOut c (Mod.macroPush m2 c p x.poison)) (run x.poison)) c p

/-- The outcome of a macro command. -/
def macroCmd (name : String) (op mask : Nat) (c : CoreId) (p : PvisWords) (s : State) (run : Bool → Mod → Mod) : Out :=
  if pvisIs op p then .next (s.onMod fun m => Mod.issueMacro m c p mask run) else .fault (.rejectedEncoding name)

/-- Park a macro on the fault of an access (R229): the core stands at the instruction, which runs again when the record
is resolved. -/
def Mod.parkCore (m : Mod) (c : Nat) (p : PvisWords) (f : AccFault) (src : FaultSource) (progress : Nat) : Mod :=
  let x := Mod.core m c
  let r := Mod.raiseAcc m f src (Mod.ctxOf m c) c (Mod.tagOf m x.job) progress true (some (.core c x.job))
  Mod.visor (Mod.modCore r.1 c fun y =>
    { y with wait := .parked r.2 (PvisWords.op p) p, pc := y.pc - pvisLen p }) (c / 16) 0x17 1

/-- A macro's poison marks its job (R33). -/
def Mod.macroPoison (m : Mod) (c : Nat) (po : Bool) : Mod := if po then Mod.markPoison m (Mod.core m c).job else m

end Sys2Proof.Machine
end

