-- ==== Sys2Proof/Machine/Scratch.lean ====
section
/-!
DEFINITION. The scratchpad of a core: bytes, poison by 8-byte words (R23), skew tags (R69), the regions of R22 (R383), and
the lines of objects in the weight and working regions.
-/
namespace Sys2Proof.Machine

open Sys2Proof

/-- A scratchpad byte; one not written in this working space is a free value (R385). -/
def Mod.spadByte (m : Mod) (c i : Nat) : Byte :=
  let x := Mod.core m c
  match sget 0 x.spad i with
  | 0 => Config.freeByte ((x.epoch * 81920 + c) * 32768 + i)
  | v + 1 => BitVec.ofNat 8 v

/-- The `n` bytes from byte `i` on. -/
def Mod.spadRead (m : Mod) (c i n : Nat) : List Byte := (List.range n).map fun j => Mod.spadByte m c (i + j)

/-- A word of the byte range is poisoned (R23). -/
def Mod.spadPoisoned (m : Mod) (c i n : Nat) : Bool :=
  n != 0 && anyIn (Mod.core m c).spadPoison (i / 8) ((i + n - 1) / 8 + 1 - i / 8)

/-- Put bytes into the sparse scratchpad. -/
def putSpad (s : SMap Nat) : Nat → List Byte → SMap Nat
  | _, [] => s
  | i, b :: bs => putSpad (sset 0 s i (b.toNat + 1)) (i + 1) bs

/-- The poison words after a write of `n` bytes at `i`: a poisoned write poisons every word it touches, good data
clears the words it writes whole. -/
def poisonAfter (w : SMap Bool) (i n : Nat) (poison : Bool) : SMap Bool :=
  if n = 0 then w
  else if poison then setRun false w (i / 8) true ((i + n - 1) / 8 + 1 - i / 8)
  else
    let first := (i + 7) / 8
    let last := (i + n) / 8
    w.filter fun p => decide (p.1 < first ∨ last ≤ p.1)

/-- Clear or set the tags of the lines that [i, i + n) touches (R69). -/
def tagsAfter (t : SMap Nat) (i n : Nat) : SMap Nat :=
  if n = 0 then t else t.filter fun p => decide (p.1 < i / 32 ∨ (i + n - 1) / 32 < p.1)

/-- Weights have been written (R437). -/
def Mod.markWeights (m : Mod) (yes : Bool) : Mod :=
  if yes then { m with rcv := { m.rcv with weightsWritten := true } } else m

/-- Write bytes into a scratchpad with tag 0 (R69, R87: byte masks). -/
def Mod.spadWrite (m : Mod) (c i : Nat) (bs : List Byte) (poison : Bool) : Mod :=
  Mod.modCore (Mod.markWeights m (decide (i < 32 * Mod.weightLines m))) c fun x => { x with
    spad := putSpad x.spad i bs
    spadPoison := poisonAfter x.spadPoison i bs.length poison
    tags := tagsAfter x.tags i bs.length }

/-- The skew tag of line `k` of a stream: its position modulo 8, and odd parity (R69). -/
def skewTag (k : Nat) : Nat :=
  let p := k % 8
  let ones := p % 2 + p / 2 % 2 + p / 4 % 2
  p * 2 + (1 - ones % 2)

/-- Write one line in skewed layout (R55, R69): line `k` of its stream. -/
def Mod.spadWriteSkew (m : Mod) (c line k : Nat) (bs : List Byte) (poison : Bool) : Mod :=
  let m1 := Mod.spadWrite m c (line * 32) bs poison
  Mod.modCore m1 c fun x => { x with tags := sset 0 x.tags line (skewTag k) }

/-- The lines from `line` on carry the tags of a skewed stream (R69). -/
def Mod.tagsGood (m : Mod) (c line n : Nat) : Bool :=
  (List.range n).all fun k => sget 0 (Mod.core m c).tags (line + k) == skewTag k

/-- The lines [line, line + n) may be read (`write` false) or written by the core's context (R22). -/
def Mod.linesOk (m : Mod) (c line n : Nat) (write : Bool) : Bool :=
  decide (line + n ≤ 1024)
    && (!write || decide (Mod.weightLines m ≤ line) || Mod.isExclusive m (Mod.ctxOf m c))

/-- End the context for an access outside its regions (R22). -/
def Mod.regionKill (m : Mod) (c line : Nat) : Mod := Mod.kill m c .region .engine 0 line

/-- Lines an object of `bytes` takes. -/
def objLines (bytes : Nat) : Nat := 2 * ceilDiv bytes 64

/-- Bytes an object takes in a scratchpad: its declared size, and for a halo slot pair the rows of slots A and B. -/
def spadObjBytes (o : ObjDecl) : Nat := o.bytes

/-- The objects of an image that lie in a scratchpad region, with their first lines. DESIGN CHOICE: the image gives no
lines; they follow one another in declaration order, on even lines. -/
def placeLines : Nat → List ObjDecl → List (ObjDecl × Nat)
  | _, [] => []
  | l, o :: os => (o, l) :: placeLines (l + objLines (spadObjBytes o)) os

/-- The objects a context sees: its own image's, then the model's. -/
def Mod.objsOf (m : Mod) (k : Nat) : List ObjDecl :=
  (match Mod.ctx m k with | some c => c.image.objects | none => [])
    ++ (match m.model with | some md => md.image.objects | none => [])

/-- Objects of the weight region (space 2, from line 0) and of the working region (space 3, above it). -/
def Mod.spadObjs (m : Mod) (k : Nat) : List (ObjDecl × Nat) :=
  let os := Mod.objsOf m k
  placeLines 0 (os.filter fun (o : ObjDecl) => o.space == 2)
    ++ placeLines (Mod.weightLines m) (os.filter fun (o : ObjDecl) => o.space == 3)

/-- The first line of an object in a scratchpad region. -/
def Mod.objLine (m : Mod) (k n : Nat) : Option Nat :=
  ((Mod.spadObjs m k).find? fun p => p.1.number == n).map (·.2)

/-- The tensor at a line is laid out in mitten layout (R64, R65, R267). -/
def Mod.mittenAt (m : Mod) (k line : Nat) : Bool :=
  match (Mod.spadObjs m k).find? fun p => p.2 ≤ line && line < p.2 + objLines (spadObjBytes p.1) with
  | some p => p.1.layout == 2
  | none => false

end Sys2Proof.Machine
end

