-- ==== Sys2Proof/Machine/ArrayUnit.lean ====
section
/-!
DEFINITION. The matrix array: tile commands in glove, mitten and broadcast mode (R52 to R67, R69, R71 to R77, R86),
combine and drain (R58, R82), token pushes and skips (R297).
-/
namespace Sys2Proof.Machine

open Sys2Proof

/-! ## Operands -/

/-- Depth of a stationary tile of a format (R53). -/
def tileDepth (f : Nat) : Nat := if elemBits f = 4 then 16 else 8

/-- The bits of an element at a byte offset; `hi` picks the upper nibble of a 4-bit pair. -/
def elemBytes (rd : Nat → Byte) (f off : Nat) (hi : Bool) : Nat :=
  if elemBits f = 4 then fld (rd off).toNat (if hi then 7 else 3) (if hi then 4 else 0)
  else if elemBits f = 16 then (rd off).toNat + 256 * (rd (off + 1)).toNat
  else (rd off).toNat

/-- Stationary element: depth `k`, column `j` (R64). -/
def statElem (rd : Nat → Byte) (mitten : Bool) (base f k j : Nat) : Nat :=
  let b := elemBits f
  if mitten then
    if b = 4 then elemBytes rd f (base + k / 2 * 64 + j) (k % 2 == 1)
    else if b = 16 then elemBytes rd f (base + k * 128 + 2 * j) false
    else elemBytes rd f (base + k * 64 + j) false
  else
    if b = 4 then elemBytes rd f (base + k / 16 * 64 + (j * 16 + k % 16) / 2) (k % 2 == 1)
    else if b = 16 then elemBytes rd f (base + k / 8 * 128 + 2 * (j * 8 + k % 8)) false
    else elemBytes rd f (base + k / 8 * 64 + j * 8 + k % 8) false

/-- Bytes of a stationary operand of depth `k` (R53, R64). -/
def statBytes (mitten : Bool) (f k : Nat) : Nat :=
  let b := elemBits f
  if mitten then (if b = 4 then ceilDiv k 2 * 64 else if b = 16 then k * 128 else k * 64)
  else ceilDiv k (tileDepth f) * (if b = 16 then 128 else 64)

/-- Bytes of a diagonal of a moving format (R53). -/
def diagBytes53 (f : Nat) : Nat := if elemBits f = 16 then 16 else 8

/-- Bytes of a moving operand in skewed layout: 8S + 7 diagonals (R55). -/
def skewBytes (f k : Nat) : Nat := (8 * ceilDiv k (tileDepth f) + 7) * diagBytes53 f

/-- Lines of a moving operand in skewed layout. -/
def skewLines (f k : Nat) : Nat := ceilDiv (skewBytes f k) 32

/-- Place of element `k` of moving row `t` in skewed layout: byte offset and nibble (R55). -/
def skewPlace (f t k : Nat) : Nat × Bool :=
  let b := elemBits f
  let q := if b = 4 then k / 2 else k
  ((t + q) * diagBytes53 f + q % 8 * (if b = 16 then 2 else 1), b == 4 && k % 2 == 1)

/-- Bytes of one row of `k` elements laid plainly, each row beginning on a line. -/
def rowLinesBytes (f k : Nat) : Nat := roundUp (ceilDiv (k * elemBits f) 8) 32

/-- Moving element: row `t`, depth `k`; `rows` bytes per plain row. -/
def movElem (rd : Nat → Byte) (skew : Bool) (base f rowBytes t k : Nat) : Nat :=
  if skew then
    let p := skewPlace f t k
    elemBytes rd f (base + p.1) p.2
  else if elemBits f = 4 then elemBytes rd f (base + t * rowBytes + k / 2) (k % 2 == 1)
  else elemBytes rd f (base + t * rowBytes + k * (elemBits f / 8)) false

/-- An element with its block scale (R71, R73): 0xFF makes it a NaN. -/
def scaled (f bits : Nat) (scale : Nat) : Fv :=
  if isMx f then (match e8m0 scale with | some e => (decElem f bits).scale e | none => .nan) else decElem f bits

/-- One tile command's operands and shape. -/
structure Tile where
  sf : Nat
  mf : Nat
  /-- the stationary layout is mitten's -/
  mitten : Bool
  /-- sums run in mitten's order (R61), else in the grid's (R59) -/
  mittenSum : Bool
  skew : Bool
  m : Nat
  n : Nat
  depth : Nat
  /-- byte readers of the stationary and moving operands and their scales, each from offset 0 -/
  srd : Nat → Byte
  mrd : Nat → Byte
  ssc : Nat → Byte
  msc : Nat → Byte

/-- The product terms of output (t, j) at depth `k`, formed exactly and rounded only outside the normal range (R73). -/
def Tile.prod (a : Tile) (t j k : Nat) : Fv :=
  let s := scaled a.sf (statElem a.srd a.mitten 0 a.sf k j)
    (if isMx a.sf then (a.ssc (k / 32 * (if a.mitten then 64 else 8) + j)).toNat else 0x7F)
  let v := scaled a.mf (movElem a.mrd a.skew 0 a.mf (rowLinesBytes a.mf a.depth) t k)
    (if isMx a.mf then
      (a.msc (if a.skew then k / 32 * 8 + t else t * ceilDiv a.depth 32 + k / 32)).toNat else 0x7F)
  f32 (toF32 (s.mul v))

/-- Both operands are MXFP4: products join in pairs (R53, R59). -/
def Tile.paired (a : Tile) : Bool := a.sf == 0x9 && a.mf == 0x9

/-- The terms of output (t, j) in depth order: single products, or exact pair sums. -/
def Tile.terms (a : Tile) (t j : Nat) : List Fv :=
  if a.paired then
    (List.range (ceilDiv a.depth 2)).map fun q =>
      let p := a.prod t j (2 * q)
      if 2 * q + 1 < a.depth then p.add (a.prod t j (2 * q + 1)) else p
  else (List.range a.depth).map fun k => a.prod t j k

/-- One column sum (R59): row order, each addition rounded to FP32. -/
def colSum : List Fv → Word
  | [] => 0
  | p :: ps => ps.foldl (fun w q => toF32 ((f32 w).add q)) (toF32 p)

/-- Lists of `n` elements each, the last one shorter; `fuel` bounds them. -/
def chunks {α : Type} (n : Nat) : Nat → List α → List (List α)
  | 0, _ => []
  | fuel + 1, l => if l.isEmpty then [] else l.take n :: chunks n fuel (l.drop n)

/-- The accumulator entry of output (t, j) after the tile, from `acc` (R59, R61). -/
def Tile.fpEntry (a : Tile) (acc : Word) (t j : Nat) : Word :=
  let ts := a.terms t j
  if a.mittenSum then ts.foldl (fun w q => toF32 ((f32 w).add q)) acc
  else (chunks 8 ts.length ts).foldl (fun w c => fadd w (colSum c)) acc

/-- INT32 addition that saturates (R76): the sum and whether it saturated. -/
def satAdd (a b : Int) : Int × Bool :=
  if a + b < -2147483648 then (-2147483648, true)
  else if 2147483647 < a + b then (2147483647, true) else (a + b, false)

/-- Sum a list with saturation on every addition. -/
def satSum (a : Int × Bool) (l : List Int) : Int × Bool :=
  l.foldl (fun s v => let r := satAdd s.1 v; (r.1, s.2 || r.2)) a

/-- The integer value of an INT8 or INT4 element. -/
def intElem (f bits : Nat) : Int := signed (if f = 0xC then 4 else 8) bits

/-- The INT32 accumulator entry of output (t, j) after the tile. -/
def Tile.intEntry (a : Tile) (acc : Word) (t j : Nat) : Word × Bool :=
  let ts := (List.range a.depth).map fun k =>
    intElem a.sf (statElem a.srd a.mitten 0 a.sf k j)
      * intElem a.mf (movElem a.mrd a.skew 0 a.mf (rowLinesBytes a.mf a.depth) t k)
  let s0 : Int × Bool := (signed 32 acc.toNat, false)
  let s := if a.mittenSum then satSum s0 ts
    else (chunks 8 ts.length ts).foldl (fun s c =>
      let col := satSum (0, false) c
      let r := satAdd s.1 col.1
      (r.1, s.2 || col.2 || r.2)) s0
  (BitVec.ofNat 32 (unsigned 32 s.1), s.2)

/-- An FP32 word as the array stores it: every NaN is the quiet NaN with a free sign (R75). -/
def arrayWord (free i : Nat) (w : Word) : Word :=
  if (f32 w).isNan then (if Config.freeBit (free * 1024 + i) then 0xFFC0_0000 else qnan) else w

/-- Condition bits of the words that entered an accumulator (R77). -/
def accCond (ws : List Word) : Nat :=
  b2n (ws.any fun w => (f32 w).isNan) + 2 * b2n (ws.any fun w => (f32 w).isInf)

/-! ## The accumulator store -/

/-- Entry `i` of accumulator set `s`. -/
def Core.accAt (x : Core) (s i : Nat) : Word := sget 0 x.acc (s * 64 + i)

/-- Write entries of the accumulator store. -/
def Core.setAcc (x : Core) : List (Nat × Word) → Core
  | [] => x
  | (k, w) :: ws => Core.setAcc { x with acc := sset 0 x.acc k w } ws

/-- An entry that the array drains: its words, whether they are INT32, and how many of its last lanes stand for masked
columns (R86), which set no condition bit behind the array either (R110). -/
def drainEntry (bs : List Byte) (poison tileEnd int : Bool) (masked : Nat) : QEntry :=
  { data := BitVec.ofNat 512 (leNat bs + b2n int * 2 ^ 256 + masked % 9 * 2 ^ 257), side := sideOf poison (b2n tileEnd) 0 }

/-- Entries a mitten set drains: 8 words each, words beyond `cols` zero (R58, R62, R86). -/
def Core.drainRows (x : Core) (s rows cols : Nat) (poison : Bool) : List QEntry :=
  (List.range rows).map fun t =>
    let ws := (List.range 8).flatMap fun j => leBytes 4 (if t * 8 + j < cols then (x.accAt s (t * 8 + j)).toNat else 0)
    drainEntry ws poison (t + 1 == rows) (sget false x.accInt s) (8 - (cols - t * 8))

/-- Entries of a glove tile's drain: columns beyond the extent are zero (R86). -/
def Core.drainGlove (x : Core) (s rows cols : Nat) (poison : Bool) : List QEntry :=
  (List.range rows).map fun t =>
    let ws := (List.range 8).flatMap fun j => leBytes 4 (if j < cols then (x.accAt s (t * 8 + j)).toNat else 0)
    drainEntry ws poison (t + 1 == rows) (sget false x.accInt s) (8 - cols)

/-! ## MMA -/

/-- The shape of an MMA from its words (R298). -/
structure MmaShape where
  mode : Nat
  qc : Bool
  plain : Bool
  set : Nat
  cont : Bool
  out : Nat
  sf : Nat
  mf : Nat
  drain : Bool
  sline : Nat
  mline : Nat
  sscale : Nat
  mscale : Nat
  rows : Nat
  cols : Nat
  depth : Nat
  deriving DecidableEq, Repr, Inhabited

/-- Read an MMA's words and registers. -/
def mmaShape (x : ECmd) : MmaShape :=
  let f := PvisWords.f x.p
  let x1 := PvisWords.x1 x.p
  let x2 := PvisWords.x2 x.p
  { mode := f 43 42, qc := f 41 41 == 1, plain := f 40 40 == 1, set := f 39 36, cont := f 35 35 == 1
    out := f 34 31, sf := f 30 27, mf := f 26 23, drain := f 22 22 == 1
    sline := val16 x.regs (x1 63 48), mline := val16 x.regs (x1 47 32), sscale := val16 x.regs (x1 31 16)
    mscale := val16 x.regs (x1 15 0), rows := extent16 x.regs (x2 63 48), cols := extent16 x.regs (x2 47 32)
    depth := extent16 x.regs (x2 31 16) }

/-- The tile runs on a mitten layout (R64, R65): pinned, or chosen by the stationary tensor's layout. -/
def Mod.mmaMitten (m : Mod) (c : Nat) (a : MmaShape) : Bool :=
  !a.qc && (a.mode == 2 || (a.mode == 0 && (8 < a.cols || Mod.mittenAt m (Mod.ctxOf m c) a.sline)))

/-- The byte ranges an MMA reads from the scratchpad: first byte and length. -/
def mmaRanges (a : MmaShape) (mitten : Bool) : List (Nat × Nat) :=
  let skew := !mitten && !a.plain
  let nb := ceilDiv a.depth 32
  [(a.sline * 32, statBytes mitten a.sf a.depth)]
    ++ (if a.qc then [] else
      [(a.mline * 32, if skew then skewBytes a.mf a.depth else a.rows * rowLinesBytes a.mf a.depth)])
    ++ (if isMx a.sf then [(a.sscale * 32, nb * (if mitten then 64 else 8))] else [])
    ++ (if isMx a.mf then [(a.mscale * 32, if skew then nb * 8 else a.rows * nb)] else [])

/-- The tile of an MMA, with its operands read; `buf` holds the lines popped from qc_win. -/
def Mod.mmaTile (m : Mod) (c : Nat) (a : MmaShape) (mitten mittenSum : Bool) (buf : List QEntry) : Tile :=
  let rd (base : Nat) : Nat → Byte := fun i => Mod.spadByte m c (base * 32 + i)
  { sf := a.sf, mf := a.mf, mitten := mitten, mittenSum := mittenSum, skew := !mitten && !a.plain
    m := a.rows, n := a.cols, depth := a.depth, srd := rd a.sline
    mrd := if a.qc then (fun i => BitVec.ofNat 8 ((nth default buf (i / 32)).data.toNat / 2 ^ (8 * (i % 32))))
      else rd a.mline
    ssc := rd a.sscale, msc := rd a.mscale }

/-- Set and entry of output (t, j): one set of 8 × 8, or a set per row in mitten layout (R52, R62). -/
def accKey (mitten : Bool) (set t j : Nat) : Nat := if mitten then (set + t) % 16 * 64 + j else set * 64 + t * 8 + j

/-- The entries a tile computes: key, word and whether an addition saturated. -/
def Tile.run (a : Tile) (x : Core) (set free : Nat) (cont : Bool) : List (Nat × Word × Bool) :=
  let int := a.sf == 0xB || a.sf == 0xC
  (List.range a.m).flatMap fun t => (List.range a.n).map fun j =>
    let key := accKey a.mitten set t j
    let acc := if cont then sget 0 x.acc key else 0
    if int then (key, a.intEntry acc t j) else (key, arrayWord free (t * 64 + j) (a.fpEntry acc t j), false)

/-- The sets a tile command writes. -/
def mmaSets (mitten : Bool) (set rows : Nat) : List Nat :=
  if mitten then (List.range rows).map fun t => (set + t) % 16 else [set]

/-- Array-port reads of a tile (R53, R62). -/
def mmaReads (a : MmaShape) (mitten : Bool) : Nat :=
  if mitten then
    a.rows * (statBytes true a.sf a.depth / 64 + ceilDiv (ceilDiv (a.depth * elemBits a.mf) 8) 64
      + (if isMx a.sf then ceilDiv a.depth 32 else 0) + (if isMx a.mf then ceilDiv a.depth 2048 else 0))
  else statBytes false a.sf a.depth / 64 + (if a.qc then 0 else ceilDiv (skewBytes a.mf a.depth) 64)

/-- Run a tile whose operands are all there: sets, condition bits, drain, events. -/
def Mod.mmaRun (m : Mod) (c : Nat) (x : ECmd) (a : MmaShape) : EStep :=
  let y := Mod.core m c
  let mitten := Mod.mmaMitten m c a
  let bcast := y.arrayReset || a.mode == 3
  let ranges := mmaRanges a mitten
  if ranges.any fun r => r.2 != 0 && !Mod.linesOk m c (r.1 / 32) ((r.1 + r.2 - 1) / 32 + 1 - r.1 / 32) false then
    .dead (Mod.regionKill m c a.sline)
  else
    let replay := !mitten && !bcast && !a.plain && !a.qc && !Mod.tagsGood m c a.mline (skewLines a.mf a.depth)
    let po := x.poison || ranges.any fun r => Mod.spadPoisoned m c r.1 r.2
    let po := po || x.buf.any (·.poison)
    let sets := mmaSets mitten a.set a.rows
    let po := po || (a.cont && sets.any fun s => sget false y.accPoison s)
    let es := (Mod.mmaTile m c a mitten (mitten && !bcast) x.buf).run y a.set m.free a.cont
    let y0 := if a.cont then y else
      { y with acc := y.acc.filter fun p => !sets.contains (p.1 / 64) }
    let y1 := Core.setAcc y0 (es.map fun e => (e.1, e.2.1))
    let int := a.sf == 0xB || a.sf == 0xC
    let y2 := { y1 with
      accPoison := sets.foldl (fun b s => sset false b s po) y1.accPoison
      accInt := sets.foldl (fun b s => sset false b s int) y1.accInt
      arrayReset := false }
    let cond := (if int then 4 * b2n (es.any (·.2.2)) else accCond (es.map (·.2.1))) + 8 * b2n replay
    let outs := if !a.drain then []
      else if mitten then (sets.flatMap fun s => Core.drainRows y2 s (ceilDiv a.cols 8) a.cols po).map fun q => (a.out, q)
      else (Core.drainGlove y2 a.set a.rows a.cols po).map fun q => (a.out, q)
    let l := c / 16
    let m1 := Mod.bumpFree (Mod.modCore m c fun _ => y2)
    let m2 := Mod.visor m1 l 0x01 (if mitten then a.rows else ceilDiv a.depth (tileDepth a.sf))
    let m3 := Mod.visor m2 l 0x02 (b2n (!mitten && !bcast))
    let m4 := Mod.visor m3 l 0x03 (b2n (bcast || replay))
    let m5 := Mod.visor m4 l 0x09 (mmaReads a mitten)
    .more m5 (ECmd.finish { x with poison := po, cond := x.cond ||| cond, out := outs })

/-- A token at the head of an operand end that the command did not wait for (R31, R51): none when there is none. -/
def Mod.mmaToken (m : Mod) (c : Nat) (x : ECmd) : List Nat → Option EStep
  | [] => none
  | e :: es =>
    match Core.tokenHead (Mod.core m c) x e with
    | some q =>
      if q.marker = 2 then
        if q.poison then some (.more (Mod.dropHead m c e) { x with poison := true, dry := e :: x.dry })
        else some (.dead (Mod.kill m c .tokenOrder .engine 0 q.token))
      else Mod.mmaToken m c x es
    | none => Mod.mmaToken m c x es

/-- One step of an MMA: the diagonals of qc_win are popped first (R298 msrc). -/
def Mod.mmaStep (m : Mod) (c : Nat) (x : ECmd) : EStep :=
  let a := mmaShape x
  match Mod.mmaToken m c x [0, 1] with
  | some r => r
  | none =>
    if a.qc && x.buf.length < skewLines a.mf a.depth then
      match Mod.pop m c 9 x with
      | .wait => .blocked
      | .dead m1 => .dead m1
      | .data m1 q => .more m1 { x with buf := x.buf ++ [q], dry := if Mod.endsDry m c 9 then 9 :: x.dry else x.dry }
    else Mod.mmaRun m c x a

/-! ## COMBINE and DRAIN -/

/-- Add the 8 words of an entry to row `t` of a set (R82): the new entries, and saturation. -/
def Core.combineRow (x : Core) (set t free : Nat) (int : Bool) (q : QEntry) : List (Nat × Word × Bool) :=
  (List.range 8).map fun j =>
    let key := set * 64 + t * 8 + j
    let v : Word := BitVec.ofNat 32 (q.data.toNat / 2 ^ (32 * j))
    if int then
      let r := satAdd (signed 32 (sget 0 x.acc key).toNat) (signed 32 v.toNat)
      (key, BitVec.ofNat 32 (unsigned 32 r.1), r.2)
    else (key, arrayWord free (t * 8 + j) (fadd (sget 0 x.acc key) v), false)

/-- One step of a COMBINE: one entry of qx_in, then the drain (R82, R299). -/
def Mod.combineStep (m : Mod) (c : Nat) (x : ECmd) : EStep :=
  let f := PvisWords.f x.p
  let set := f 39 36
  let n := f 35 28 + 1
  let rows := f 23 20 + 1
  let int := f 19 19 == 1
  if x.k < n * rows then
    match Mod.pop m c 10 x with
    | .wait => .blocked
    | .dead m1 => .dead m1
    | .data m1 q =>
      let y := Mod.core m1 c
      let es := Core.combineRow y set (x.k % rows) m1.free int q
      let po := x.poison || q.poison || sget false y.accPoison set
      let y1 := { Core.setAcc y (es.map fun e => (e.1, e.2.1)) with accPoison := sset false y.accPoison set po, accInt := sset false y.accInt set int }
      let cond := if int then 4 * b2n (es.any (·.2.2)) else accCond (es.map (·.2.1))
      .more (Mod.visor (Mod.bumpFree (Mod.modCore m1 c fun _ => y1)) (c / 16) 0x05 1)
        { x with k := x.k + 1, poison := po, cond := x.cond ||| cond,
                 dry := if Mod.endsDry m c 10 then 10 :: x.dry else x.dry }
  else
    let out := f 27 24
    let es := if out = 14 then [] else Core.drainGlove (Mod.core m c) set rows 8 x.poison
    .more m (ECmd.finish { x with out := es.map fun q => (out, q) })

/-- A DRAIN (R299): the rows of a set, with its poison. -/
def Mod.drainStep (m : Mod) (c : Nat) (x : ECmd) : EStep :=
  let f := PvisWords.f x.p
  let y := Mod.core m c
  let po := x.poison || sget false y.accPoison (f 39 36)
  let es := Core.drainGlove y (f 39 36) (f 23 20 + 1) 8 po
  .more m (ECmd.finish { x with poison := po, out := es.map fun q => (f 27 24, q) })

/-! ## QSKIP -/

/-- One step of a QSKIP (R297): token entries are skipped as well; R31 does not apply. -/
def Mod.qskipStep (m : Mod) (c : Nat) (x : ECmd) : EStep :=
  let e := PvisWords.f x.p 3 0
  let n := PvisWords.f x.p 35 16
  match (Mod.core m c).queue e with
  | [] => .blocked
  | q :: _ =>
    if q.marker = 3 then .dead (Mod.kill m c .reservedMarker .engine 0 0)
    else
      let x1 := { x with k := x.k + 1, poison := x.poison || q.poison }
      let last := if n = 0 then q.marker == 1 else x1.k == n
      .more (Mod.dropHead m c e) (if last then ECmd.finish x1 else x1)

/-- One step of a command of the array. -/
def Mod.arrayStep (m : Mod) (c : Nat) (x : ECmd) : EStep :=
  if x.op = 0x20 then Mod.mmaStep m c x
  else if x.op = 0x21 then Mod.combineStep m c x
  else if x.op = 0x22 then Mod.drainStep m c x
  else .blocked

end Sys2Proof.Machine
end

