-- ==== Sys2Proof/Machine/Philox.lean ====
section
/-!
DEFINITION. Philox-4x32-10 (R81, R206), its use by the core generator, and stochastic rounding (R80). PRESUMED: the
manual names the generator; its multipliers and key increments are those of the published generator.
-/
namespace Sys2Proof.Machine

open Sys2Proof

/-- The four words of a Philox counter or output. -/
structure Quad where
  a : Nat
  b : Nat
  c : Nat
  d : Nat
  deriving DecidableEq, Repr, Inhabited

/-- One round of Philox-4x32. -/
def philoxRound (k0 k1 : Nat) (x : Quad) : Quad :=
  let p := 0xD251_1F53 * x.a
  let q := 0xCD9E_8D57 * x.c
  ⟨(q / 2 ^ 32) ^^^ x.b ^^^ k0, q % 2 ^ 32, (p / 2 ^ 32) ^^^ x.d ^^^ k1, p % 2 ^ 32⟩

/-- The rounds of Philox-4x32, the key words advancing between them. -/
def philoxRounds : Nat → Nat → Nat → Quad → Quad
  | 0, _, _, x => x
  | n + 1, k0, k1, x =>
    philoxRounds n ((k0 + 0x9E37_79B9) % 2 ^ 32) ((k1 + 0xBB67_AE85) % 2 ^ 32) (philoxRound k0 k1 x)

/-- Philox-4x32-10 under a 64-bit seed: key word 0 holds bits [31:0] (R81). -/
def philox (seed : Nat) (x : Quad) : Quad := philoxRounds 10 (seed % 2 ^ 32) (seed / 2 ^ 32 % 2 ^ 32) x

/-- Word `i` of an output. -/
def Quad.word (x : Quad) (i : Nat) : Nat := if i = 0 then x.a else if i = 1 then x.b else if i = 2 then x.c else x.d

/-- Word `i` of the core generator of logical core `c` (R81): draw count i / 4, word i mod 4. -/
def coreWord (seed c i : Nat) : Nat :=
  let n := i / 4
  Quad.word (philox seed ⟨n % 2 ^ 32, n / 2 ^ 32 % 2 ^ 32, c, 0x5243_0001⟩) (i % 4)

/-- The words the core generator gives next, and the state after taking `n` of them. -/
def Mod.draw (m : Mod) (c n : Nat) : Mod × List Nat :=
  let k := Mod.ctxOf m c
  match Mod.ctx m k with
  | none => (m, List.replicate n 0)
  | some x =>
    let i := sget 0 x.drawn c
    (Mod.modCtx m k fun y => { y with drawn := sset 0 y.drawn c (i + n) },
      (List.range n).map fun j => coreWord x.blk.seed.toNat c (i + j))

/-- The rounding word of value `i` of a conversion: none for rounding to nearest even (R80). -/
def srWord (ws : List Nat) (i : Nat) : Option Nat := ws[i]?

/-- Words for the `n` values of a conversion, when stochastic rounding is asked for (R80). -/
def Mod.srWords (m : Mod) (c n : Nat) (sr : Bool) : Mod × List Nat := if sr then Mod.draw m c n else (m, [])

end Sys2Proof.Machine
end

