-- ==== Sys2Proof/Machine/GateUnit.lean ====
section
/-!
DEFINITION. The gate pipeline: its stages, coefficients and functions (R97 to R103), the fused LSTM and GRU
combinations (R105 to R107) and compensated accumulation (R108, R109).
-/
namespace Sys2Proof.Machine

open Sys2Proof

/-- Lane `j` of carry row `r` (R99). -/
def Core.carryAt (x : Core) (r j : Nat) : Word := sget 0 x.carry (r % 32 * 8 + j % 8)

/-- Write a lane of a carry row. -/
def Core.setCarry (x : Core) (r j : Nat) (w : Word) : Core := { x with carry := sset 0 x.carry (r % 32 * 8 + j % 8) w }

/-- The coefficient of a slot for element (t, j) of tile k (R98); none for source 0. -/
def coefAt (y : Core) (x : ECmd) (slot t j k : Nat) : Option Word :=
  let src := fld slot 10 8
  let r := fld slot 7 3
  let c := fld slot 2 0 + 1
  if src = 1 then some (BitVec.ofNat 32 (x.reg r))
  else if src = 2 then some (y.carryAt (r + k % c) j)
  else if src = 3 then some (y.carryAt (r + k % c) t)
  else if src = 4 then some (y.carryAt r k)
  else none

/-- Stages 1 and 3 (R97): fma with one rounding; untouched when neither coefficient is given. -/
def affine (a b : Option Word) (x : Word) : Word :=
  match a, b with
  | none, none => x
  | _, _ => ffma (a.getD 0x3F80_0000) x (b.getD 0)

/-- An infinity that an operation produced from finite values: overflow (R110). -/
def overflowed (ins : List Word) (out : Word) : Nat :=
  if (f32 out).isInf && ins.all fun w => !(f32 w).isInf && !(f32 w).isNan then 2 else 0

/-- A NaN bit (R110). -/
def nanBit (w : Word) : Nat := b2n (f32 w).isNan

/-- Stage 1 of an element: conversion of INT32 drains, then the affine step; with its condition bits. -/
def stage1 (int : Bool) (a b : Option Word) (w : Word) : Word × Nat :=
  let v := if int then intToF32 (signed 32 w.toNat) else w
  let r := affine a b v
  (r, overflowed [v, a.getD 0, b.getD 0] r ||| nanBit r)

/-- The 8 words of an entry. -/
def QEntry.words (q : QEntry) : List Word := (List.range 8).map fun j => BitVec.ofNat 32 (q.data.toNat / 2 ^ (32 * j))

/-- A drained entry of INT32 words. -/
def QEntry.int (q : QEntry) : Bool := bitAt q.data.toNat 256

/-- Lanes of a drained entry that no extent masks: only they set condition bits (R86, R110). -/
def QEntry.valid (q : QEntry) : Nat := 8 - fld q.data.toNat 260 257

/-- Narrow the words of one row (stage 4, R78, R80): bytes, and the condition bits of its first `valid` words. -/
def narrowRow (f : Nat) (ws : List Word) (rnd : List Nat) (valid : Nat) : List Byte × Nat :=
  let r := (List.range ws.length).map fun i =>
    let w := nth 0 ws i
    (w, narrowTo f false (srWord rnd i) (bitAt w.toNat 31) (f32 w))
  let bytes := r.flatMap fun p => leBytes (elemBits f / 8) p.2.bits
  let cond := (r.take valid).foldl (fun a p =>
    let inf := (f = 0x1 || f = 0x2 || f = 0x4) && !(f32 p.1).isInf && !(f32 p.1).isNan && (decElem f p.2.bits).isInf
    a ||| nanBit p.1 ||| 4 * b2n p.2.sat ||| 2 * b2n inf) 0
  (bytes, cond)

/-- Values of a narrowed format in an entry (R101). -/
def gateLanes (f : Nat) : Nat := 256 / elemBits f

/-- Take the result row of a popped entry into the pack buffer and push what is full (R101). -/
def packRow (x : ECmd) (f : Nat) (bs : List Byte) (tileEnd : Bool) : ECmd :=
  let all := (x.buf.flatMap fun q => (q.bytes).take q.side.toNat) ++ bs
  if 32 ≤ all.length || tileEnd then
    { x with buf := [], out := x.out ++ [(3, dataEntry (all ++ List.replicate (32 - all.length) 0) x.poison tileEnd)] }
  else
    -- the pack buffer holds one row per entry, with its byte count in the side band
    { x with buf := x.buf ++ [{ data := BitVec.ofNat 512 (leNat bs), side := BitVec.ofNat 9 (elemBits f) }] }

/-- What the fused and plain functions give for one row: the core after it, the words to push if any, condition
bits. -/
structure RowOut where
  core : Core
  push : Option (List Word)
  cond : Nat
  deriving Inhabited

/-- GATE on one row (R97, R300). -/
def gateRow (y : Core) (x : ECmd) (q : QEntry) : RowOut :=
  let fn := PvisWords.f x.p 43 40
  let sl := PvisWords.x1 x.p
  let r := (List.range 8).map fun j =>
    let co (hi : Nat) := coefAt y x (sl hi (hi - 10)) x.t j x.tile
    let s1 := stage1 q.int (co 63) (co 52) (nth 0 q.words j)
    let s2 := gateFn fn s1.1
    let v := affine (co 41) (co 30) s2.1
    (v, s1.2 ||| s2.2 ||| overflowed [s2.1, (co 41).getD 0, (co 30).getD 0] v)
  { core := y, push := some (r.map (·.1)), cond := (r.take q.valid).foldl (fun a p => a ||| p.2) 0 }

/-- Set the lanes of a carry row. -/
def Core.setRow (x : Core) (r : Nat) (ws : List Word) : Core :=
  (List.range ws.length).foldl (fun y j => y.setCarry r j (nth 0 ws j)) x

/-- Words that enter lane `j` of a fused row: the popped one and those of its carry rows. -/
def laneIns (y : Core) (x : ECmd) (q : QEntry) (j : Nat) : List Word :=
  let row (r : Nat) : Word := y.carryAt (r + x.t) j
  [nth 0 q.words j, row (PvisWords.x1 x.p 63 59), row (PvisWords.x1 x.p 58 54)]
    ++ (if x.op = 0x32 then [row (PvisWords.x1 x.p 53 49)] else [])

/-- Condition bits of the words of a fused row: NaN, and an infinity from finite words (R110). -/
def fusedCond (y : Core) (x : ECmd) (q : QEntry) (ws : List Word) : Nat :=
  (List.range (min ws.length q.valid)).foldl (fun a j => a ||| nanBit (nth 0 ws j) ||| overflowed (laneIns y x q j) (nth 0 ws j)) 0

/-- GLSTM on one row of tile i, g, f or o (R105). -/
def lstmRow (y : Core) (x : ECmd) (q : QEntry) : RowOut :=
  let i0 := PvisWords.x1 x.p 63 59
  let c0 := PvisWords.x1 x.p 58 54
  let v := (List.range 8).map fun j => (stage1 q.int none (coefAt y x (PvisWords.x1 x.p 52 42) x.t j x.tile) (nth 0 q.words j)).1
  let at_ (f : Nat → Word → Word) : List Word := (List.range 8).map fun j => f j (nth 0 v j)
  let g (n : Nat) (w : Word) : Word := (gateFn n w).1
  let part := x.tile % 4
  if part = 0 then
    let ws := at_ fun _ w => g 1 w
    { core := y.setRow (i0 + x.t) ws, push := none, cond := fusedCond y x q ws }
  else if part = 1 then
    let ws := at_ fun j w => fmul (y.carryAt (i0 + x.t) j) (g 2 w)
    { core := y.setRow (i0 + x.t) ws, push := none, cond := fusedCond y x q ws }
  else if part = 2 then
    let ws := at_ fun j w => ffma (g 1 w) (y.carryAt (c0 + x.t) j) (y.carryAt (i0 + x.t) j)
    { core := y.setRow (c0 + x.t) ws, push := none, cond := fusedCond y x q ws }
  else
    let ws := at_ fun j w => fmul (g 1 w) (g 2 (y.carryAt (c0 + x.t) j))
    { core := y, push := some ws, cond := fusedCond y x q ws }

/-- GGRU on one row of tile r, z, hn or xn (R106). -/
def gruRow (y : Core) (x : ECmd) (q : QEntry) : RowOut :=
  let a0 := PvisWords.x1 x.p 63 59
  let z0 := PvisWords.x1 x.p 58 54
  let h0 := PvisWords.x1 x.p 53 49
  let v := (List.range 8).map fun j => (stage1 q.int none (coefAt y x (PvisWords.x1 x.p 47 37) x.t j x.tile) (nth 0 q.words j)).1
  let at_ (f : Nat → Word → Word) : List Word := (List.range 8).map fun j => f j (nth 0 v j)
  let g (n : Nat) (w : Word) : Word := (gateFn n w).1
  let part := x.tile % 4
  if part = 0 then
    let ws := at_ fun _ w => g 1 w
    { core := y.setRow (a0 + x.t) ws, push := none, cond := fusedCond y x q ws }
  else if part = 1 then
    let ws := at_ fun _ w => g 1 w
    { core := y.setRow (z0 + x.t) ws, push := none, cond := fusedCond y x q ws }
  else if part = 2 then
    let ws := at_ fun j w => fmul (y.carryAt (a0 + x.t) j) w
    { core := y.setRow (a0 + x.t) ws, push := none, cond := fusedCond y x q ws }
  else
    let ws := at_ fun j w =>
      let n := g 2 (fadd w (y.carryAt (a0 + x.t) j))
      ffma (y.carryAt (z0 + x.t) j) (fsub (y.carryAt (h0 + x.t) j) n) n
    { core := y.setRow (h0 + x.t) ws, push := some ws, cond := fusedCond y x q ws }

/-- A rounded sum and its exact error. -/
def twoSum (a b : Word) : Word × Word :=
  let s := fadd a b
  (s, toF32 (((f32 a).add (f32 b)).add (f32 s).neg))

/-- A rounded product and its exact error. -/
def twoProd (a b : Word) : Word × Word :=
  let p := fmul a b
  (p, ffma a b (fneg p))

/-- The last lines of R108: s = p + v, t = (es + ep) + q, hi and the new lo; a NaN makes both words NaN (R109). -/
def twinEnd (p ep q v : Word) : Word × Word :=
  let s := twoSum p v
  let t := fadd (fadd s.2 ep) q
  let h := twoSum s.1 t
  if (f32 h.1).isNan || (f32 h.2).isNan then (qnan, qnan) else h

/-- The real form of R108. -/
def twinStep (c hi lo v : Word) : Word × Word :=
  let p := twoProd c hi
  twinEnd p.1 p.2 (fmul c lo) v

/-- One part of the complex form: two products, with their exact errors (R108). DESIGN CHOICE: the errors are added
product errors first. -/
def twinPart (c1 h1 l1 c2 h2 l2 v : Word) : Word × Word :=
  let p1 := twoProd c1 h1
  let p2 := twoProd c2 h2
  let s := twoSum p1.1 p2.1
  twinEnd s.1 (fadd (fadd p1.2 p2.2) s.2) (fadd (fmul c1 l1) (fmul c2 l2)) v

/-- The complex product's parts: real and imaginary state words after the step. -/
def twinComplex (cr ci hr hi lr li vr vi : Word) : (Word × Word) × (Word × Word) :=
  (twinPart cr hr lr (fneg ci) hi li vr, twinPart cr hi li ci hr lr vi)

/-- GCACC on one row (R108). -/
def gcaccRow (y : Core) (x : ECmd) (q : QEntry) : RowOut :=
  let h0 := PvisWords.x1 x.p 63 59
  let l0 := PvisWords.x1 x.p 58 54
  let slot := PvisWords.x1 x.p 52 42
  let cplx := PvisWords.x1 x.p 41 41 == 1
  let c (j : Nat) : Word := (coefAt y x slot x.t j x.tile).getD 0x3F80_0000
  let hi (j : Nat) : Word := y.carryAt (h0 + x.t) j
  let lo (j : Nat) : Word := y.carryAt (l0 + x.t) j
  let v (j : Nat) : Word := let w := nth 0 q.words j; if q.int then intToF32 (signed 32 w.toNat) else w
  let r := (List.range 8).map fun j =>
    if cplx then
      let e := j / 2 * 2
      let z := twinComplex (c e) (c (e + 1)) (hi e) (hi (e + 1)) (lo e) (lo (e + 1)) (v e) (v (e + 1))
      if j % 2 = 0 then z.1 else z.2
    else twinStep (c j) (hi j) (lo j) (v j)
  { core := (y.setRow (h0 + x.t) (r.map (·.1))).setRow (l0 + x.t) (r.map (·.2))
    push := if PvisWords.x1 x.p 40 40 = 1 then some (r.map (·.1)) else none
    cond := fusedCond y x q (r.map (·.1)) }

/-- The row function of a gate command. -/
def rowFn (op : Nat) : Core → ECmd → QEntry → RowOut :=
  if op = 0x31 then lstmRow else if op = 0x32 then gruRow else if op = 0x33 then gcaccRow else gateRow

/-- Carry rows a gate command reads that hold poison. -/
def Core.rowsPoison (y : Core) (x : ECmd) : Bool := (rowClaims x).any fun r => sget false y.carryPoison (r - 64)

/-- The rows a fused command writes take its poison. -/
def Core.poisonRows (y : Core) (x : ECmd) (po : Bool) : Core :=
  if x.op = 0x30 ∨ !po then y
  else { y with carryPoison := (rowClaims x).foldl (fun b r => sset false b (r - 64) true) y.carryPoison }

/-- Tiles of a gate command: four per hidden tile of the fused ones (R300). -/
def gateTiles (x : ECmd) : Nat :=
  (PvisWords.f x.p 34 24 + 1) * (if x.op = 0x31 ∨ x.op = 0x32 then 4 else 1)

/-- A row of a fused combination that its first tile does not have, or a tile of other length (R107). -/
def rowsWrong (x : ECmd) (tileEnd : Bool) : Bool :=
  (x.op == 0x31 || x.op == 0x32) && x.tile % 4 != 0
    && (decide (x.rows ≤ x.t) || (tileEnd && x.t + 1 != x.rows))

/-- One step of a gate command: one entry of qa_out (R97, R101). -/
def Mod.gateStep (m : Mod) (c : Nat) (x : ECmd) : EStep :=
  match Mod.pop m c 2 x with
  | .wait => .blocked
  | .dead m1 => .dead m1
  | .data m1 q =>
    let tileEnd := q.marker == 1
    if rowsWrong x tileEnd then .dead (Mod.kill m1 c .gateRows .engine 0 x.tile)
    else
      let y := Mod.core m1 c
      let f := PvisWords.f x.p 39 36
      let po := x.poison || q.poison || y.rowsPoison x
      let x0 := { x with poison := po, dry := if Mod.endsDry m c 2 then 2 :: x.dry else x.dry }
      let r := rowFn x.op y x0 q
      let m2 := Mod.modCore m1 c fun _ => (r.core).poisonRows x po
      let (m3, ws) := match r.push with
        | some _ => Mod.srWords m2 c 8 (PvisWords.f x.p 35 35 == 1)
        | none => (m2, [])
      let (x1, cn) := match r.push with
        | some vs => let n := narrowRow f vs ws q.valid; (packRow x0 f n.1 tileEnd, n.2)
        | none => (x0, 0)
      let x2 := { x1 with
        cond := x1.cond ||| (r.cond ||| cn) * 16
        t := if tileEnd then 0 else x1.t + 1
        rows := if tileEnd && x1.tile % 4 == 0 then x1.t + 1 else x1.rows
        tile := if tileEnd then x1.tile + 1 else x1.tile }
      .more (Mod.visor m3 (c / 16) 0x06 1) (if x2.tile = gateTiles x2 then ECmd.finish x2 else x2)

end Sys2Proof.Machine
end

