-- ==== Sys2Proof/Machine/VectorUnit.lean ====
section
/-!
DEFINITION. The vector engine: its arithmetic unit (R88, R90 to R96, R302) and its load/store unit (R89, R303).
-/
namespace Sys2Proof.Machine

open Sys2Proof

/-! ## Lanes -/

/-- Lanes of a command format (R88). -/
def vecLanes (f : Nat) : Nat := if f = 0x1 ∨ f = 0x2 then 16 else 8

/-- Bits of lane `i` of a 32-byte payload. -/
def laneOf (f : Nat) (data i : Nat) : Nat := data / 2 ^ (i * elemBits f) % 2 ^ elemBits f

/-- The format is a float (R88). -/
def vecFloat (f : Nat) : Bool := f != 0xD

/-- A lane with its sign bit changed, for the negate flags of floating-point inputs (R91). -/
def negLane (f v : Nat) : Nat := if vecFloat f then v ^^^ 2 ^ (elemBits f - 1) else v

/-- Round an exact value to the command format (R90): BF16 subnormals are flushed, NaNs are quiet. -/
def vecRound (f : Nat) (v : Fv) : Nat := (narrowTo f false none false v).bits

/-- The integer of an INT32 lane. -/
def i32 (v : Nat) : Int := signed 32 v

/-- a + b (R92). -/
def laneAdd (f a b : Nat) : Nat :=
  if vecFloat f then vecRound f ((decElem f a).add (decElem f b)) else (a + b) % 2 ^ 32

/-- a × b. -/
def laneMul (f a b : Nat) : Nat :=
  if vecFloat f then vecRound f ((decElem f a).mul (decElem f b)) else a * b % 2 ^ 32

/-- a × b + c, one rounding. -/
def laneFma (f a b c : Nat) : Nat :=
  if vecFloat f then vecRound f (((decElem f a).mul (decElem f b)).add (decElem f c)) else (a * b + c) % 2 ^ 32

/-- The value ranks below another for minimum and maximum: −0 is less than +0 (R92). -/
def fvLess (a b : Fv) : Bool := a.cmp b < 0 || (a.cmp b == 0 && a.sign && !b.sign)

/-- Minimum and maximum (IEEE 754-2019, R92). -/
def laneMin (f a b : Nat) (max_ : Bool) : Nat :=
  if vecFloat f then
    let x := decElem f a
    let y := decElem f b
    if x.isNan || y.isNan then vecRound f .nan
    else vecRound f (if fvLess x y != max_ then x else y)
  else if (i32 a < i32 b) != max_ then a else b

/-- The conditions of cmp (R92, R302): 0 eq, 1 ne, 2 lt, 3 le, 4 gt, 5 ge; a NaN makes ne true and the others false. -/
def laneCmp (f cond a b : Nat) : Bool :=
  let nan := vecFloat f && ((decElem f a).isNan || (decElem f b).isNan)
  let o : Int := if vecFloat f then (decElem f a).cmp (decElem f b)
    else if i32 a < i32 b then -1 else if i32 a = i32 b then 0 else 1
  if nan then cond == 1
  else if cond = 0 then o == 0 else if cond = 1 then o != 0 else if cond = 2 then o < 0
  else if cond = 3 then o ≤ 0 else if cond = 4 then 0 < o else 0 ≤ o

/-- Condition bits of a result lane (R110): NaN, and an infinity from operands that are none. -/
def laneCond (f : Nat) (ins : List Nat) (r : Nat) : Nat :=
  if !vecFloat f then 0
  else
    let v := decElem f r
    b2n v.isNan + 2 * b2n (v.isInf && ins.all fun i => !(decElem f i).isInf && !(decElem f i).isNan)

/-! ## Arithmetic commands -/

/-- The fields of an arithmetic command (R302). -/
structure VecShape where
  op : Nat
  fmt : Nat
  ends : List Nat
  neg : Nat
  out : Nat
  out2 : Nat
  mask : Nat
  maskEn : Bool
  zeroing : Bool
  perRow : Bool
  sreg : Nat
  cond : Nat
  mdest : Nat
  cpush : Bool
  /-- elements, or none until tile end -/
  n : Option Nat
  deriving DecidableEq, Repr, Inhabited

/-- Read an arithmetic command's words. -/
def vecShape (x : ECmd) : VecShape :=
  let f := PvisWords.f x.p
  let x1 := PvisWords.x1 x.p
  { op := x.op, fmt := f 43 40, ends := [f 39 36, f 35 32, f 31 28], neg := f 27 25, out := f 24 21, out2 := f 20 17
    mask := f 16 15, maskEn := f 14 14 == 1, zeroing := f 13 13 == 1, perRow := f 12 12 == 1, sreg := f 11 7
    cond := f 6 4, mdest := f 3 2, cpush := f 1 1 == 1
    n := if x1 63 63 = 1 then none else if x1 62 62 = 1 then some (x.reg (x1 61 57)) else some (x1 56 37 + 1) }

/-- Pop one entry from every queue input of a list, when each has one. -/
def Mod.popAll (m : Mod) (c : Nat) (x : ECmd) : List Nat → Popped × List (Nat × QEntry) × ECmd
  | [] => (.data m default, [], x)
  | e :: es =>
    let dry := Mod.endsDry m c e
    match Mod.pop m c e x with
    | .wait => (.wait, [], x)
    | .dead m1 => (.dead m1, [], x)
    | .data m1 q =>
      let x1 := if dry then { x with dry := e :: x.dry } else x
      match Mod.popAll m1 c x1 es with
      | (r, qs, x2) => (r, (e, q) :: qs, x2)

/-- Payload of operand end `e`: the popped entry, the broadcast register in its mode (R95), or a replicated scalar. -/
def operandData (y : Core) (x : ECmd) (a : VecShape) (qs : List (Nat × QEntry)) (e : Nat) : Nat :=
  if e = 12 then
    if a.perRow then
      let el (i : Nat) : Nat := laneOf a.fmt y.bcast.toNat i
      let lane (k : Nat) : Nat := if vecLanes a.fmt = 8 then el (x.t % 8) else el (2 * (x.t % 4) + k / 8)
      (List.range (vecLanes a.fmt)).foldl (fun acc k => acc + lane k * 2 ^ (k * elemBits a.fmt)) 0
    else y.bcast.toNat
  else if e = 13 then
    let v := x.reg a.sreg % 2 ^ elemBits a.fmt
    (List.range (vecLanes a.fmt)).foldl (fun acc k => acc + v * 2 ^ (k * elemBits a.fmt)) 0
  else match qs.find? fun q => q.1 == e with
    | some q => q.2.data.toNat % 2 ^ 256
    | none => 0

/-- The result of an active lane: bits, and the mask bit of cmp. -/
def laneResult (a : VecShape) (maskBit : Bool) (u v w : Nat) : Nat × Bool :=
  if a.op = 0x40 then (laneAdd a.fmt u v, false)
  else if a.op = 0x41 then (laneMul a.fmt u v, false)
  else if a.op = 0x42 then (laneFma a.fmt u v w, false)
  else if a.op = 0x43 then
    let b := laneCmp a.fmt a.cond u v
    (if b then 2 ^ elemBits a.fmt - 1 else 0, b)
  else if a.op = 0x44 then (if !a.maskEn || maskBit then u else v, false)
  else if a.op = 0x45 then (laneMin a.fmt u v false, false)
  else (laneMin a.fmt u v true, false)

/-- Apply an arithmetic command to one entry (R92, R93): payload, mask, condition bits, active lanes. -/
def vecEntry (y : Core) (x : ECmd) (a : VecShape) (qs : List (Nat × QEntry)) (left : Nat) : Nat × Nat × Nat × Nat :=
  let mreg := (sget (0 : BitVec 16) y.masks a.mask).toNat
  let arg (i : Nat) : Nat := operandData y x a qs (nth 14 a.ends i)
  let A := arg 0
  let B := arg 1
  let C := arg 2
  let lane (k : Nat) (d : Nat) (i : Nat) : Nat :=
    let v := laneOf a.fmt d k
    if bitAt a.neg (2 - i) then negLane a.fmt v else v
  let w := elemBits a.fmt
  (List.range (vecLanes a.fmt)).foldl (fun (acc : Nat × Nat × Nat × Nat) k =>
    -- sel uses the mask as its selector, not to switch lanes off
    let active := decide (k < left) && (!a.maskEn || a.op == 0x44 || bitAt mreg k)
    let u := lane k A 0
    let v := lane k B 1
    let t := lane k C 2
    let (r, b) := if active then laneResult a (bitAt mreg k) u v t else (if a.zeroing then 0 else laneOf a.fmt A k, false)
    let cnd := if active && a.op != 0x43 then laneCond a.fmt (if a.op = 0x42 then [u, v, t] else [u, v]) r else 0
    (acc.1 + r * 2 ^ (k * w), acc.2.1 + b2n (active && b) * 2 ^ k, acc.2.2.1 ||| cnd, acc.2.2.2 + b2n active)) (0, 0, 0, 0)

/-- One step of an arithmetic command: one entry of every input (R93, R94, R96). -/
def Mod.vecStep (m : Mod) (c : Nat) (x : ECmd) : EStep :=
  let a := vecShape x
  let used := if a.op = 0x42 then a.ends else a.ends.take 2
  let qEnds := used.filter (· < 12)
  let lanes := vecLanes a.fmt
  if qEnds.any fun e => !x.dry.contains e && (Mod.core m c).level e == 0 then .blocked
  else if a.n.isNone && qEnds.isEmpty then .blocked
  else match Mod.popAll m c x qEnds with
    | (.wait, _, _) => .blocked
    | (.dead m1, _, _) => .dead m1
    | (.data m1 _, qs, x1) =>
      let y := Mod.core m1 c
      let left := match a.n with | some n => n - x.k * lanes | none => lanes
      let r := vecEntry y x1 a qs left
      let tileEnd := match qs with | q :: _ => q.2.marker == 1 | [] => false
      let po := x1.poison || (qs.any fun q => q.2.poison) || (used.contains 12 && y.bcastPoison)
      let ent : QEntry := { data := BitVec.ofNat 512 r.1, side := sideOf po (b2n tileEnd) 0 }
      let pushes := (a.op != 0x43 || a.cpush)
      let outs := if pushes then (realEnds [a.out, a.out2]).map fun e => (e, ent) else []
      let m2 := if a.op = 0x43 then
          Mod.modCore m1 c fun z => { z with masks := sset 0 z.masks a.mdest (BitVec.ofNat 16 r.2.1) }
        else m1
      let m3 := Mod.visor (Mod.visor m2 (c / 16) 0x07 1) (c / 16) 0x08 r.2.2.2
      let x2 := { x1 with k := x1.k + 1, t := if tileEnd then 0 else x1.t + 1, poison := po, out := outs,
                          cond := x1.cond ||| r.2.2.1 * 16 }
      let last : Bool := match a.n with | some n => decide (n ≤ x2.k * lanes) | none => tileEnd
      .more m3 (if last then ECmd.finish x2 else x2)

/-- VBC (R95, R303): one entry into the broadcast register. -/
def Mod.vbcStep (m : Mod) (c : Nat) (x : ECmd) : EStep :=
  let e := PvisWords.f x.p 3 0
  match Mod.pop m c e x with
  | .wait => .blocked
  | .dead m1 => .dead m1
  | .data m1 q =>
    let m2 := Mod.modCore m1 c fun y => { y with bcast := BitVec.ofNat 256 q.data.toNat, bcastPoison := q.poison }
    .more m2 (ECmd.finish { x with poison := q.poison })

/-! ## Loads and stores -/

/-- Elements of a format in a 32-byte line. -/
def lineElems (f : Nat) : Nat := 256 / elemBits f

/-- Convert element bits between formats (R78, R89): the bits are kept where the formats are one. -/
def convElemBits (frm tgt : Nat) (keep : Bool) (sr : Option Nat) (v : Nat) : Narrow :=
  if frm = tgt then ⟨v, false⟩
  else
    let d := decElem frm v
    narrowTo tgt keep sr (bitAt v (elemBits frm - 1)) d

/-- The bits of the elements of a byte string. -/
def elemsOf (f : Nat) (bs : List Byte) : List Nat := (List.range (bs.length * 8 / elemBits f)).map fun i => elemAt f bs i

/-- Payloads of 32 bytes from elements, the last one filled with zeros. -/
def packLines (f : Nat) (xs : List Nat) : List (List Byte) :=
  (chunks (lineElems f) xs.length xs).map fun c =>
    let bs := packElems f c
    bs ++ List.replicate (32 - bs.length) 0

/-- Lines of a load or store (R303): base, count and stride. -/
def lsLines (x : ECmd) : List Nat :=
  let b := val16 x.regs (PvisWords.x1 x.p 63 48)
  let n := extent16 x.regs (PvisWords.x1 x.p 47 32)
  let s := val16 x.regs (PvisWords.x1 x.p 31 16)
  (List.range n).map fun i => b + i * s

/-- VLD (R89, R303). -/
def Mod.vldStep (m : Mod) (c : Nat) (x : ECmd) : EStep :=
  let f := PvisWords.f x.p
  let lines := lsLines x
  let zero := f 24 24 == 1
  let sf := f 32 29
  let cf := f 28 25
  if !zero && lines.any fun l => !Mod.linesOk m c l 1 false then .dead (Mod.regionKill m c (nth 0 lines 0))
  else
    let line (l : Nat) : List Byte := if zero then List.replicate 32 0 else Mod.spadRead m c (l * 32) 32
    let po := x.poison || (!zero && lines.any fun l => Mod.spadPoisoned m c (l * 32) 32)
    let conv (frm tgt : Nat) (bs : List Byte) : List Nat := (elemsOf frm bs).map fun v => (convElemBits frm tgt false none v).bits
    let m1 := Mod.visor m (c / 16) 0x0A (if zero then 0 else lines.length)
    let m1 := Mod.visor m1 (c / 16) 0x19 (b2n po)
    if f 43 42 = 0 then
      let es := packLines cf (lines.flatMap fun l => conv sf cf (line l))
      .more m1 (ECmd.finish { x with poison := po, out := es.map fun b => (f 41 38, dataEntry b po false) })
    else if f 43 42 = 1 then
      let last := line (nth 0 lines (lines.length - 1))
      let b := nth [] (packLines cf (conv sf cf last)) 0
      .more (Mod.modCore m1 c fun y => { y with bcast := BitVec.ofNat 256 (leNat b), bcastPoison := po })
        (ECmd.finish { x with poison := po })
    else
      let row (i : Nat) : List Word := ((conv sf 0x0 (line (nth 0 lines i))).take 8).map (BitVec.ofNat 32 ·)
      let put (y : Core) (i : Nat) : Core :=
        let r := f 37 33 + i
        { Core.setRow y r (row i) with carryPoison := sset false y.carryPoison r po }
      .more (Mod.modCore m1 c fun y => (List.range lines.length).foldl put y) (ECmd.finish { x with poison := po })

/-- Store element bits to a line (R89): conversion with its rounding words, and whether it saturated. -/
def Mod.storeLine (m : Mod) (c : Nat) (x : ECmd) (line frm : Nat) (vs : List Nat) (po : Bool) : Mod × Nat :=
  let f := PvisWords.f x.p
  let tgt := f 32 29
  let r := Mod.srWords m c vs.length (f 23 23 == 1 && srFormat tgt)
  let ns := (List.range vs.length).map fun i => convElemBits frm tgt (f 22 22 == 1) (srWord r.2 i) (nth 0 vs i)
  let bs := packElems tgt (ns.map (·.bits))
  let nan := vs.any fun v => (decElem frm v).isNan
  (Mod.visor (Mod.spadWrite r.1 c (line * 32) bs po) (c / 16) 0x0A 1, (b2n nan + 4 * b2n (ns.any (·.sat))) * 16)

/-- One step of a VST (R89, R303): one line. -/
def Mod.vstStep (m : Mod) (c : Nat) (x : ECmd) : EStep :=
  let f := PvisWords.f x.p
  let lines := lsLines x
  let line := nth 0 lines x.k
  let sf := f 32 29
  let cf := f 28 25
  let done (m2 : Mod) (x2 : ECmd) : EStep :=
    let x3 := { x2 with k := x2.k + 1 }
    .more m2 (if lines.length ≤ x3.k then ECmd.finish x3 else x3)
  if !Mod.linesOk m c line 1 true then .dead (Mod.regionKill m c line)
  else if f 43 42 = 2 then
    let y := Mod.core m c
    let r := f 37 33 + x.k
    let po := sget false y.carryPoison r
    let s := Mod.storeLine m c x line 0x0 ((List.range 8).map fun j => (y.carryAt r j).toNat) po
    done s.1 { x with poison := x.poison || po, cond := x.cond ||| s.2 }
  else
    -- the buffer holds entries whose elements are not yet stored; `t` counts the elements of its head already stored
    let have_ := (x.buf.flatMap fun q => elemsOf cf q.bytes).drop x.t
    if have_.length < lineElems sf then
      match Mod.pop m c 6 x with
      | .wait => .blocked
      | .dead m1 => .dead m1
      | .data m1 q => .more m1 { x with buf := x.buf ++ [q], poison := x.poison || q.poison,
                                        dry := if Mod.endsDry m c 6 then 6 :: x.dry else x.dry }
    else
      let s := Mod.storeLine m c x line cf (have_.take (lineElems sf)) x.poison
      let used := x.t + lineElems sf
      let per := lineElems cf
      done s.1 { x with buf := x.buf.drop (used / per), t := used % per, cond := x.cond ||| s.2 }

/-- One step of a command of the vector engine's units. -/
def Mod.vectorStep (m : Mod) (c : Nat) (x : ECmd) : EStep :=
  if 0x40 ≤ x.op ∧ x.op ≤ 0x46 then Mod.vecStep m c x
  else if x.op = 0x48 then Mod.vldStep m c x
  else if x.op = 0x49 then Mod.vstStep m c x
  else if x.op = 0x4A then Mod.vbcStep m c x
  else .blocked

end Sys2Proof.Machine
end

