-- ==== Sys2Proof/Machine/DmaUnit.lean ====
section
/-!
DEFINITION. The DMA engine: rows of an object, a scratchpad or a queue, conversion and layout on the way (R55, R64, R79,
R85, R87, R114, R131, R132, R307), line-buffer fills (R117), remote lines and queues (R15, R388), and parking (R229).

DESIGN CHOICE throughout where R307 gives fields and no byte order: a plain row begins on a line of the scratchpad, the
scale bytes of MX rows follow their elements in memory and stand behind the data lines in a scratchpad.
-/
namespace Sys2Proof.Machine

open Sys2Proof

/-! ## Rows -/

/-- A row in one format: element bits, and the E8M0 scale bytes of its groups of 32 for an MX format. -/
structure XRow where
  bits : List Nat
  scales : List Nat := []
  deriving DecidableEq, Repr, Inhabited

/-- Bytes of a row of `n` elements in memory: the elements, then the scales of an MX format. -/
def memRowBytes (f n : Nat) : Nat := ceilDiv (n * elemBits f) 8 + (if isMx f then ceilDiv n 32 else 0)

/-- A row from its bytes in memory. -/
def rowOfBytes (f n : Nat) (bs : List Byte) : XRow :=
  { bits := (List.range n).map fun i => elemAt f bs i
    scales := if isMx f then ((bs.drop (ceilDiv (n * elemBits f) 8)).take (ceilDiv n 32)).map BitVec.toNat else [] }

/-- The bytes of a row in memory. -/
def rowBytes (f : Nat) (r : XRow) : List Byte :=
  packElems f r.bits ++ (if isMx f then r.scales.map (BitVec.ofNat 8 ·) else [])

/-- Element `i` of a row as a value. -/
def XRow.value (r : XRow) (f i : Nat) : Fv := scaled f (nth 0 r.bits i) (nth 0x7F r.scales (i / 32))

/-- The element bits of two formats are one: equal, or packed and byte forms of MXFP6 (R71). -/
def sameElems (a b : Nat) : Bool :=
  a == b || (a == 0xE && b == 0x7) || (a == 0x7 && b == 0xE) || (a == 0xF && b == 0x8) || (a == 0x8 && b == 0xF)

/-- One group's scale byte and elements (R79); an MX format that R79 does not name is left free. -/
def mxAny (f : Nat) (vs : List Word) : Nat × List Narrow :=
  if f = 0x5 ∨ f = 0x6 ∨ f = 0x9 then mxGroup f vs
  else (Config.narrowOpen (f + 16) (nth 0 vs 0) % 256, vs.map fun v => (⟨Config.narrowOpen f v % 2 ^ elemBits f, false⟩ : Narrow))

/-- Convert a row (R78, R79, R80): the row, and whether a narrowing saturated. -/
def convRow (frm tgt : Nat) (keep : Bool) (rnd : List Nat) (r : XRow) : XRow × Bool :=
  if sameElems frm tgt then (r, false)
  else if isMx tgt then
    let ws := (List.range r.bits.length).map fun i => toF32 (r.value frm i)
    let gs := (chunks 32 ws.length ws).map (mxAny tgt)
    ({ bits := gs.flatMap fun g => g.2.map (·.bits), scales := gs.map (·.1) }, gs.any fun g => g.2.any (·.sat))
  else
    let ns := (List.range r.bits.length).map fun i =>
      narrowTo tgt keep (srWord rnd i) (bitAt (nth 0 r.bits i) (elemBits frm - 1)) (r.value frm i)
    ({ bits := ns.map (·.bits) }, ns.any (·.sat))

/-! ## Layouts of a scratchpad -/

/-- Bytes filled with zeros to a whole line. -/
def padLine (bs : List Byte) : List Byte := bs ++ List.replicate (roundUp bs.length 32 - bs.length) 0

/-- Plain lines: each row from a fresh line, then the scales of all rows. -/
def plainLines (f : Nat) (rows : List XRow) : List Byte :=
  (rows.flatMap fun r => padLine (packElems f r.bits))
    ++ padLine (rows.flatMap fun r => r.scales.map (BitVec.ofNat 8 ·))

/-- Line-buffer lines: the lines of each row, then its scale lines (R114, R115). -/
def blockLines (f : Nat) (rows : List XRow) : List Byte :=
  rows.flatMap fun r => padLine (packElems f r.bits) ++ padLine (r.scales.map (BitVec.ofNat 8 ·))

/-- Channels of a block (R114). -/
def blockB (f : Nat) : Nat := if elemBits f = 16 then 16 else 32

/-- Rows of channels, one a pixel, as rows of blocks: block b holds the pixels' channels b·B to b·B + B − 1, the pad
channels zero (R114). -/
def blockRows (f n : Nat) (rows : List XRow) : List XRow :=
  let B := blockB f
  (List.range (ceilDiv n B)).map fun b =>
    { bits := rows.flatMap fun r => let t := (r.bits.drop (b * B)).take B; t ++ List.replicate (B - t.length) 0
      scales := if isMx f then rows.map fun r => nth 0x7F r.scales b else [] }

/-- The elements of one position of a diagonal (R55): depth elements of moving row t, zero beyond the extents. -/
def skewByte (f n : Nat) (rows : List XRow) (b : Nat) : Byte :=
  let w := diagBytes53 f
  let tau := b / w
  let i := b % w / (w / 8)
  let at_ (t k : Nat) : Nat := if k < n then nth 0 (nth default rows t).bits k else 0
  if tau < i then 0
  else
    let s := (tau - i) / 8
    let t := (tau - i) % 8
    if ceilDiv n (tileDepth f) ≤ s || rows.length ≤ t then 0
    else if elemBits f = 4 then BitVec.ofNat 8 (at_ t (16 * s + 2 * i) + 16 * at_ t (16 * s + 2 * i + 1))
    else if elemBits f = 16 then BitVec.ofNat 8 (at_ t (8 * s + i) / 256 ^ (b % 2))
    else BitVec.ofNat 8 (at_ t (8 * s + i))

/-- Line `k` of a skewed operand. -/
def skewLine (f n : Nat) (rows : List XRow) (k : Nat) : List Byte :=
  (List.range 32).map fun i => if k * 32 + i < skewBytes f n then skewByte f n rows (k * 32 + i) else 0

/-- Scale lines of a skewed operand: block by block, a byte for each of 8 rows. -/
def skewScales (f n : Nat) (rows : List XRow) : List Byte :=
  if !isMx f then []
  else padLine ((List.range (ceilDiv n 32)).flatMap fun b => (List.range 8).map fun t =>
    BitVec.ofNat 8 (nth 0x7F (nth default rows t).scales b))

/-- Glove transpose (R64, R307): row r becomes column r mod 8 of column group r / 8, its elements run along depth. -/
def gloveLines (f n : Nat) (rows : List XRow) : List Byte :=
  let d := tileDepth f
  (List.range (ceilDiv rows.length 8)).flatMap fun g => (List.range (ceilDiv n d)).flatMap fun s =>
    packElems f ((List.range 8).flatMap fun j => (List.range d).map fun i =>
      let k := s * d + i
      if k < n then nth 0 (nth default rows (g * 8 + j)).bits k else 0)

/-- A scratchpad write: the lines, and whether they are skewed lines with tags. -/
def layoutBytes (layout f n : Nat) (rows : List XRow) : List Byte :=
  if layout = 2 then blockLines f (blockRows f n rows)
  else if layout = 4 then padLine (gloveLines f n rows)
  else plainLines f rows

/-- Write skewed lines with their tags from line `k` on. -/
def Mod.writeSkew (m : Mod) (c line f n : Nat) (rows : List XRow) (po : Bool) : Mod :=
  let k := skewLines f n
  let m1 := (List.range k).foldl (fun x i => Mod.spadWriteSkew x c (line + i) i (skewLine f n rows i) po) m
  let sc := skewScales f n rows
  if sc.isEmpty then m1 else Mod.spadWrite m1 c ((line + k) * 32) sc po

/-- Lines a write of rows takes. -/
def layoutLineCount (layout f n : Nat) (rows : List XRow) : Nat :=
  if layout = 1 then skewLines f n + (skewScales f n rows).length / 32
  else ceilDiv (layoutBytes layout f n rows).length 32

/-- Write rows into a core's scratchpad in a layout. -/
def Mod.writeRows (m : Mod) (c line layout f n : Nat) (rows : List XRow) (po : Bool) : Mod :=
  if layout = 1 then Mod.writeSkew m c line f n rows po
  else Mod.spadWrite m c (line * 32) (layoutBytes layout f n rows) po

/-! ## Reading rows from a scratchpad -/

/-- Element (t, k) of `rows` rows of `n` elements laid in a scratchpad. -/
def spadElem (rd : Nat → Byte) (layout f rows n t k : Nat) : Nat :=
  if layout = 1 then movElem rd true 0 f 0 t k
  else if layout = 2 then
    let B := blockB f
    let per := rows * 32 + (if isMx f then roundUp rows 32 else 0)
    let off := k / B * per + t * 32
    if elemBits f = 4 then elemBytes rd f (off + k % B / 2) (k % 2 == 1) else elemBytes rd f (off + k % B * (elemBits f / 8)) false
  else if layout = 4 then
    statElem (fun i => rd (t / 8 * statBytes false f n + i)) false 0 f k (t % 8)
  else if elemBits f = 32 then leNat ((List.range 4).map fun i => rd (t * rowLinesBytes f n + 4 * k + i))
  else movElem rd false 0 f (rowLinesBytes f n) t k

/-- Scale byte of group `g` of row `t`. -/
def spadScale (rd : Nat → Byte) (layout f rows n t g : Nat) : Nat :=
  let nb := ceilDiv n 32
  if layout = 1 then (rd (skewLines f n * 32 + g * 8 + t)).toNat
  else if layout = 2 then (rd (g * (rows * 32 + roundUp rows 32) + rows * 32 + t)).toNat
  else (rd (rows * rowLinesBytes f n + t * nb + g)).toNat

/-- Bytes that rows take in a scratchpad, for the checks of R22. -/
def spadRowBytes (layout f rows n : Nat) : Nat :=
  let nb := ceilDiv n 32
  if layout = 1 then skewLines f n * 32 + (if isMx f then nb * 8 else 0)
  else if layout = 2 then ceilDiv n (blockB f) * (rows * 32 + (if isMx f then roundUp rows 32 else 0))
  else if layout = 4 then ceilDiv rows 8 * statBytes false f n
  else rows * rowLinesBytes f n + (if isMx f then rows * nb else 0)

/-- Row `t` of rows laid in a scratchpad. -/
def spadRow (rd : Nat → Byte) (layout f rows n t : Nat) : XRow :=
  { bits := (List.range n).map fun k => spadElem rd layout f rows n t k
    scales := if isMx f then (List.range (ceilDiv n 32)).map fun g => spadScale rd layout f rows n t g else [] }

/-! ## The commands' fields -/

/-- The fields that DMARD and DMAWR share (R307). -/
structure DmaShape where
  src : Nat
  dst : Nat
  endp : Nat
  layout : Nat
  fac : Nat
  mf : Nat
  cf : Nat
  lb : Nat
  sr : Bool
  keep : Bool
  obj : Nat
  off : Nat
  stride : Nat
  packed : Bool
  base : Nat
  rows : Nat
  n : Nat
  deriving DecidableEq, Repr, Inhabited

/-- Read a DMA command's words. -/
def dmaShape (x : ECmd) : DmaShape :=
  let f := PvisWords.f x.p
  let x1 := PvisWords.x1 x.p
  let x2 := PvisWords.x2 x.p
  { src := f 43 42, dst := f 41 40, endp := f 39 36, layout := f 35 33, fac := 2 ^ f 32 31, mf := f 30 27, cf := f 26 23
    lb := f 22 21, sr := f 22 22 == 1, keep := f 21 21 == 1, obj := x1 63 48, off := x.reg (x1 47 43)
    stride := x.reg (x1 42 38), packed := x1 42 38 == 0 && x.reg 0 == 0, base := val16 x.regs (x1 31 16)
    rows := extent16 x.regs (x2 63 48), n := extent16 x.regs (x2 47 32) }

/-- Address of row `r` of the command's object. -/
def Mod.rowVa (m : Mod) (k : Nat) (a : DmaShape) (r : Nat) : Nat :=
  (Mod.objVa m k a.obj) + a.off + r * (if a.packed then memRowBytes a.mf a.n else a.stride)

/-- First byte of a scratchpad source of a DMARD: the object's lines, or the base line for a queue. -/
def Mod.spadSrc (m : Mod) (k : Nat) (a : DmaShape) : Nat :=
  (if a.dst = 2 then a.base else (Mod.objLine m k a.obj).getD 0) * 32 + a.off

/-- Granules of 64 bytes that a range touches. -/
def granulesOf (va n : Nat) : Nat := if n = 0 then 0 else (va + n - 1) / 64 + 1 - va / 64

/-- Count the granules a DMA engine moved, and those of GDDR (R469, R470). -/
def Mod.countDma (m : Mod) (c k va n : Nat) (write : Bool) : Mod :=
  let g := granulesOf va n
  let part := b2n (write && (va % 64 != 0 || (va + n) % 64 != 0))
  let m1 := Mod.visor m (c / 16) (if write then 0x0D else 0x0C) g
  let m2 := Mod.visor m1 (c / 16) 0x0E part
  match Mod.translate m (clusterTlb c) k va write with
  | .inr p =>
    if p.host then m2
    else
      let d := siteOf p.addr / 4
      Mod.visorBrim (Mod.visorBrim m2 d k (if write then 0x41 else 0x40) g) d k 0x42 part
  | .inl _ => m2

/-- Park the DMA engine of a core on the fault of an access (R229). -/
def Mod.parkDma (m : Mod) (c : Nat) (f : AccFault) (progress : Nat) : Mod :=
  let x := Mod.core m c
  let k := Mod.ctxOf m c
  let r := Mod.raiseAcc m f .coreDma k c (Mod.tagOf m x.job) progress true (some (.dma c x.job))
  Mod.visor (Mod.modCore r.1 c fun y => { y with parked := sset 0 y.parked 5 (r.2 + 1) }) (c / 16) 0x17 1

/-- Read `n` bytes of an object for a core (R85: no byte beyond the extent is used). -/
def Mod.dmaRead (m : Mod) (c va n : Nat) : AccFault ⊕ (List Byte × Bool) :=
  Mod.vaRead m (clusterTlb c) (Mod.ctxOf m c) va n

/-- The source row `dy` of a regrouped fill: its pixels as channels, zero beyond the object (R131). -/
def Mod.regroupRow (m : Mod) (c k : Nat) (a : DmaShape) (r dy : Nat) : AccFault ⊕ (List XRow × Bool) :=
  let e := memRowBytes a.mf a.n
  let px := if a.packed then e else a.stride
  let start := a.off + ((r * a.fac + dy) * a.rows) * px
  let len := a.rows * px
  let size := match Mod.objDecl m k a.obj with | some (o : ObjDecl) => o.bytes | none => 0
  if size ≤ start then .inr (List.replicate a.rows { bits := List.replicate a.n 0 }, false)
  else match Mod.dmaRead m c ((Mod.objVa m k a.obj) + start) (min len (size - start)) with
    | .inl f => .inl f
    | .inr (bs, po) => .inr ((List.range a.rows).map fun i => rowOfBytes a.mf a.n ((bs.drop (i * px)).take e), po)

/-- The rows of a fill that applies space-to-channel (R131): row r of the regrouped map, a row a pixel. -/
def Mod.regroup (m : Mod) (c k : Nat) (a : DmaShape) (r : Nat) : AccFault ⊕ (List XRow × Bool) :=
  let rec go : Nat → AccFault ⊕ (List (List XRow) × Bool)
    | 0 => .inr ([], false)
    | i + 1 =>
      match go i with
      | .inl f => .inl f
      | .inr (rs, po) =>
        match Mod.regroupRow m c k a r i with
        | .inl f => .inl f
        | .inr (row, p) => .inr (rs ++ [row], po || p)
  match go a.fac with
  | .inl f => .inl f
  | .inr (rs, po) =>
    let px (X : Nat) : XRow := { bits := rs.flatMap fun row => (List.range a.fac).flatMap fun dx =>
      let q : XRow := nth { bits := List.replicate a.n 0 } row (X * a.fac + dx)
      (convRow a.mf a.cf false [] q).1.bits }
    .inr ((List.range (ceilDiv a.rows a.fac)).map px, po)

/-! ## DMARD -/

/-- Read source row `r` of a DMARD. -/
def Mod.dmaRow (m : Mod) (c k : Nat) (a : DmaShape) (r : Nat) : AccFault ⊕ (XRow × Bool) :=
  if a.src = 0 then
    match Mod.dmaRead m c (Mod.rowVa m k a r) (memRowBytes a.mf a.n) with
    | .inl f => .inl f
    | .inr (bs, po) => .inr (rowOfBytes a.mf a.n bs, po)
  else
    let b := Mod.spadSrc m k a
    .inr (spadRow (fun i => Mod.spadByte m c (b + i)) 0 a.mf a.rows a.n r,
      Mod.spadPoisoned m c (b + r * rowLinesBytes a.mf a.n) (rowLinesBytes a.mf a.n))

/-- All rows of a DMARD, in order; the fault names how many were read. -/
def Mod.dmaRows (m : Mod) (c k : Nat) (a : DmaShape) : Nat → Nat → (AccFault × Nat) ⊕ (List XRow × Bool)
  | 0, _ => .inr ([], false)
  | n + 1, r =>
    match Mod.dmaRow m c k a r with
    | .inl f => .inl (f, r)
    | .inr (row, po) =>
      match Mod.dmaRows m c k a n (r + 1) with
      | .inl f => .inl f
      | .inr (rows, p) => .inr (row :: rows, po || p)

/-- Queue entries of a row in the core format. -/
def rowEntries (f : Nat) (r : XRow) (po : Bool) : List QEntry := (packLines f r.bits).map fun b => dataEntry b po false

/-- Lines of one slot of a line buffer (R116). -/
def LineBuf.slotLines (b : LineBuf) : Nat := b.blocks * (b.pixels + (if b.scale then ceilDiv b.pixels 32 else 0))

/-- First line of the slot that holds input row `r`. -/
def LineBuf.slotLine (b : LineBuf) (r : Nat) : Nat := b.baseLine + r % max 1 b.slots * b.slotLines

/-- Fill a line-buffer slot with the lines of input row `r` (R117). -/
def Mod.fillSlot (m : Mod) (c lb r : Nat) (bs : List Byte) (po : Bool) : Mod :=
  let b : LineBuf := sget {} (Mod.core m c).lineBufs lb
  let m1 := Mod.spadWrite m c (b.slotLine r * 32) (bs.take (b.slotLines * 32)) po
  Mod.modCore m1 c fun x => { x with rowTags := sset 0 x.rowTags (lb * 64 + r % max 1 b.slots) ((r : Int) + 1) }

/-- A DMARD: all its rows, then its destination (R307). -/
def Mod.dmardStep (m : Mod) (c : Nat) (x : ECmd) : EStep :=
  let a := dmaShape x
  let k := Mod.ctxOf m c
  let rows := if a.layout = 3 then
      (match Mod.regroup m c k a (if a.dst = 1 then a.base else 0) with
        | .inl f => .inl (f, 0)
        | .inr r => .inr r)
    else Mod.dmaRows m c k a a.rows 0
  if a.src = 1 && !Mod.linesOk m c (Mod.spadSrc m k a / 32)
      (ceilDiv (Mod.spadSrc m k a % 32 + a.rows * rowLinesBytes a.mf a.n) 32) false then
    .dead (Mod.regionKill m c (Mod.spadSrc m k a / 32))
  else match rows with
  | .inl (f, r) => .waits (Mod.parkDma m c f (r * memRowBytes a.mf a.n))
  | .inr (rs, po) =>
    let regr := a.layout == 3
    let conv := if regr then rs.map fun r => (r, false) else rs.map (convRow a.mf a.cf false [])
    let xs := conv.map (·.1)
    let n := if regr then a.n * a.fac * a.fac else a.n
    let cond := 64 * b2n (conv.any (·.2))
    let x1 := { x with poison := x.poison || po, cond := x.cond ||| cond }
    let m0 := if a.src = 0 then Mod.countDma m c k (Mod.rowVa m k a 0) (a.rows * memRowBytes a.mf a.n) false else m
    if a.dst = 2 then .more m0 (ECmd.finish { x1 with out := xs.flatMap fun r => (rowEntries a.cf r x1.poison).map fun q => (a.endp, q) })
    else if a.dst = 1 then
      let b : LineBuf := sget {} (Mod.core m c).lineBufs a.lb
      let bs := if a.layout = 2 || regr then blockLines a.cf (blockRows a.cf n xs) else blockLines a.cf xs
      if !b.valid || !Mod.linesOk m c (b.slotLine a.base) b.slotLines true then .dead (Mod.regionKill m c (b.slotLine a.base))
      else .more (Mod.fillSlot m0 c a.lb a.base bs x1.poison) (ECmd.finish x1)
    else
      let lay := if regr then 2 else a.layout
      let cnt := layoutLineCount lay a.cf n xs
      if !Mod.linesOk m c a.base cnt true then .dead (Mod.regionKill m c a.base)
      else
        let m1 := Mod.visor (Mod.writeRows m0 c a.base lay a.cf n xs x1.poison) (c / 16) 0x0A cnt
        .more m1 (ECmd.finish x1)

/-! ## DMAWR -/

/-- Entries of a queue that make one row of a DMAWR. -/
def rowEntryCount (a : DmaShape) : Nat := ceilDiv a.n (lineElems a.cf)

/-- Row `r` of a DMAWR's source in the core format: from the scratchpad, or from popped entries. -/
def Mod.wrRow (m : Mod) (c : Nat) (a : DmaShape) (r : Nat) (buf : List QEntry) : XRow × Bool :=
  if a.src = 1 then
    ({ bits := (buf.flatMap fun q => elemsOf a.cf q.bytes).take a.n }, buf.any (·.poison))
  else
    let lay := if a.dst = 0 && a.layout != 3 then a.layout else 0
    let b := if a.dst = 1 then a.off else a.base * 32
    (spadRow (fun i => Mod.spadByte m c (b + i)) lay a.cf a.rows a.n r,
      Mod.spadPoisoned m c b (spadRowBytes lay a.cf a.rows a.n))

/-- The consumer core of a channel whose consumer is on this module and runs the context now (R15, R388). -/
def Mod.remoteCore (m : Mod) (c ch : Nat) : Option Nat :=
  let k := Mod.ctxOf m c
  match Mod.chanDecl m k ch with
  | some (d : ChanDecl) =>
    if d.remote.isSome then none
    else match Mod.chanCore m k (c / 16) d with
      | some t => if (Mod.core m t).ctx == some k then some t else none
      | none => none
  | none => none

/-- The coordinates of a channel's consumer module, for one on another module. -/
def Mod.remoteModule (m : Mod) (c ch : Nat) : Option Xyz :=
  match Mod.chanDecl m (Mod.ctxOf m c) ch with | some (d : ChanDecl) => d.remote | none => none

/-- The object is a weight object (R436): in model space, with initial contents in the image's weights section. -/
def Mod.weightObject (m : Mod) (k n : Nat) : Bool :=
  match Mod.objDecl m k n, m.model with
  | some (o : ObjDecl), some md => o.space == 0 && md.image.objectBytes.any fun (x : Nat × Nat × List Byte) => x.1 == n
  | _, _ => false

/-- Write a row's bytes to the command's object; none when it faulted and the engine parked. -/
def Mod.wrObject (m : Mod) (c : Nat) (a : DmaShape) (r : Nat) (bs : List Byte) (po : Bool) : Mod × Bool :=
  let k := Mod.ctxOf m c
  let va := Mod.rowVa m k a r
  match Mod.vaWrite m (clusterTlb c) k va bs po with
  | (m1, some (f, d)) => (Mod.parkDma m1 c f (r * memRowBytes a.mf a.n + d), false)
  | (m1, none) => (Mod.markWeights (Mod.countDma m1 c k va bs.length true) (Mod.weightObject m k a.obj), true)

/-- The pixel writes of a channel-to-space store of regrouped row `r` (R132): address and bytes. -/
def Mod.spaceWrites (m : Mod) (k : Nat) (a : DmaShape) (r : Nat) (px : Nat → XRow) : List (Nat × List Byte) :=
  let e := memRowBytes a.mf a.n
  let step := if a.packed then e else a.stride
  let base := (Mod.objVa m k a.obj) + a.off
  let size := match Mod.objDecl m k a.obj with | some (o : ObjDecl) => o.bytes | none => 0
  (List.range a.fac).flatMap fun dy => (List.range a.rows).filterMap fun X =>
    let y := r * a.fac + dy
    let off := (y * a.rows + X) * step
    let q := px (X / a.fac)
    let ch := (dy * a.fac + X % a.fac) * a.n
    let row : XRow := { bits := (q.bits.drop ch).take a.n }
    if size < a.off + off + e then none else some (base + off, rowBytes a.mf (convRow a.cf a.mf a.keep [] row).1)

/-- Make writes in order; the first that faults. -/
def Mod.dmaWrites (m : Mod) (c : Nat) (po : Bool) : List (Nat × List Byte) → Mod × Option AccFault
  | [] => (m, none)
  | (va, bs) :: ws =>
    match Mod.vaWrite m (clusterTlb c) (Mod.ctxOf m c) va bs po with
    | (m1, some (f, _)) => (m1, some f)
    | (m1, none) => Mod.dmaWrites (Mod.countDma m1 c (Mod.ctxOf m c) va bs.length true) c po ws

/-- Pops a row of entries needs: more are to come. -/
def needsEntries (a : DmaShape) (n : Nat) (x : ECmd) : Bool := a.src == 1 && decide (x.buf.length < n)

/-- Pop one entry into a command's buffer. -/
def Mod.fillBuf (m : Mod) (c e : Nat) (x : ECmd) : EStep :=
  match Mod.pop m c e x with
  | .wait => .blocked
  | .dead m1 => .dead m1
  | .data m1 q => .more m1 { x with buf := x.buf ++ [q], poison := x.poison || q.poison,
                                    dry := if Mod.endsDry m c e then e :: x.dry else x.dry }

/-- A write of lines of another module's core. DESIGN CHOICE: R411 gives lines no address form; the address has bit 47 set
beside a context number, the first line in [31:16] and the channel, which names the consumer's core, in [15:0]. -/
def Mod.linesPacket (m : Mod) (c ch line : Nat) (xyz : Xyz) (po : Bool) (bs : List Byte) : Packet :=
  let k := Mod.ctxOf m c
  { ptype := 0x01, dest := xyz, src := Mod.here m, context := k, poison := po, lc := Mod.ctxLc m k
    address := 2 ^ 47 + line * 65536 + ch, data := bs }

/-- A DMAWR to remote lines: rows are gathered, then written into the consumer's working region (R15, R307). -/
def Mod.wrLines (m : Mod) (c : Nat) (x : ECmd) (a : DmaShape) : EStep :=
  let per := rowEntryCount a
  if needsEntries a (per * a.rows) x then Mod.fillBuf m c a.endp x
  else
    let src (r : Nat) : XRow × Bool := Mod.wrRow m c a r ((x.buf.drop (r * per)).take per)
    let rows := (List.range a.rows).map fun r => (src r).1
    let po := x.poison || (List.range a.rows).any fun r => (src r).2
    let lay := if a.layout = 3 then 0 else a.layout
    match Mod.remoteCore m c a.obj, Mod.remoteModule m c a.obj with
    | some t, _ =>
      let cnt := layoutLineCount lay a.cf a.n rows
      if !Mod.linesOk m t a.base cnt true then .dead (Mod.regionKill m c a.base)
      else .more (Mod.visor (Mod.writeRows m t a.base lay a.cf a.n rows po) (c / 16) 0x21 (ceilDiv cnt 2))
        (ECmd.finish { x with poison := po, buf := [] })
    | none, some xyz =>
      let bs := layoutBytes lay a.cf a.n rows
      let send (y : Mod) (i : Nat) : Mod := (Mod.sendRequest y (Mod.linesPacket y c a.obj (a.base + 128 * i) xyz po
        ((bs.drop (4096 * i)).take 4096)) (Mod.core m c).job (Mod.ctxOf m c) 0).1
      .more ((List.range (ceilDiv bs.length 4096)).foldl send m) (ECmd.finish { x with poison := po, buf := [] })
    | none, none => .blocked

/-- A DMAWR to an object: row by row, each written when it is whole (R78, R79, R87, R132). -/
def Mod.wrObjStep (m : Mod) (c : Nat) (x : ECmd) (a : DmaShape) : EStep :=
  let k := Mod.ctxOf m c
  if a.layout = 3 then
    -- one regrouped row: pixels of f·f·n channels
    let n := a.n * a.fac * a.fac
    let cnt := ceilDiv a.rows a.fac
    let per := ceilDiv n (lineElems a.cf)
    if needsEntries a (per * cnt) x then Mod.fillBuf m c a.endp x
    else
      let px (X : Nat) : XRow :=
        if a.src = 1 then { bits := (((x.buf.drop (X * per)).take per).flatMap fun q => elemsOf a.cf q.bytes).take n }
        else spadRow (fun i => Mod.spadByte m c (a.base * 32 + i)) 2 a.cf cnt n X
      let po := x.poison || (a.src = 0 && Mod.spadPoisoned m c (a.base * 32) (spadRowBytes 2 a.cf cnt n))
      match Mod.dmaWrites (Mod.markWeights m (Mod.weightObject m k a.obj)) c po (Mod.spaceWrites m k a 0 px) with
      | (m1, some f) => .waits (Mod.parkDma m1 c f 0)
      | (m1, none) => .more m1 (ECmd.finish { x with poison := po, buf := [] })
  else if needsEntries a (rowEntryCount a) x then Mod.fillBuf m c a.endp x
  else
    let r := Mod.wrRow m c a x.k x.buf
    let po := x.poison || r.2
    let d := Mod.srWords m c a.n (a.sr && srFormat a.mf)
    let v := convRow a.cf a.mf a.keep d.2 r.1
    match Mod.wrObject d.1 c a x.k (rowBytes a.mf v.1) po with
    | (m1, false) => .waits (Mod.modCtx m1 k fun z => { z with drawn := match Mod.ctx m k with | some o => o.drawn | none => z.drawn })
    | (m1, true) =>
      let x1 := { x with k := x.k + 1, poison := po, buf := [], cond := x.cond ||| 64 * b2n v.2 }
      .more m1 (if a.rows ≤ x1.k then ECmd.finish x1 else x1)

/-- One step of a DMAWR (R307). -/
def Mod.dmawrStep (m : Mod) (c : Nat) (x : ECmd) : EStep :=
  let a := dmaShape x
  let lay := if a.layout = 3 then 2 else if a.dst = 0 then a.layout else 0
  let b := if a.dst = 1 then a.off else a.base * 32
  if a.src = 0 && !Mod.linesOk m c (b / 32) (ceilDiv (spadRowBytes lay a.cf a.rows a.n) 32) false then
    .dead (Mod.regionKill m c (b / 32))
  else if a.dst = 0 then Mod.wrObjStep m c x a
  else if a.dst = 1 then Mod.wrLines m c x a
  else
    -- a remote queue: entries pass on, or are packed from scratchpad rows
    let total := a.rows * rowEntryCount a
    if a.src = 1 then
      match Mod.pop m c a.endp x with
      | .wait => .blocked
      | .dead m1 => .dead m1
      | .data m1 q =>
        let po := x.poison || q.poison
        let e : QEntry := { data := BitVec.ofNat 512 (q.data.toNat % 2 ^ 256), side := sideOf po (b2n (q.marker == 1)) 0 }
        let x1 := { x with k := x.k + 1, poison := po, out := [(65536 + a.obj, e)]
                           dry := if Mod.endsDry m c a.endp then a.endp :: x.dry else x.dry }
        .more m1 (if total ≤ x1.k then ECmd.finish x1 else x1)
    else
      let rows := (List.range a.rows).map fun r => Mod.wrRow m c a r []
      let po := x.poison || rows.any (·.2)
      let es := rows.flatMap fun r => rowEntries a.cf r.1 po
      .more m (ECmd.finish { x with poison := po, out := es.map fun q => (65536 + a.obj, q) })

/-- One step of a command of the DMA engine. -/
def Mod.dmaStep (m : Mod) (c : Nat) (x : ECmd) : EStep :=
  if x.op = 0x60 then Mod.dmardStep m c x else if x.op = 0x61 then Mod.dmawrStep m c x else .blocked

end Sys2Proof.Machine
end

