-- ==== Sys2Proof/Machine/Flags.lean ====
section
/-!
DEFINITION. The condition word of a core and its bits (R291), as every engine ORs them in: those of the array (R77), of the
vector engine, the gate pipeline and the DMA engine's conversions (R78, R110), and those of macros.
-/
namespace Sys2Proof.Machine

/-- Bits [3:0] of the array: nan, inf, int_sat, skew_replay (R77). -/
def condArray (nan inf intSat replay : Bool) : Nat := b2n nan + 2 * b2n inf + 4 * b2n intSat + 8 * b2n replay

/-- Bits [7:4] of the vector engine, the gate pipeline and the DMA engine: nan, inf, sat, domain (R110, R78). -/
def condVec (nan inf sat domain : Bool) : Nat :=
  16 * (b2n nan + 2 * b2n inf + 4 * b2n sat + 8 * b2n domain)

/-- Bit 8, zero_output (R126, R292). -/
def condZero : Nat := 0x100

/-- Bit 9, pad_periodic (R127). -/
def condPeriodic : Nat := 0x200

/-- Bits [12:10], empty_row, over_budget, demand_fetch (R179). -/
def condAttn (emptyRow overBudget demandFetch : Bool) : Nat :=
  1024 * (b2n emptyRow + 2 * b2n overBudget + 4 * b2n demandFetch)

/-- An integer result in the 32-bit wrapping arithmetic of the control unit (R295): op codes 0 to 14. -/
def aluOp (op : Nat) (a b : Word) : Word :=
  if op = 0 then a + b
  else if op = 1 then a - b
  else if op = 2 then a &&& b
  else if op = 3 then a ||| b
  else if op = 4 then a ^^^ b
  else if op = 5 then a <<< (b.toNat % 32)
  else if op = 6 then a >>> (b.toNat % 32)
  else if op = 7 then a.sshiftRight (b.toNat % 32)
  else if op = 8 then a * b
  else if op = 9 then (if b.slt a then b else a)
  else if op = 10 then (if a.slt b then b else a)
  else if op = 11 then (if b.ult a then b else a)
  else if op = 12 then (if a.ult b then b else a)
  else if op = 13 then (if a.slt b then 1 else 0)
  else (if a.ult b then 1 else 0)

/-- A branch condition (R295): eq, ne, lt, ge, ltu, geu, always. -/
def brHolds (cond : Nat) (a b : Word) : Bool :=
  if cond = 0 then a == b
  else if cond = 1 then a != b
  else if cond = 2 then a.slt b
  else if cond = 3 then !a.slt b
  else if cond = 4 then a.ult b
  else if cond = 5 then !a.ult b
  else true

end Sys2Proof.Machine
end

