-- ==== Sys2Proof/Machine/FlashOps.lean ====
section
/-!
DEFINITION. The flash tier's shared operations: drives and their command slots (R237, R239), table geometry (R241,
R242), the spatial hash (R246), spill slots on flash (R185, R368).
-/
namespace Sys2Proof.Machine

open Sys2Proof

/-! ## Drives -/

/-- A flash port and its drive. -/
def Mod.drive (m : Mod) (p : Nat) : Drive := sget {} m.flash.drives p

/-- Change a drive. -/
def Mod.modDrive (m : Mod) (p : Nat) (f : Drive → Drive) : Mod :=
  { m with flash := { m.flash with drives := smod {} m.flash.drives p f } }

/-- The drive takes commands (FLP_PORT_n). -/
def Mod.driveReady (m : Mod) (p : Nat) : Bool := (Mod.drive m p).state == 1

/-- Commands outstanding at most (FLP_QUEUES_n cap, 16 to 1,024). DESIGN CHOICE: a value outside that range acts as its
nearer end. -/
def Drive.cap (d : Drive) : Nat := max 16 (min 1024 (fld d.queues.toNat 42 32))

/-- Best-effort reads and writes outstanding at most (FLP_QUEUES_n be_cap). -/
def Drive.beCap (d : Drive) : Nat := fld d.queues.toNat 58 48

/-- The commands that hold one of the drive's command slots (R239): in order of arrival, `all` slots in all and `be`
for those that are not latency-critical reads. -/
def slotHolders : Nat → Nat → List Nvme → List Nvme
  | _, _, [] => []
  | 0, _, _ => []
  | all + 1, be, x :: xs =>
    if x.cls = 0 then x :: slotHolders all be xs
    else match be with
      | 0 => slotHolders (all + 1) 0 xs
      | b + 1 => x :: slotHolders all b xs

/-- The commands outstanding on a drive; the others wait for a slot. -/
def Drive.outstanding (d : Drive) : List Nvme := slotHolders d.cap d.beCap d.cmds

/-- Hand a command to a drive: its command identifier is the next one. -/
def Mod.nvme (m : Mod) (p : Nat) (x : Nvme) : Mod :=
  let m1 := { m with flash := { m.flash with nextCid := m.flash.nextCid + 1 } }
  Mod.modDrive m1 p fun d => { d with cmds := d.cmds ++ [{ x with cid := m.flash.nextCid }] }

/-- Key of a byte of a drive's contents. -/
def mediaKey (port nsid lba off : Nat) : Nat := (port * 2 ^ 32 + nsid) * 2 ^ 64 + lba * 4096 + off

/-- One logical block. -/
def Mod.mediaRead (m : Mod) (port nsid lba : Nat) : List Byte := rdBytes m.flash.media (mediaKey port nsid lba 0) 4096

/-- Write one logical block. -/
def Mod.mediaWrite (m : Mod) (port nsid lba : Nat) (bs : List Byte) : Mod :=
  { m with flash := { m.flash with media := wrBytes m.flash.media (mediaKey port nsid lba 0) (bs.take 4096) } }

/-! ## Table geometry -/

/-- Bits per element of a table format (R240). -/
def tableElemBits (f : Nat) : Nat := if f = 2 then 16 else if f = 3 then 4 else 8

/-- The R288 format of a table format (R240). -/
def tableFmt (f : Nat) : Nat := if f = 0 then 3 else if f = 1 then 4 else if f = 2 then 1 else 9

/-- Bytes of a row that the format and the element count fix (R241), before rounding. -/
def rowRaw (f dim : Nat) : Nat := dim * tableElemBits f / 8 + (if f = 3 then dim / 32 else 0)

/-- row_bytes breaks R241. -/
def rowBytesOk (d : TableDesc) : Bool :=
  decide (1 ≤ d.dim) && (d.format != 3 || d.dim % 32 == 0) && d.rowBytes == roundUp (rowRaw d.format d.dim) 32
    && decide (32 ≤ d.rowBytes) && decide (d.rowBytes ≤ 1024)

/-- Rows of a page (R241). -/
def tablePageRows (d : TableDesc) : Nat := 4096 / max 1 d.rowBytes

/-- Rows of a shard (R242). -/
def tableShardRows (d : TableDesc) : Nat := max 1 (ceilDiv d.rows (max 1 d.shards))

/-- The shard of a row. -/
def rowShard (d : TableDesc) (g : Nat) : Nat := g / tableShardRows d

/-- The page of a row within its shard. -/
def rowPage (d : TableDesc) (g : Nat) : Nat := g % tableShardRows d / max 1 (tablePageRows d)

/-- Byte of a row within its page. -/
def rowOff (d : TableDesc) (g : Nat) : Nat :=
  g % tableShardRows d % max 1 (tablePageRows d) * d.rowBytes

/-- Pages of a shard. -/
def shardPages (d : TableDesc) : Nat := ceilDiv (tableShardRows d) (max 1 (tablePageRows d))

/-- The flash ports of a drives field, ascending. -/
def portsOf (mask : Nat) : List Nat := (List.range 4).filter fun p => bitAt mask p

/-- Port and LBA of page `p` of an extent (R242). -/
def extentPlace (d : TableDesc) (first p : Nat) : Nat × Nat :=
  let ps := portsOf d.drives
  let n := max 1 ps.length
  let u := 2 ^ d.stripeLog2
  if n = 1 then (nth 0 ps 0, first + p)
  else (nth 0 ps (p / u % n), first + p / u / n * u + p % u)

/-- LBAs an extent of `n` pages takes on each of its drives. -/
def extentLbas (d : TableDesc) (n : Nat) : Nat :=
  let k := max 1 (portsOf d.drives).length
  if k = 1 then n else ceilDiv (ceilDiv n (2 ^ d.stripeLog2)) k * 2 ^ d.stripeLog2

/-- Port and LBA of a page of a copy (R242): copy 0 the owned shard, 1 the buddy copy. -/
def copyPlace (d : TableDesc) (copy p : Nat) : Nat × Nat :=
  extentPlace d (if copy = 0 then d.firstLba else d.buddyFirstLba) p

/-! ## The spatial hash -/

/-- The row number of a 16-byte key (R245, R246). -/
def hashRow (d : TableDesc) (key : Nat) : Nat :=
  let w0 := fld key 23 0 + fld key 31 24 * 2 ^ 24 + fld key 39 32 * 2 ^ 32
  let w1 := fld key 63 48 + fld key 79 64 * 2 ^ 16 + fld key 95 80 * 2 ^ 32
  let mul (a b : Nat) : Nat := a * b % 2 ^ 64
  let h := mul (d.salt.toNat ^^^ w0) 0xB5E1_7A3D_29C4_6F0B
  let h := h ^^^ (h / 2 ^ 32)
  let h := mul (h ^^^ w1) 0x8D1F_6C53_A0E7_94C5
  let h := h ^^^ (h / 2 ^ 29)
  let h := mul h 0xE3A9_4B17_5D2C_81F9
  let h := h ^^^ (h / 2 ^ 32)
  h * d.rows / 2 ^ 64

/-! ## Key-value pages on flash -/

/-- Port and LBA of 4 KiB part `i` of slot `slot` of a context's flash spill extent (R185, R368). -/
def spillPlace (d : TableDesc) (slot i : Nat) : Nat × Nat := extentPlace d d.firstLba (slot * 16 + i)

/-- Issue the 16 commands of a key-value page's transfer. -/
def Mod.kvCmds (m : Mod) (d : TableDesc) (page slot cls : Nat) : Nat → Mod
  | 0 => m
  | k + 1 =>
    let pl := spillPlace d slot k
    Mod.nvme (Mod.kvCmds m d page slot cls k) pl.1
      { cid := 0, cls := cls, lba := pl.2, nsid := d.nsid, page := k, kvPage := page + 1 }

/-- Commands of a key-value page are outstanding. -/
def Mod.kvBusy (m : Mod) (page : Nat) : Bool :=
  m.flash.drives.any fun d => d.2.cmds.any fun c => c.kvPage == page + 1

/-- The contents of a slot of a spill extent: its 16 blocks. -/
def Mod.slotRead (m : Mod) (d : TableDesc) (slot : Nat) : List Byte :=
  (List.range 16).flatMap fun i => let pl := spillPlace d slot i; Mod.mediaRead m pl.1 d.nsid pl.2

/-- Write the contents of a slot of a spill extent. -/
def Mod.slotWrite (m : Mod) (d : TableDesc) (slot : Nat) (bs : List Byte) : Mod :=
  (List.range 16).foldl (fun x i =>
    let pl := spillPlace d slot i
    Mod.mediaWrite x pl.1 d.nsid pl.2 ((bs.drop (4096 * i)).take 4096)) m

end Sys2Proof.Machine
end

