-- ==== Sys2Proof/Machine/Attention.lean ====
section
/-!
DEFINITION. The arithmetic of an attention pass (R172, R174 to R177, R182, R183) and the rows of a length table (R172,
R173).
-/
namespace Sys2Proof.Machine

open Sys2Proof

/-! ## Length tables -/

/-- The condition of R172 for a query at position `p` and a key at position `k`. -/
def attends (r : LenRow) (p k : Nat) : Bool :=
  if r.mask = 0 then k ≤ p
  else if r.mask = 1 then k / max 1 r.maskBlock ≤ p / max 1 r.maskBlock
  else r.mask == 2

/-- The row itself is good (R173); `branches` reads the state of a branch where the context has a branch table. -/
def lenRowOk (r : LenRow) (branches : Option (Nat → Nat)) : Bool :=
  r.mask != 3 && (r.mask != 1 || (decide (1 ≤ r.maskBlock) && decide (r.maskBlock ≤ 65536)))
    && match branches with
      | some f => f r.branch != 0
      | none => true

/-- The header of a list agrees with the declaration of the layer and key head it serves (R173). -/
def listHeadOk (a : AttnDecl) (h : Nat) (l : PageList) : Bool :=
  let lat := bitAt a.privileged h
  pageCap l.width l.format != 0 && l.layer == a.layer && l.kvHead == h && l.latent == lat
    && l.width == (if lat then a.rank else a.hd) && l.format == a.format && l.group == a.group

/-- The pages of an entry are pages of the pool that the context owns (R173). -/
def Mod.entryOk (m : Mod) (ctx : Nat) (l : PageList) (e : ListEntry) : Bool :=
  let good (p : Nat) : Bool := p != nullPage && decide (p < m.kv.pages) && (Mod.page m p).owner == ctx
  good e.keyPage && (l.latent || good e.valuePage)

/-! ## Lanes -/

/-- Dot product in glove mode (R59): products rounded only outside the FP32 normal range (R73), sums of 8 rows,
partials added in order. -/
def gloveDot (xs ys : List Fv) : Word :=
  let ts := (List.range xs.length).map fun i => f32 (toF32 ((nth .nan xs i).mul (nth .nan ys i)))
  (chunks 8 ts.length ts).foldl (fun w c => fadd w (colSum c)) 0

/-- Lane-wise maximum of FP32 words (R92). -/
def maxF32 (a b : Word) : Word := BitVec.ofNat 32 (laneMin 0 a.toNat b.toNat true)

/-- −∞. -/
def negInf : Word := 0xFF80_0000

/-- The weight exponential of a score difference (stage 2 exp2). -/
def exp2Of (w : Word) : Word := (gateFn 4 w).1

/-- A block's part of a lane's page score: maximum in force, lane sum of the unnarrowed weights (R182). -/
structure BlockMass where
  m : Word := 0
  sum : Word := 0
  deriving DecidableEq, Repr, Inhabited

/-- A lane of a query tile: the query, its position, and its running statistics (R175). -/
structure Lane where
  q : List Fv
  pos : Nat
  m : Word := negInf
  l : Word := 0
  o : List Word
  mass : List BlockMass := []
  poison : Bool := false
  deriving Repr, Inhabited

/-- Weight format of a value format (R177): E4M3 for FP8 values, BF16 otherwise. -/
def weightFmt (format : Nat) : Nat := if format ≤ 1 then 3 else 1

/-- A weight narrowed (R177). -/
def narrowWeight (wf : Nat) (p : Word) : Fv := decElem wf (narrowTo wf false none (bitAt p.toNat 31) (f32 p)).bits

/-- One key block for one lane, steps 2 to 10 of R175: keys, value rows per key, and which keys the lane attends. -/
def laneBlock (scale : Word) (wf : Nat) (keys vals : List (List Fv)) (att : List Bool) (x : Lane) : Lane :=
  let n := keys.length
  let s := (List.range n).map fun i =>
    if nth false att i then ffma scale (gloveDot (nth [] keys i) x.q) 0 else negInf
  let m' := maxF32 x.m (s.foldl maxF32 negInf)
  let sub (w : Word) : Word := if m' = negInf then fsub w 0 else fsub w m'
  let ps := s.map fun w => exp2Of (sub w)
  let alpha : Word := if m' = negInf then 0 else exp2Of (fsub x.m m')
  let ws := ps.map (narrowWeight wf)
  let ob (k : Nat) : Word := gloveDot ((List.range n).map fun i => nth .nan (nth [] vals i) k) ws
  let one : Fv := .fin false 1 0
  { x with
    m := m'
    l := ffma x.l alpha (gloveDot (ws.map fun _ => one) ws)
    o := (List.range x.o.length).map fun k => ffma (nth 0 x.o k) alpha (ob k)
    mass := x.mass ++ [⟨m', ps.foldl fadd 0⟩] }

/-- A zero of either sign. -/
def isZero (w : Word) : Bool := w == 0 || w == 0x8000_0000

/-- The output of a lane (R176): zero where nothing was attended. -/
def laneOut (x : Lane) : List Word :=
  if isZero x.l then x.o.map fun _ => 0
  else let r := (gateFn 8 x.l).1; x.o.map fun w => fmul w r

/-- The mass that block `b` of a tile adds to its key page (R182): the sum over the lanes on a tile of ones. -/
def blockMass (lanes : List Lane) (b : Nat) : Word :=
  let one : Fv := .fin false 1 0
  let ts := lanes.map fun x =>
    let y := nth {} x.mass b
    if isZero x.l then f32 0
    else f32 (fmul (fmul y.sum (exp2Of (fsub y.m x.m))) ((gateFn 8 x.l).1))
  gloveDot ts (ts.map fun _ => one)

/-- Add a mass to the score of a page (R182, R183). -/
def Mod.addScore (m : Mod) (page : Nat) (w : Word) : Mod :=
  Mod.modPage m page fun d =>
    if d.unobserved then { d with score := w, unobserved := false } else { d with score := fadd d.score w }

/-! ## Pages as rows -/

/-- Values of a token-major row of width `w` at slot `i` of a page's bytes (R164). -/
def keyRow (format w : Nat) (page : List Byte) (i : Nat) : List Fv :=
  let f := listFmt format
  (List.range w).map fun k => decElem f (elemAt f (page.drop (keyOff w (listElem format) i)) k)

/-- Values of a value row of width `hd` at slot `i` (R164). -/
def valueRow (format hd : Nat) (page : List Byte) (i : Nat) : List Fv :=
  let f := listFmt format
  let e := listElem format
  (List.range hd).map fun k => decElem f (leNat ((page.drop (valOff hd e i k)).take e))

/-- Blocks of an entry (R174): numbers of the first slot and of slots. -/
def entryBlocks (count : Nat) : List (Nat × Nat) :=
  (List.range (ceilDiv count 64)).map fun b => (64 * b, min 64 (count - 64 * b))

/-- A page of a pass as it was read. -/
structure PageData where
  bytes : List Byte := []
  poison : Bool := false
  deriving Inhabited

/-- The score scale of a layer (R175): the image's, or 1/√hd × log2 e, rounded to FP32, for each hd of R163. -/
def scoreScale (a : AttnDecl) : Word :=
  if a.scoreScale ≠ 0 then a.scoreScale
  else if a.hd = 64 then 0x3E38_AA3B
  else if a.hd = 128 then 0x3E02_93EE
  else if a.hd = 256 then 0x3DB8_AA3B
  else Config.freeWord a.hd

end Sys2Proof.Machine
end

