-- ==== Sys2Proof/Machine/KeyValue.lean ====
section
/-!
DEFINITION. The key-value instructions ATTN, KVAPP and KVPF (R309, R310) and the spilling and fetching back of pages
(R185 to R189).
-/
namespace Sys2Proof.Machine

open Sys2Proof

/-! ## Rows and heads of an instruction -/

/-- The distinct numbers of a list, in order of first occurrence. -/
def distinct (l : List Nat) : List Nat := l.foldl (fun acc x => if acc.contains x then acc else acc ++ [x]) []

/-- The number in the register a field of 5 bits names. -/
def Core.regN (x : Core) (i : Nat) : Nat := (x.reg i).toNat

/-- State of a branch, for the check of a length-table row (R173, R196). -/
def branchStates (c : Ctx) : Option (Nat → Nat) :=
  if c.blk.branchTable = 0 then none else some fun b => (sget ({} : BranchRec) c.branches b).state

/-- First key head and key head count of an ATTN or KVAPP. -/
def headsOf (op : Nat) (p : PvisWords) : Nat × Nat :=
  if op = 0x70 then (PvisWords.f p 31 24, PvisWords.f p 23 16) else (PvisWords.f p 23 16, PvisWords.f p 15 8)

/-- The heads lie within those the layer declares; a range beyond them is in no accepted image (R293, R309). -/
def Mod.headsDeclared (m : Mod) (core op : Nat) (p : PvisWords) : Bool :=
  match Mod.ctx m (Mod.ctxOf m core) with
  | none => true
  | some c => let hs := headsOf op p; decide (hs.1 + hs.2 ≤ Mod.keyHeads m c (PvisWords.f p 43 32))

/-- Rows `first` to `first + n − 1` of a length-table object: their addresses and fields, and poison. -/
def Mod.lenRows (m : Mod) (core obj first n : Nat) : AccFault ⊕ (List (Nat × LenRow) × Bool) :=
  let va := (Mod.objVa m (Mod.ctxOf m core) obj) + 32 * first
  match Mod.dmaRead m core va (32 * n) with
  | .inl f => .inl f
  | .inr (bs, po) => .inr (lenRowsOf va bs n, po)

/-- The rows of an ATTN or KVAPP. -/
def Mod.tableRows (m : Mod) (core : Nat) (p : PvisWords) : AccFault ⊕ (List (Nat × LenRow) × Bool) :=
  let x := Mod.core m core
  Mod.lenRows m core (PvisWords.x1 p 63 48) (x.regN (PvisWords.x1 p 47 43)) (extent16 x.regs (PvisWords.x1 p 31 16))

/-- The address of the list block entry of a list. -/
def listVa (key : Nat) : Nat := key / 65536 + 8 * (key % 65536)

/-- The lists of a row that an instruction names, with their key heads. -/
def Mod.rowLists (m : Mod) (c : Ctx) (layer : Nat) (hs : Nat × Nat) (r : LenRow) : List (Nat × Nat) :=
  (List.range hs.2).map fun i => (hs.1 + i, listKey r.listBlock (Mod.listIndex m c layer (hs.1 + i)))

/-- The first offence of R173 among rows and the lists they name, as its address. -/
def Mod.tableFault (m : Mod) (ctx : Nat) (c : Ctx) (a : AttnDecl) (hs : Nat × Nat) (append : Bool) :
    List (Nat × LenRow) → Option Nat
  | [] => none
  | (va, r) :: rs =>
    let ls := Mod.rowLists m c a.layer hs r
    let bad (x : Nat × Nat) : Bool :=
      let l := c.list x.2
      !listHeadOk a x.1 l || l.entries.any fun e => !Mod.entryOk m ctx l e
    if !lenRowOk r (branchStates c) then some va
    else match ls.find? bad with
      | some x => some (listVa x.2)
      | none =>
        if append && r.append && ls.any (fun x => (c.list x.2).length != r.start) then some va
        else Mod.tableFault m ctx c a hs append rs

/-- Raise a bit of R179. -/
def Mod.attnCond (m : Mod) (core : Nat) (emptyRow ovf demand : Bool) : Mod :=
  Mod.orCond m core (condAttn emptyRow ovf demand)

/-- The core stands at the instruction again; it is issued anew when what it waits for has come. -/
def Core.unfetch (x : Core) (p : PvisWords) (w : CoreWait) : Core := { x with pc := x.pc - pvisLen p, wait := w }

/-! ## Fetching pages -/

/-- Begin to fetch a page back (R187), from flash by 16 reads of the owner's class (R254). -/
def Mod.fetchPage (m : Mod) (page : Nat) : Option Mod :=
  let d := Mod.page m page
  match Mod.beginFetch m page with
  | none => none
  | some m1 =>
    match d.flash, Mod.ctx m d.owner with
    | true, some c =>
      match c.spillExtent with
      | some x => some (Mod.kvCmds m1 x page d.spillAddr (if c.lc then 0 else 1) 16)
      | none => some m1
    | _, _ => some m1

/-- Begin a spill (R186), to flash by 16 writes. -/
def Mod.spillPage (m : Mod) (page : Nat) : Mod :=
  let m1 := Mod.beginSpill m page
  let d := Mod.page m1 page
  match d.tier == 2 && d.flash, Mod.ctx m1 d.owner with
  | true, some c =>
    match c.spillExtent with
    | some x => Mod.kvCmds m1 x page d.spillAddr 2 16
    | none => m1
  | _, _ => m1

/-- An instruction that finds no free frame (R189): a page that can be spilled begins to, and the instruction is issued
again; else it parks on a kv_pool_empty record. -/
def Mod.noFrame (m : Mod) (core : Nat) (p : PvisWords) : Mod :=
  let be := !Mod.ctxLc m (Mod.ctxOf m core)
  let spilling := m.kv.descs.any fun d => d.2.tier == 2
  match Mod.spillVictim m be with
  | some v => Mod.modCore (Mod.spillPage m v) core fun x => x.unfetch p .none
  | none =>
    if spilling then Mod.modCore m core fun x => x.unfetch p .none
    else
      let x := Mod.core m core
      let r := Mod.raiseFault m .kvPoolEmpty .pageAllocator (Mod.ctxOf m core) 0 false core (Mod.tagOf m x.job) 0 0 true
        (some (.core core x.job))
      Mod.modCore r.1 core fun y => y.unfetch p (.parked r.2 (PvisWords.op p) p)

/-- A pass waits for a page (R187): fetched on demand where it has no frame; demand_fetch is set. -/
def Mod.waitPage (m : Mod) (core : Nat) (p : PvisWords) (page : Nat) : Mod :=
  let m1 := Mod.attnCond m core false false true
  let wait (x : Mod) : Mod := Mod.modCore x core fun y => y.unfetch p (.page page)
  if (Mod.page m page).tier = 5 then wait m1
  else match Mod.fetchPage m1 page with
    | some m2 => wait m2
    | none => Mod.noFrame m1 core p

/-! ## The attention pass -/

/-- One list of a pass: its row, its key head and the list as the pass took it. -/
structure PassList where
  row : LenRow
  head : Nat
  key : Nat
  l : PageList
  deriving Repr, Inhabited

/-- The lists of a pass, head by head and within a head row by row, from those taken at its start. -/
def Mod.passLists (m : Mod) (c : Ctx) (layer : Nat) (hs : Nat × Nat) (taken : List (Nat × PageList))
    (rows : List LenRow) : List PassList :=
  (List.range hs.2).flatMap fun i => rows.map fun r =>
    let key := listKey r.listBlock (Mod.listIndex m c layer (hs.1 + i))
    ⟨r, hs.1 + i, key, ((taken.find? (·.1 == key)).map (·.2)).getD {}⟩

/-- Positions of the queries of a row. -/
def rowPositions (r : LenRow) : List Nat := (List.range r.length).map (r.start + ·)

/-- The pages a list's pass reads: of entries with a slot that some query of the row attends. -/
def PassList.needs (x : PassList) : List Nat :=
  let es := if x.row.length = 0 || x.row.ring then [] else x.l.entries.filter fun e =>
    (List.range e.count).any fun i => (rowPositions x.row).any fun p => attends x.row p (e.firstPosition + i)
  es.flatMap fun e => if x.l.latent then [e.keyPage] else [e.keyPage, e.valuePage]

/-- Read a page for a core. -/
def Mod.readPage (m : Mod) (core page : Nat) : AccFault ⊕ PageData :=
  match Mod.dmaRead m core (Mod.pageVa m page 0) 65536 with
  | .inl f => .inl f
  | .inr (bs, po) => .inr ⟨bs, po || (Mod.page m page).poisoned⟩

/-- Read the pages of a pass: number and contents. -/
def Mod.readPages (m : Mod) (core : Nat) : List Nat → AccFault ⊕ List (Nat × PageData)
  | [] => .inr []
  | q :: qs =>
    match Mod.readPage m core q with
    | .inl f => .inl f
    | .inr d => match Mod.readPages m core qs with
      | .inl f => .inl f
      | .inr ds => .inr ((q, d) :: ds)

/-- The contents of a page among those read. -/
def pageOf (ps : List (Nat × PageData)) (page : Nat) : PageData := ((ps.find? (·.1 == page)).map (·.2)).getD {}

/-- Run the key blocks of one entry over a tile (R174, R175): the lanes, and the key page of each block visited. -/
def tileEntry (scale : Word) (x : PassList) (ps : List (Nat × PageData)) (e : ListEntry) :
    List (Nat × Nat) → List Lane → List Nat → List Lane × List Nat
  | [], ls, seen => (ls, seen)
  | (first, n) :: bs, ls, seen =>
    let pos (i : Nat) : Nat := e.firstPosition + first + i
    let att (y : Lane) : List Bool := (List.range n).map fun i => attends x.row y.pos (pos i)
    if ls.any fun y => (att y).any id then
      let kp := pageOf ps e.keyPage
      let vp := if x.l.latent then kp else pageOf ps e.valuePage
      let keys := (List.range n).map fun i => keyRow x.l.format x.l.width kp.bytes (first + i)
      let vals := if x.l.latent then keys
        else (List.range n).map fun i => valueRow x.l.format x.l.width vp.bytes (first + i)
      let step (y : Lane) : Lane :=
        { laneBlock scale (weightFmt x.l.format) keys vals (att y) y with poison := y.poison || kp.poison || vp.poison }
      tileEntry scale x ps e bs (ls.map step) (seen ++ [e.keyPage])
    else tileEntry scale x ps e bs ls seen

/-- Run a tile over the entries of its list. -/
def tileRun (scale : Word) (x : PassList) (ps : List (Nat × PageData)) : List ListEntry → List Lane → List Nat →
    List Lane × List Nat
  | [], ls, seen => (ls, seen)
  | e :: es, ls, seen =>
    let r := tileEntry scale x ps e (entryBlocks e.count) ls seen
    tileRun scale x ps es r.1 r.2

/-- What the pass of one list gives: the output lanes in order, and the masses of key pages in order of their blocks. -/
structure PassOut where
  lanes : List Lane := []
  masses : List (Nat × Word) := []
  deriving Inhabited

/-- The tiles of a list's pass (R174). -/
def passTiles (scale : Word) (x : PassList) (ps : List (Nat × PageData)) : List (List Lane) → PassOut
  | [] => {}
  | t :: ts =>
    let r := tileRun scale x ps x.l.entries t []
    let rest := passTiles scale x ps ts
    { lanes := r.1 ++ rest.lanes
      masses := (List.range r.2.length).map (fun b => (nth 0 r.2 b, blockMass r.1 b)) ++ rest.masses }

/-- Columns of a list's pass: for each query head of the group in turn the row's queries (R174). DESIGN CHOICE: the query
and output objects hold the key heads in turn, within a head the rows of the table, within a row the query heads, and
within one the queries, with no padding, in the element formats the objects declare. -/
def PassList.columns (x : PassList) : Nat := x.row.length * x.l.group

/-- Width of a query and an output row of a list: its row width, or the head dimension where latent rows are expanded
(R184). -/
def queryWidth (a : AttnDecl) (l : PageList) : Nat := if l.latent && a.readForm = 1 then a.rank else a.hd

/-- The rows are attended by values the model does not form: latent rows expanded by up-projections whose place no rule
states (R184), and ring rows, whose blocks other modules hold (R191). -/
def PassList.open_ (x : PassList) (a : AttnDecl) : Bool := x.row.ring || (x.l.latent && a.readForm = 0)

/-- Element format of an object. -/
def Mod.objFmt (m : Mod) (ctx obj : Nat) : Nat :=
  match Mod.objDecl m ctx obj with | some (o : ObjDecl) => o.format | none => 0

/-- The lanes of a list from its query rows. -/
def passLanes (x : PassList) (w qf : Nat) (bs : List Byte) : List Lane :=
  let e := memRowBytes qf w
  (List.range x.columns).map fun i =>
    let r := rowOfBytes qf w ((bs.drop (i * e)).take e)
    { q := (List.range w).map fun k => r.value qf k, pos := x.row.start + i % max 1 x.row.length
      o := List.replicate w 0 }

/-- Output bytes of a list's pass: narrowed to the output object's format (R78). -/
def outBytes (f : Nat) (rows : List (List Word)) : List Byte × Bool :=
  let rs := rows.map fun ws => convRow 0 f false [] { bits := ws.map BitVec.toNat }
  (rs.flatMap fun r => rowBytes f r.1, rs.any (·.2))

/-- The state of a pass that has read its pages, walking its lists. -/
structure PassRun where
  m : Mod
  qOff : Nat
  oOff : Nat
  poison : Bool := false
  cond : Nat := 0
  fault : Option AccFault := none

/-- One list of the pass: read its queries, attend, write its outputs, and add its scores (R182). -/
def PassRun.step (core qObj oObj : Nat) (a : AttnDecl) (ps : List (Nat × PageData)) (r : PassRun) (x : PassList) :
    PassRun :=
  if r.fault.isSome then r
  else
    let ctx := Mod.ctxOf r.m core
    let w := queryWidth a x.l
    let qf := Mod.objFmt r.m ctx qObj
    let f := Mod.objFmt r.m ctx oObj
    let qb := x.columns * memRowBytes qf w
    let ob := x.columns * memRowBytes f w
    let next : PassRun := { r with qOff := r.qOff + qb, oOff := r.oOff + ob }
    if x.columns = 0 then next
    else match Mod.dmaRead r.m core ((Mod.objVa r.m ctx qObj) + r.qOff) qb with
      | .inl e => { r with fault := some e }
      | .inr (bs, po) =>
        let t := passTiles (scoreScale a) x ps (chunks 8 x.columns (passLanes x w qf bs))
        let free := r.m.free
        let rows := if x.open_ a then
            (List.range x.columns).map fun i => (List.range w).map fun k => Config.freeWord (free + i * 512 + k)
          else t.lanes.map laneOut
        let out := outBytes f rows
        let bad := po || t.lanes.any (·.poison)
        let empty := !x.open_ a && t.lanes.any fun y => isZero y.l
        let m1 := if x.open_ a then { r.m with free := free + x.columns * 512 } else r.m
        match Mod.vaWrite m1 (clusterTlb core) ctx ((Mod.objVa m1 ctx oObj) + r.oOff) out.1 bad with
        | (_, some (e, _)) => { r with fault := some e }
        | (m2, none) =>
          let m3 := if x.l.budget = 0 || x.open_ a then m2
            else t.masses.foldl (fun y p => Mod.addScore y p.1 p.2) m2
          { next with
            m := m3, poison := r.poison || bad
            cond := r.cond ||| condAttn empty false false ||| condVec (t.lanes.any fun y => (f32 y.l).isNan) false out.2 false }

/-- The pass takes its lists (R180): the use counter advances, and every page they name gets a reader. -/
def Mod.takePass (m : Mod) (core : Nat) (keys : List Nat) (c : Ctx) : Mod :=
  let ls := (distinct keys).map fun k => (k, c.list k)
  let m1 := { m with kv := { m.kv with useCounter := (m.kv.useCounter + 1) % 2 ^ 32 } }
  let m2 := Mod.onEntries Mod.addReader m1 (passEntries ls)
  Mod.modCore m2 core fun x => { x with pass := some ls }

/-- The pass ends: its readers go. -/
def Mod.endPass (m : Mod) (core : Nat) : Mod :=
  match (Mod.core m core).pass with
  | some ls => Mod.modCore (Mod.onEntries Mod.dropReader m (passEntries ls)) core fun x => { x with pass := none }
  | none => m

/-- The pass with its lists taken: wait for pages that are not in GDDR, else run. -/
def Mod.attnRun (m : Mod) (core : Nat) (p : PvisWords) (a : AttnDecl) (ls : List PassList) (po : Bool) : Mod :=
  let need := distinct (ls.flatMap PassList.needs)
  match need.find? fun q => let t := (Mod.page m q).tier; t == 3 || t == 4 || t == 5 with
  | some q => Mod.waitPage m core p q
  | none =>
    match Mod.readPages m core need with
    | .inl f => Mod.parkCore m core p f .coreDma 0
    | .inr ps =>
      let x := Mod.core m core
      let r0 : PassRun := { m := m, qOff := x.regN (PvisWords.x2 p 47 43), oOff := x.regN (PvisWords.x2 p 42 38) }
      let r := ls.foldl (PassRun.step core (PvisWords.x1 p 15 0) (PvisWords.x2 p 63 48) a ps) r0
      match r.fault with
      | some f => Mod.parkCore m core p f .coreDma 0
      | none => Mod.orCond (Mod.macroPoison (Mod.endPass r.m core) core (po || r.poison)) core r.cond

/-- The control unit reads a poisoned length table (R526): the job completes POISONED_DATA. -/
def Mod.poisonedTable (m : Mod) (core : Nat) : Mod := Mod.finishJob m (Mod.core m core).job .poisonedData

/-- ATTN on a core that has fetched it. -/
def Mod.attn (core : Nat) (p : PvisWords) (po : Bool) (m : Mod) : Mod :=
  let k := Mod.ctxOf m core
  match Mod.ctx m k with
  | none => m
  | some c =>
    match Mod.attnDecl m c (PvisWords.f p 43 32), Mod.tableRows m core p with
    | none, _ => m
    | _, .inl f => Mod.parkCore m core p f .coreDma 0
    | some a, .inr (rows, bad) =>
      if bad then Mod.poisonedTable m core
      else
        let hs := headsOf 0x70 p
        let taken := (Mod.core m core).pass
        match (if taken.isSome then none else Mod.tableFault m k c a hs false rows) with
        | some va => Mod.kill m core .lengthTable .controlUnit va 0
        | none =>
          let rs := rows.map (·.2)
          let keys := (rs.flatMap fun r => Mod.rowLists m c a.layer hs r).map (·.2)
          let m1 := if taken.isSome then m else Mod.takePass m core keys c
          let ls := (Mod.core m1 core).pass.getD []
          Mod.attnRun m1 core p a (Mod.passLists m1 c a.layer hs ls rs) po

/-- `ATTN` (R309). -/
def execAttn (c : CoreId) (p : PvisWords) (s : State) : Out :=
  if !Mod.headsDeclared s.mod c 0x70 p then .fault (.rejectedEncoding "ATTN")
  else macroCmd "ATTN" 0x70 0x7F c p s (Mod.attn c p)

/-! ## Appends -/

/-- Where the sources of an append stand: bytes passed in the key source and in the value source. -/
structure AppendAt where
  k : Nat
  v : Nat
  deriving Inhabited

/-- The token rows of one row and list from their source bytes. -/
def tokenRowsOf (latent : Bool) (rb : Nat) (kPo vPo : Bool) (ks vs : List Byte) : Nat → List TokenRows
  | 0 => []
  | n + 1 =>
    { key := if latent then [] else ks.take rb, value := vs.take rb, poison := vPo || (!latent && kPo) }
      :: tokenRowsOf latent rb kPo vPo (ks.drop rb) (vs.drop rb) n

/-- What an append instruction comes to. -/
inductive AppendEnd where
  | ok (m : Mod) (ovf poison : Bool)
  | noFrame
  | full
  | fault (f : AccFault)
  deriving Inhabited

/-- Append one row's tokens to one list, and evict (R180, R181, R203). -/
def Mod.appendRow (m : Mod) (core ctx key : Nat) (verify : Bool) (r : LenRow) (l : PageList)
    (ks vs : List Byte) (kPo vPo : Bool) : AppendEnd :=
  let ts := tokenRowsOf l.latent (l.width * listElem l.format) kPo vPo ks vs r.length
  match Mod.appendTokens m (clusterTlb core) ctx key (2 * r.length + 2) ts with
  | .poolEmpty => .noFrame
  | .listFull => .full
  | .fault f => .fault f
  | .done m1 =>
    if verify then .ok m1 false (kPo || vPo)
    else
      let e := Mod.evict m1 ctx key ((match Mod.ctx m1 ctx with | some c => (c.list key).entries.length | none => 0) + 1)
      .ok e.1 e.2 (kPo || vPo)

/-- Append every row of one head (R310): `lists` pairs rows with list keys. -/
def Mod.appendHead (m : Mod) (core ctx : Nat) (p : PvisWords) (verify : Bool) (h : Nat) (c : Ctx) (a : AttnDecl)
    (pos : AppendAt) (ovf po : Bool) : List LenRow → AppendEnd × AppendAt
  | [] => (.ok m ovf po, pos)
  | r :: rs =>
    let key := listKey r.listBlock (Mod.listIndex m c a.layer h)
    let l := c.list key
    let n := r.length * l.width * listElem l.format
    let pos' : AppendAt := ⟨pos.k + (if l.latent then 0 else n), pos.v + n⟩
    if !r.append || r.length = 0 then Mod.appendHead m core ctx p verify h c a pos' ovf po rs
    else
      let kr := if l.latent then .inr ([], false)
        else Mod.dmaRead m core ((Mod.objVa m ctx (PvisWords.x2 p 63 48)) + pos.k) n
      match kr, Mod.dmaRead m core ((Mod.objVa m ctx (PvisWords.x2 p 47 32)) + pos.v) n with
      | .inl f, _ => (.fault f, pos)
      | _, .inl f => (.fault f, pos)
      | .inr (ks, kPo), .inr (vs, vPo) =>
        match Mod.appendRow m core ctx key verify r l ks vs kPo vPo with
        | .ok m1 o q => Mod.appendHead m1 core ctx p verify h c a pos' (ovf || o) (po || q) rs
        | e => (e, pos')

/-- Append head by head. -/
def Mod.appendHeads (m : Mod) (core ctx : Nat) (p : PvisWords) (verify : Bool) (c : Ctx) (a : AttnDecl)
    (rows : List LenRow) (pos : AppendAt) (ovf po : Bool) : List Nat → AppendEnd
  | [] => .ok m ovf po
  | h :: hs =>
    match Mod.appendHead m core ctx p verify h c a pos ovf po rows with
    | (.ok m1 o q, pos') => Mod.appendHeads m1 core ctx p verify c a rows pos' o q hs
    | (e, _) => e

/-- Change a branch record. -/
def Mod.modBranch (m : Mod) (ctx b : Nat) (f : BranchRec → BranchRec) : Mod :=
  Mod.modCtx m ctx fun c => { c with branches := smod {} c.branches b f }

/-- A branch record. -/
def Ctx.branch (c : Ctx) (b : Nat) : BranchRec := sget {} c.branches b

/-- The address of a branch record (R192). -/
def Ctx.branchVa (c : Ctx) (b : Nat) : Nat := c.blk.branchTable + 64 * b

/-- The rows of a verifying append are good (R203): false where the context ends. -/
def verifyOk (c : Ctx) (n : Nat) (rows : List LenRow) : Bool :=
  c.blk.branchTable != 0 && (rows.filter (·.append)).all fun r =>
    let b := c.branch r.branch
    r.length == n && (b.state == 1 || (b.state == 2 && b.verifyBase == r.start && b.pending == n))

/-- The branches of a verifying append enter verification (R203). -/
def Mod.enterVerify (m : Mod) (ctx n : Nat) : List LenRow → Mod
  | [] => m
  | r :: rs =>
    let m1 := if r.append then
        Mod.modBranch m ctx r.branch fun b =>
          if b.state = 1 then { b with state := 2, verifyBase := r.start, pending := n } else b
      else m
    Mod.enterVerify m1 ctx n rs

/-- The first branch record of a list that cannot be read or written (R525, R526): a fault, or poison. -/
def Mod.branchesBad (m : Mod) (ctx : Nat) (c : Ctx) (write : Bool) : List Nat → Option (AccFault ⊕ Nat)
  | [] => none
  | b :: bs =>
    match Mod.recordAt m ctx (c.branchVa b) 64 write with
    | .inl f => some (.inl f)
    | .inr true => some (.inr (c.branchVa b))
    | .inr false => Mod.branchesBad m ctx c write bs

/-- The appends of a KVAPP whose rows have passed their checks: all of them, or none and the instruction waits. -/
def Mod.kvappRun (m : Mod) (core : Nat) (p : PvisWords) (c : Ctx) (a : AttnDecl) (rows : List LenRow) (po : Bool) : Mod :=
  let ctx := Mod.ctxOf m core
  let n := PvisWords.f p 31 28
  let hs := headsOf 0x71 p
  let x := Mod.core m core
  match Mod.appendHeads m core ctx p (n != 0) c a rows
      ⟨x.regN (PvisWords.x2 p 31 27), x.regN (PvisWords.x2 p 26 22)⟩ false false
      ((List.range hs.2).map (hs.1 + ·)) with
  | .noFrame => Mod.noFrame m core p
  | .full => Mod.kill m core .kvListFull .controlUnit 0 0
  | .fault f => Mod.parkCore m core p f .coreDma 0
  | .ok m1 ovf bad =>
    let m2 := if n = 0 then m1 else Mod.enterVerify m1 ctx n rows
    Mod.attnCond (Mod.macroPoison m2 core (po || bad)) core false ovf false

/-- KVAPP on a core that has fetched it. -/
def Mod.kvapp (core : Nat) (p : PvisWords) (po : Bool) (m : Mod) : Mod :=
  let k := Mod.ctxOf m core
  match Mod.ctx m k with
  | none => m
  | some c =>
    match Mod.attnDecl m c (PvisWords.f p 43 32), Mod.tableRows m core p with
    | none, _ => m
    | _, .inl f => Mod.parkCore m core p f .coreDma 0
    | some a, .inr (rows, bad) =>
      let n := PvisWords.f p 31 28
      let rs := rows.map (·.2)
      let recs := if n = 0 || c.blk.branchTable = 0 then none
        else Mod.branchesBad m k c true (rs.map (·.branch))
      if bad then Mod.poisonedTable m core
      else match recs with
        | some (.inl f) => Mod.parkCore m core p f .coreDma 0
        | some (.inr va) => Mod.controlPoison m k (Mod.core m core).job core va
        | none =>
          if n != 0 && !verifyOk c n rs then Mod.kill m core .branch .controlUnit 0 0
          else match Mod.tableFault m k c a (headsOf 0x71 p) true rows with
            | some va => Mod.kill m core .lengthTable .controlUnit va 0
            | none => Mod.kvappRun m core p c a rs po

/-- `KVAPP` (R310). -/
def execKvapp (c : CoreId) (p : PvisWords) (s : State) : Out :=
  if !Mod.headsDeclared s.mod c 0x71 p then .fault (.rejectedEncoding "KVAPP")
  else macroCmd "KVAPP" 0x71 0x7F c p s (Mod.kvapp c p)

/-! ## Prefetch -/

/-- Fetch the pages of a list that are in host memory or on flash, without waiting; a page for which there is no frame
is left. -/
def Mod.prefetchPages (m : Mod) : List Nat → Mod
  | [] => m
  | q :: qs =>
    let t := (Mod.page m q).tier
    if t = 3 ∨ t = 4 then Mod.prefetchPages ((Mod.fetchPage m q).getD m) qs else Mod.prefetchPages m qs

/-- Pages of the entries that overlap the positions [first, first + n). -/
def pagesIn (l : PageList) (first n : Nat) : List Nat :=
  (l.entries.filter fun e => decide (e.firstPosition < first + n) && decide (first < e.firstPosition + e.count)).flatMap
    fun e => if l.latent then [e.keyPage] else [e.keyPage, e.valuePage]

/-- KVPF on a core that has fetched it (R187, R310). -/
def Mod.kvpf (core : Nat) (p : PvisWords) (_po : Bool) (m : Mod) : Mod :=
  let k := Mod.ctxOf m core
  let x := Mod.core m core
  match Mod.ctx m k with
  | none => m
  | some c =>
    let layer := PvisWords.f p 31 20
    match Mod.lenRows m core (PvisWords.x1 p 63 48) (x.regN (PvisWords.x1 p 47 43)) 1 with
    | .inl f => Mod.parkCore m core p f .coreDma 0
    | .inr (rows, bad) =>
      if bad then Mod.poisonedTable m core
      else
        let ls := rows.flatMap fun r => Mod.rowLists m c layer (0, Mod.keyHeads m c layer) r.2
        Mod.prefetchPages m (ls.flatMap fun h =>
          pagesIn (c.list h.2) (x.regN (PvisWords.x1 p 42 38)) (extent16 x.regs (PvisWords.x1 p 31 16)))

/-- `KVPF` (R310). -/
def execKvpf (c : CoreId) (p : PvisWords) (s : State) : Out := macroCmd "KVPF" 0x72 0 c p s (Mod.kvpf c p)

/-! ## The ends of transfers -/

/-- Cores that wait for a page issue their instruction again. -/
def Mod.wakePage (m : Mod) (page : Nat) : Mod :=
  { m with cores := m.cores.map fun (x : Nat × Core) =>
      if x.2.wait = .page page then (x.1, { x.2 with wait := .none }) else x }

/-- A fetched page is in its frame: tier gddr, its slot is free, and its waiters go on. -/
def Mod.pageIn (m : Mod) (page : Nat) (poison : Bool) : Mod :=
  let d := Mod.page m page
  let m1 := Mod.modPage (Mod.freeSpillSlot m d) page fun x =>
    { x with tier := 1, spillAddr := 0, flash := false, poisoned := x.poisoned || poison }
  Mod.tryRelease (Mod.wakePage (Mod.visorBrim m1 0 d.owner 0x57 1) page) page

/-- PAGE_FETCH_DONE on the module (R187, R188). -/
def Mod.pageFetchDone (m : Mod) (page : Nat) (readOk : Bool) : Mod :=
  let d := Mod.page m page
  if d.tier ≠ 5 || Mod.kvBusy m page then m
  else match Mod.ctx m d.owner with
    | none => m
    | some c =>
      let dst := Mod.pageVa m page 0
      if d.flash then
        match c.spillExtent with
        | none => m
        | some x =>
          match Mod.vaWrite m (brimTlbOf dst) d.owner dst (Mod.slotRead m x d.spillAddr) (!readOk) with
          | (_, some (f, _)) => (Mod.raiseAcc m f .flashHelper d.owner 0 0 0 true (some (.fetch page))).1
          | (m1, none) => Mod.pageIn m1 page (!readOk)
      else match Mod.copyVa m d.owner d.spillAddr dst 65536 with
        | (_, some f) => (Mod.raiseAcc m f .pageAllocator d.owner 0 0 0 true (some (.fetch page))).1
        | (m1, none) => Mod.pageIn m1 page (!readOk)

/-- `PAGE_FETCH_DONE` (R187). -/
def execPageFetchDone (page : Nat) (readOk : Bool) (s : State) : Out :=
  .next (s.onMod fun m => Mod.pageFetchDone m page readOk)

/-- PAGE_SPILL on the module (R185, R186): the free stack is below 1/64 of the pool. -/
def Mod.pageSpill (m : Mod) (forBe : Bool) : Mod :=
  if m.kv.free.length < m.kv.pages / 64 then
    match Mod.spillVictim m forBe with | some v => Mod.spillPage m v | none => m
  else m

/-- `PAGE_SPILL` (R186). -/
def execPageSpill (forBestEffort : Bool) (s : State) : Out := .next (s.onMod fun m => Mod.pageSpill m forBestEffort)

/-- A spilled page gives its frame back (R186 step 3). -/
def Mod.pageOut (m : Mod) (page : Nat) (poison : Bool) : Mod :=
  let d := Mod.page m page
  let m1 := { m with kv := { m.kv with free := d.frame :: m.kv.free } }
  Mod.modPage (Mod.visorBrim m1 0 d.owner 0x56 1) page fun x =>
    { x with tier := if d.flash then 4 else 3, frame := 0, poisoned := x.poisoned || poison }

/-- SPILL_COPY_DONE on the module (R186, R188). -/
def Mod.spillCopyDone (m : Mod) (page : Nat) : Mod :=
  let d := Mod.page m page
  if d.tier ≠ 2 || d.readers ≠ 0 || Mod.kvBusy m page then m
  else if d.refcount = 0 then
    Mod.modPage (Mod.freeSpillSlot { m with kv := { m.kv with free := d.frame :: m.kv.free } } d) page fun _ => {}
  else match Mod.ctx m d.owner with
    | none => m
    | some c =>
      let src := Mod.pageVa m page 0
      if d.flash then
        match c.spillExtent, Mod.vaRead m (brimTlbOf src) d.owner src 65536 with
        | none, _ => m
        | _, .inl f => (Mod.raiseAcc m f .flashHelper d.owner 0 0 0 true (some (.spill page))).1
        | some x, .inr (bs, po) => Mod.pageOut (Mod.slotWrite m x d.spillAddr bs) page po
      else match Mod.copyVa m d.owner src d.spillAddr 65536 with
        | (_, some f) => (Mod.raiseAcc m f .pageAllocator d.owner 0 0 0 true (some (.spill page))).1
        | (m1, none) => Mod.pageOut m1 page false

/-- `SPILL_COPY_DONE` (R186). -/
def execSpillCopyDone (page : Nat) (s : State) : Out := .next (s.onMod fun m => Mod.spillCopyDone m page)

end Sys2Proof.Machine
end

