-- ==== Sys2Proof/Machine/CollOps.lean ====
section
/-!
DEFINITION. Collective groups (R418 to R426): members and rings, buckets, chunks and stages, grants, the reduction unit's
addition, and the movement of an operation's data.
-/
namespace Sys2Proof.Machine

open Sys2Proof

/-! ## Members -/

/-- A declared group. -/
def Mod.group (m : Mod) (n : Nat) : Option Group := sget none m.coll n

/-- Write a group. -/
def Mod.setGroup (m : Mod) (n : Nat) (g : Group) : Mod := { m with coll := sset none m.coll n (some g) }

/-- A coordinate's part in dimension 0 X, 1 Y, 2 Z. -/
def Xyz.dim (c : Xyz) (d : Nat) : Nat := if d = 0 then c.1 else if d = 1 then c.2.1 else c.2.2

/-- Members of a group (R418). -/
def collMembers (d : CollDesc) : Nat := d.extent.1 * d.extent.2.1 * d.extent.2.2

/-- Member index of a coordinate (R418). -/
def memberIndex (d : CollDesc) (c : Xyz) : Nat :=
  (c.1 - d.origin.1) + d.extent.1 * ((c.2.1 - d.origin.2.1) + d.extent.2.1 * (c.2.2 - d.origin.2.2))

/-- The coordinate of a member. -/
def memberAt (d : CollDesc) (i : Nat) : Xyz :=
  let a := max 1 d.extent.1
  let b := max 1 d.extent.2.1
  (d.origin.1 + i % a, d.origin.2.1 + i / a % b, d.origin.2.2 + i / a / b)

/-- A coordinate is a member. -/
def isMember (d : CollDesc) (c : Xyz) : Bool :=
  (List.range 3).all fun k => decide (Xyz.dim d.origin k ≤ Xyz.dim c k)
    && decide (Xyz.dim c k < Xyz.dim d.origin k + Xyz.dim d.extent k)

/-- The members of a group. -/
def memberList (d : CollDesc) : List Xyz := (List.range (collMembers d)).map (memberAt d)

/-! ## Rings

A ring runs along each dimension spanned; shape 1 is one ring through its plane, numbered 3, in the order of the member
index (DESIGN CHOICE: R190 says only that it is a cycle). -/

/-- The rings of a group, in the order X, Y, Z (R422). -/
def ringsOf (d : CollDesc) : List Nat := if d.shape = 1 then [3] else (List.range 3).filter fun k => bitAt d.dims k

/-- Members of a ring. -/
def ringSizeOf (d : CollDesc) (r : Nat) : Nat := if r = 3 then collMembers d else Xyz.dim d.extent r

/-- A member's place in a ring. -/
def ringPlace (d : CollDesc) (c : Xyz) (r : Nat) : Nat :=
  if r = 3 then memberIndex d c else Xyz.dim c r - Xyz.dim d.origin r

/-- The member at place `i` of the ring `r` that `c` is in. -/
def ringMember (d : CollDesc) (c : Xyz) (r i : Nat) : Xyz :=
  if r = 0 then (d.origin.1 + i, c.2) else if r = 1 then (c.1, d.origin.2.1 + i, c.2.2)
  else if r = 2 then (c.1, c.2.1, d.origin.2.2 + i) else memberAt d i

/-- The next place in a direction: 0 for +, 1 for −. -/
def nextPlace (g i dir : Nat) : Nat := if dir = 0 then (i + 1) % max 1 g else (i + g - 1) % max 1 g

/-! ## Operations, buckets, stages -/

/-- The operation whose turn it is. -/
def Group.cur (g : Group) : CollOp := nth {} g.d.ops g.turn

/-- Bytes of a buffer element. -/
def CollOp.elem (o : CollOp) : Nat := if o.srcFp32 then 4 else 2

/-- Elements of the buffer. -/
def CollOp.elems (o : CollOp) : Nat := o.bytes / CollOp.elem o

/-- Elements of a bucket. -/
def CollOp.bucket (o : CollOp) : Nat := max 1 (o.bucketMib * 2 ^ 20 / CollOp.elem o)

/-- Buckets of an operation (R419). -/
def CollOp.buckets (o : CollOp) : Nat := ceilDiv (CollOp.elems o) (CollOp.bucket o)

/-- A run of elements: first and one past the last. -/
abbrev Run := Nat × Nat

/-- The elements of bucket `b`. -/
def bucketRun (o : CollOp) (b : Nat) : Run :=
  (b * CollOp.bucket o, min ((b + 1) * CollOp.bucket o) (CollOp.elems o))

/-- Chunk `c` of `g` of a run. -/
def chunkRun (r : Run) (c g : Nat) : Run :=
  let n := r.2 - r.1
  (r.1 + c * n / max 1 g, r.1 + (c + 1) * n / max 1 g)

/-- The half of a run that a direction carries (R422). DESIGN CHOICE: the lower half goes in the + direction. -/
def halfRun (r : Run) (dir : Nat) : Run :=
  let mid := r.1 + (r.2 - r.1) / 2
  if dir = 0 then (r.1, mid) else (mid, r.2)

/-- Kinds of a stage: reduce-scatter, all-gather, broadcast along one ring. -/
inductive StageKind where
  | reduce
  | gather
  | cast
  deriving DecidableEq, Repr, Inhabited

/-- The stages of an operation (R422): kind and ring. -/
def stagesOf (d : CollDesc) (o : CollOp) : List (StageKind × Nat) :=
  let rs := ringsOf d
  let red := rs.map fun r => (StageKind.reduce, r)
  let gat := rs.reverse.map fun r => (StageKind.gather, r)
  if o.op = 1 then red ++ gat else if o.op = 2 then red else if o.op = 3 then gat else rs.map fun r => (.cast, r)

/-- The share of bucket `b` that a member holds once the rings before `r` have been reduced. -/
def shareRun (d : CollDesc) (o : CollOp) (here : Xyz) (b r : Nat) : Run :=
  ((ringsOf d).takeWhile (· != r)).foldl (fun x k => chunkRun x (ringPlace d here k) (ringSizeOf d k)) (bucketRun o b)

/-- The run a stage moves in its ring: the share for a reduction or a gather, the whole bucket for a broadcast. -/
def stageRun (d : CollDesc) (o : CollOp) (here : Xyz) (b : Nat) (s : StageKind × Nat) : Run :=
  if s.1 = .cast then bucketRun o b else shareRun d o here b s.2

/-- The member takes part in a broadcast stage: it has the root's place in every later ring. -/
def castHere (d : CollDesc) (o : CollOp) (here : Xyz) (r : Nat) : Bool :=
  let root := memberAt d o.root
  (((ringsOf d).dropWhile (· != r)).drop 1).all fun k => ringPlace d here k == ringPlace d root k

/-- Elements a member receives in a stage from one direction (R422). -/
def expected (d : CollDesc) (o : CollOp) (here : Xyz) (b : Nat) (s : StageKind × Nat) (dir : Nat) : Nat :=
  let g := ringSizeOf d s.2
  let i := ringPlace d here s.2
  let run := stageRun d o here b s
  let size (r : Run) : Nat := let h := halfRun r dir; h.2 - h.1
  if g ≤ 1 then 0
  else if s.1 = .cast then
    (if castHere d o here s.2 && i != ringPlace d (memberAt d o.root) s.2 then size run else 0)
  else
    -- of a reduction every chunk but the one the member starts; of a gather every chunk but its own
    let skip := if s.1 = .reduce then nextPlace g i (1 - dir) else i
    ((List.range g).filter (· != skip)).foldl (fun a c => a + size (chunkRun run c g)) 0

/-! ## Elements -/

/-- A buffer element widened to FP32 (R424). -/
def widen (fp32 : Bool) (x : Nat) : Word := BitVec.ofNat 32 (if fp32 then x else x % 65536 * 65536)

/-- An FP32 value in the wire format (R424): BF16 by R78, or FP32. -/
def toWire (fp32 : Bool) (w : Word) : Nat := if fp32 then w.toNat else (toBf16 false none (f32 w)).bits

/-- A value of the wire as the buffer holds it: widened exactly for FP32; an FP32 wire value in a BF16 buffer by R78. -/
def toBuffer (srcFp32 wireFp32 : Bool) (x : Nat) : Nat :=
  if srcFp32 then (widen wireFp32 x).toNat else if wireFp32 then (toBf16 false none (f32 (widen true x))).bits else x

/-- Elements of `e` bytes from a byte string. -/
def elemsFrom (e : Nat) (bs : List Byte) : List Nat :=
  (List.range (bs.length / max 1 e)).map fun i => leNat ((bs.drop (e * i)).take e)

/-- The sum of R424: a partial of the wire and a local contribution, in FP32 with one rounding, on the wire again. -/
def reduceElem (wireFp32 : Bool) (partial_ : Nat) (local_ : Word) : Nat :=
  toWire wireFp32 (fadd (widen wireFp32 partial_) local_)

/-! ## Packets -/

/-- Elements in one packet at most. DESIGN CHOICE: 1,000. -/
def collPerPacket : Nat := 1000

/-- Key of a bucket, stage and direction. -/
def collKey (b st dir : Nat) : Nat := (b * 8 + st) * 2 + dir

/-- A collective data packet. DESIGN CHOICE: the address has the group in [47:42] and the first element in [41:0]; the first
four data bytes are the operation's place in the group, the stage, the direction and zero. -/
def Mod.collPacket (m : Mod) (n : Nat) (g : Group) (dest : Xyz) (st dir off : Nat) (po : Bool) (vals : List Nat) : Packet :=
  let ws := if g.d.wireFp32 then 4 else 2
  { ptype := 0x10, dest := dest, src := Mod.here m, context := g.d.context, poison := po, lc := Mod.ctxLc m g.d.context
    address := n * 2 ^ 42 + off % 2 ^ 42
    data := leBytes 1 g.turn ++ leBytes 1 st ++ leBytes 1 dir ++ leBytes 1 0 ++ vals.flatMap (leBytes ws) }

/-- Send collective data against a grant (R421): a bucket's half in a direction needs one; without it the data waits.
Packets go by both ports of the direction in turn (R415). -/
def Mod.collSend (m : Mod) (n key ring dir : Nat) (p : Packet) : Mod :=
  match Mod.group m n with
  | none => m
  | some g =>
    let half := some (p.address / collPerPacket % 2)
    let gk := ring * 2 + dir
    if sget false g.opened key then Mod.sendPacket m p half
    else if 0 < sget 0 g.grants gk then
      Mod.sendPacket (Mod.setGroup m n { g with
        opened := sset false g.opened key true
        grants := smod 0 g.grants gk (· - 1) }) p half
    else Mod.setGroup m n { g with waiting := g.waiting ++ [(key, ring, dir, p)] }

/-- Grant a slot of the staging area to the member before this one in a direction (R421). -/
def Mod.collGrant (m : Mod) (n : Nat) (g : Group) (ring dir : Nat) : Mod :=
  let here := Mod.here m
  let up := ringMember g.d here ring (nextPlace (ringSizeOf g.d ring) (ringPlace g.d here ring) (1 - dir))
  Mod.sendPacket m { ptype := 0x11, dest := up, src := here, context := g.d.context, lc := Mod.ctxLc m g.d.context
                     address := n * 2 ^ 42, data := leBytes 1 ring ++ leBytes 1 dir } none

/-- The coordinates a member of a group answers to: its own, or those of the member it stands for (R432). -/
def Mod.memberHere (m : Mod) : Xyz :=
  if Mod.isSpare m then (match m.rcv.takeover with | some t => (t.x, (Mod.here m).2) | none => Mod.here m) else Mod.here m

/-! ## Moving data -/

/-- Address of an element of the running operation's buffer. -/
def Group.elemVa (g : Group) (off : Nat) : Nat := g.cur.bufferVa + off * CollOp.elem g.cur

/-- Read buffer elements: values and poison. -/
def Mod.collRead (m : Mod) (g : Group) (off n : Nat) : AccFault ⊕ (List Nat × Bool) :=
  let va := g.elemVa off
  match Mod.vaRead m (brimTlbOf va) g.d.context va (n * CollOp.elem g.cur) with
  | .inl f => .inl f
  | .inr (bs, po) => .inr (elemsFrom (CollOp.elem g.cur) bs, po)

/-- Write wire values to the buffer. -/
def Mod.collWrite (m : Mod) (g : Group) (off : Nat) (vals : List Nat) (po : Bool) : Mod × Option (AccFault × Nat) :=
  let va := g.elemVa off
  Mod.vaWrite m (brimTlbOf va) g.d.context va
    ((vals.map (toBuffer g.cur.srcFp32 g.d.wireFp32)).flatMap (leBytes (CollOp.elem g.cur))) po

/-- The local contribution to elements (R424): the buffer's in the first reduction, else the partial sums in staging. -/
def Mod.collLocal (m : Mod) (g : Group) (st off n : Nat) : AccFault ⊕ (List Word × Bool) :=
  if st = 0 then
    match Mod.collRead m g off n with
    | .inl f => .inl f
    | .inr (vs, po) => .inr (vs.map (widen g.cur.srcFp32), po)
  else .inr ((List.range n).map fun i => sget 0 g.acc (off + i), (List.range n).any fun i => sget false g.accPoison (off + i))

/-- Keep partial sums in staging. -/
def Group.keep (g : Group) (off : Nat) (ws : List Word) (po : Bool) : Group :=
  let at_ := (List.range ws.length).map fun i => (off + i, nth 0 ws i)
  { g with
    acc := at_.foldl (fun a p => sset 0 a p.1 p.2) g.acc
    accPoison := at_.foldl (fun a p => sset false a p.1 po) g.accPoison }

/-- The places at which packets of a run start, with their lengths. -/
def packetsOf (r : Run) : List (Nat × Nat) :=
  (List.range (ceilDiv (r.2 - r.1) collPerPacket)).map fun i =>
    let a := r.1 + i * collPerPacket
    (a, min collPerPacket (r.2 - a))

/-- Raise the fault of a collective's access: the operation parks until the record is resolved (R229). -/
def Mod.collFault (m : Mod) (n : Nat) (g : Group) (f : AccFault) (op : ParkedOp) : Mod :=
  (Mod.raiseAcc m f .mover g.d.context n 0 0 true (some op)).1

/-- Send a run in a direction in stage `st`: the member's own contribution on the wire for a reduction, the buffer's
values else. None on a fault. -/
def Mod.sendRun (m : Mod) (n b st : Nat) (s : StageKind × Nat) (dir : Nat) (r : Run) : AccFault ⊕ Mod :=
  (packetsOf r).foldl (fun x p => match x with
    | .inl f => .inl f
    | .inr y =>
      match Mod.group y n with
      | none => .inr y
      | some g =>
        let here := Mod.memberHere y
        let dest := ringMember g.d here s.2 (nextPlace (ringSizeOf g.d s.2) (ringPlace g.d here s.2) dir)
        let vals := if s.1 = .reduce then
            (match Mod.collLocal y g st p.1 p.2 with
            | .inl f => .inl f
            | .inr (ws, po) => .inr (ws.map (toWire g.d.wireFp32), po))
          else match Mod.collRead y g p.1 p.2 with
            | .inl f => .inl f
            | .inr (vs, po) => .inr (vs.map fun v => toWire g.d.wireFp32 (widen g.cur.srcFp32 v), po)
        match (vals : AccFault ⊕ (List Nat × Bool)) with
        | .inl f => .inl f
        | .inr (vs, po) =>
          .inr (Mod.collSend y n (collKey b st dir) s.2 dir (Mod.collPacket y n g dest st dir p.1 po vs))) (.inr m)

/-- The run a member sends first in a stage and direction (R422). -/
def firstRun (d : CollDesc) (o : CollOp) (here : Xyz) (b : Nat) (s : StageKind × Nat) (dir : Nat) : Run :=
  let g := ringSizeOf d s.2
  let i := ringPlace d here s.2
  let run := stageRun d o here b s
  if g ≤ 1 then (0, 0)
  else if s.1 = .reduce then halfRun (chunkRun run (nextPlace g i (1 - dir)) g) dir
  else if s.1 = .gather then halfRun (chunkRun run i g) dir
  else if castHere d o here s.2 && i == ringPlace d (memberAt d o.root) s.2 then halfRun run dir else (0, 0)

/-- Enter stage `st` of a bucket: send what the member starts with. A reduction along a ring of one member keeps the
member's own values. -/
def Mod.enterStage (m : Mod) (n b st : Nat) (s : StageKind × Nat) : AccFault ⊕ Mod :=
  match Mod.group m n with
  | none => .inr m
  | some g =>
    let here := Mod.memberHere m
    match Mod.sendRun m n b st s 0 (firstRun g.d g.cur here b s 0) with
    | .inl f => .inl f
    | .inr m1 =>
      match Mod.sendRun m1 n b st s 1 (firstRun g.d g.cur here b s 1) with
      | .inl f => .inl f
      | .inr m2 =>
        match Mod.group m2 n with
        | some g2 => .inr (Mod.setGroup m2 n { g2 with stage := sset 0 g2.stage b (st + 1) })
        | none => .inr m2

/-- A bucket has received all of its stage. -/
def Group.stageDone (g : Group) (here : Xyz) (b : Nat) : Bool :=
  let st := sget 0 g.stage b - 1
  match (stagesOf g.d g.cur)[st]? with
  | some s => (List.range 2).all fun dir => sget 0 g.got (collKey b st dir) == expected g.d g.cur here b s dir
  | none => false

/-- A bucket has passed every stage. -/
def Group.bucketDone (g : Group) (b : Nat) : Bool := decide ((stagesOf g.d g.cur).length < sget 0 g.stage b)

/-- The first bucket that may go on: one whose stage is done, or the next one to start while fewer than two are in the
first stage (R423). -/
def Group.ready (g : Group) (here : Xyz) : Option Nat :=
  let n := CollOp.buckets g.cur
  (List.range n).find? fun b =>
    let st := sget 0 g.stage b
    if st = 0 then decide (((List.range b).filter fun k => sget 0 g.stage k == 1).length < 2)
      && (List.range b).all fun k => sget 0 g.stage k != 0
    else !g.bucketDone b && g.stageDone here b

/-- One move of a group's running operation: a bucket starts, or enters its next stage. A fault parks the operation. -/
def Mod.collStep (m : Mod) (n : Nat) : Option (Mod × Bool) :=
  match Mod.group m n with
  | none => none
  | some g =>
    if !g.running then none
    else match g.ready (Mod.memberHere m) with
      | none => none
      | some b =>
        let st := sget 0 g.stage b
        match (stagesOf g.d g.cur)[st]? with
        | none => some (Mod.setGroup m n { g with stage := sset 0 g.stage b (st + 1) }, true)
        | some s =>
          match Mod.enterStage m n b st s with
          | .inl f => some (Mod.collFault m n g f (.coll n), false)
          | .inr m1 => some (m1, true)

/-- Elements of a run in a chunk: which of `g` chunks an element lies in. -/
def chunkOf (r : Run) (g off : Nat) : Nat := ((List.range g).find? fun c => decide (off < (chunkRun r c g).2)).getD 0

/-- Process a data packet of the stage its bucket is in (R422, R424): sum and forward, or take; none on a fault. -/
def Mod.collTake (m : Mod) (n : Nat) (g : Group) (p : Packet) (b st dir : Nat) (s : StageKind × Nat) : AccFault ⊕ Mod :=
  let here := Mod.memberHere m
  let size := ringSizeOf g.d s.2
  let i := ringPlace g.d here s.2
  let off := p.address % 2 ^ 42
  let vals := elemsFrom (if g.d.wireFp32 then 4 else 2) (p.data.drop 4)
  let run := stageRun g.d g.cur here b s
  let next := nextPlace size i dir
  let fwd (x : Mod) (vs : List Nat) (po : Bool) : Mod :=
    Mod.collSend x n (collKey b st dir) s.2 dir (Mod.collPacket x n g (ringMember g.d here s.2 next) st dir off po vs)
  let count (x : Mod) : Mod :=
    match Mod.group x n with
    | some y =>
      let got := sget 0 y.got (collKey b st dir) + vals.length
      let x1 := Mod.setGroup x n { y with got := sset 0 y.got (collKey b st dir) got }
      if got = expected g.d g.cur here b s dir then Mod.collGrant x1 n y s.2 dir else x1
    | none => x
  if s.1 = .reduce then
    match Mod.collLocal m g st off vals.length with
    | .inl f => .inl f
    | .inr (ws, lp) =>
      let po := p.poison || lp
      let sum := (List.range vals.length).map fun k => reduceElem g.d.wireFp32 (nth 0 vals k) (nth 0 ws k)
      let m0 := Mod.visorBrim m (if s.2 < 3 then s.2 else 3) g.d.context 0x5C (ceilDiv (p.data.length - 4) 64)
      if chunkOf run size off = i then
        let last := match (stagesOf g.d g.cur)[st + 1]? with | some (.reduce, _) => false | _ => true
        if last then
          match Mod.collWrite m0 g off sum po with
          | (_, some (f, _)) => .inl f
          | (m1, none) => .inr (count m1)
        else .inr (count (Mod.setGroup m0 n (g.keep off (sum.map (widen g.d.wireFp32)) po)))
      else .inr (count (fwd m0 sum po))
  else
    match Mod.collWrite m g off vals p.poison with
    | (_, some (f, _)) => .inl f
    | (m1, none) =>
      let owner := if s.1 = .gather then chunkOf run size off else ringPlace g.d (memberAt g.d g.cur.root) s.2
      .inr (count (if next = owner then m1 else fwd m1 vals p.poison))

/-- The bucket of a data packet. -/
def Group.bucketOf (g : Group) (p : Packet) : Nat := p.address % 2 ^ 42 / CollOp.bucket g.cur

/-- The packet belongs to the stage its bucket is in. -/
def Group.now (g : Group) (p : Packet) : Bool :=
  g.running && (nth 0 p.data 0).toNat == g.turn && sget 0 g.stage (g.bucketOf p) == (nth 0 p.data 1).toNat + 1

/-- Take one packet that waits in staging for a stage that has come. -/
def Mod.collStaged (m : Mod) (n : Nat) : Option (Mod × Bool) :=
  match Mod.group m n with
  | none => none
  | some g =>
    match g.staged.find? g.now with
    | none => none
    | some p =>
      let st := (nth 0 p.data 1).toNat
      match (stagesOf g.d g.cur)[st]? with
      | none => some (Mod.setGroup m n { g with staged := g.staged.erase p }, true)
      | some s =>
        match Mod.collTake (Mod.setGroup m n { g with staged := g.staged.erase p }) n { g with staged := g.staged.erase p } p
            (g.bucketOf p) st (nth 0 p.data 2).toNat s with
        | .inl f => some (Mod.collFault m n g f (.coll n), false)
        | .inr m1 => some (m1, true)

/-- Run a group's operation until it waits for data, a grant or a fault record. -/
def Mod.collRun (n : Nat) : Nat → Mod → Mod
  | 0, m => m
  | k + 1, m =>
    match Mod.collStaged m n with
    | some (m1, true) => Mod.collRun n k m1
    | some (m1, false) => m1
    | none => match Mod.collStep m n with
      | some (m1, true) => Mod.collRun n k m1
      | some (m1, false) => m1
      | none => m

/-- The bound of one run: above what an operation can take. -/
def collBound : Nat := 2 ^ 40

/-- Every bucket of the running operation has passed every stage. -/
def Group.opDone (g : Group) : Bool := g.running && (List.range (CollOp.buckets g.cur)).all g.bucketDone

/-- Forget the running operation's buckets. -/
def Group.clear (g : Group) : Group :=
  { g with stage := [], got := [], opened := [], waiting := [], acc := [], accPoison := [] }

end Sys2Proof.Machine
end

