-- ==== Sys2Proof/Machine/Rings.lean ====
section
/-!
DEFINITION. The ring walker and the host interface's registers: doorbells and kicks (R353 to R356), fetching (R357 to
R361), completion heads and coalescing (R358, R373, R524), ring and event control (R351, R352, R517, R518), the fault
ring's control (R520), BAR4 (R350, R519), D3hot (R348), ATS and PRI (R349).
-/
namespace Sys2Proof.Machine

open Sys2Proof

/-- The ring walker runs: service-ready (R487, R514), the Crown in service, the link in D0 and out of reset. -/
def Mod.walkerUp (m : Mod) : Bool :=
  m.sys.serviceReady && m.sys.crown == 0 && !m.sys.perst && !m.host.d3hot

/-- Stop a ring and report it (R354): reason 1 tail, 2 link. -/
def Mod.ringError (m : Mod) (n reason : Nat) : Mod :=
  Mod.event (Mod.setSq m n { Mod.sq m n with stopped := true, kick := none }) .ringError 0xFF n reason

/-- Take a doorbell record that was read (R353 to R355). -/
def Mod.takeRecord (m : Mod) (n : Nat) (record : DWord) : Mod :=
  let q := Mod.sq m n
  let t : Word := BitVec.ofNat 32 (fld record.toNat 31 0)
  if q.size < ahead32 t.toNat q.fetched.toNat then Mod.ringError m n 1
  else if t = q.tail then m
  else Mod.setSq m n { q with tail := t, active := true }

/-- The walker polls the ring: it is up, and the ring is enabled and not stopped. -/
def Mod.polls (m : Mod) (n : Nat) : Bool :=
  Mod.walkerUp m && (Mod.sq m n).enabled && !(Mod.sq m n).stopped

/-- Host stores that became visible before the doorbell record was read (R330, R353). -/
def Mod.hostStores (m : Mod) : List Host.Cell → Mod
  | [] => m
  | (a, b) :: cs => Mod.hostStores (Mod.hostWrite m a [b] false) cs

/-- DOORBELL_POLL on the module. -/
def Mod.doorbellPoll (m : Mod) (n : Nat) (record : DWord) (linkOk : Bool) (stores : List Host.Cell) : Mod :=
  if !Mod.polls m n then m
  else if !linkOk then Mod.ringError (Mod.hostStores m stores) n 2
  else Mod.takeRecord (Mod.hostStores m stores) n record

/-- `DOORBELL_POLL` (R355). -/
def execDoorbellPoll (ring : Fin 64) (record : DWord) (linkOk : Bool) (stores : List Host.Cell) (s : State) : Out :=
  .next (s.onMod fun m => Mod.doorbellPoll m ring record linkOk stores)

/-- RING_IDLE_TIMEOUT on the module. -/
def Mod.ringIdle (m : Mod) (n : Nat) : Mod :=
  if Mod.polls m n then Mod.setSq m n { Mod.sq m n with active := false } else m

/-- `RING_IDLE_TIMEOUT` (R355). -/
def execRingIdleTimeout (ring : Fin 64) (s : State) : Out := .next (s.onMod fun m => Mod.ringIdle m ring)

/-- HIF_KICK on the module: ignored while kick_enable is clear. -/
def Mod.kick (m : Mod) (n : Nat) (seq : Word) : Mod :=
  if bitAt m.host.ctrl.toNat 0 && Mod.polls m n then
    Mod.setSq m n { Mod.sq m n with active := true, kick := some (seq, 64) }
  else m

/-- `HIF_KICK` (R356). -/
def execHifKick (ring : Fin 64) (seq : Word) (s : State) : Out := .next (s.onReg fun m => Mod.kick m ring seq)

/-- KICK_REPOLL on the module: the read a kick starts and its repeats, at most 64 (R356). -/
def Mod.kickRepoll (m : Mod) (n : Nat) (record : DWord) (linkOk : Bool) : Mod :=
  match (Mod.sq m n).kick with
  | none => m
  | some (s, left) =>
    if !Mod.polls m n then m
    else if !linkOk then Mod.ringError m n 2
    else
      let stale := behind32 (fld record.toNat 63 32) s.toNat
      let kick := if stale && left ≠ 0 then some (s, left - 1) else none
      Mod.takeRecord (Mod.setSq m n { Mod.sq m n with kick := kick }) n record

/-- `KICK_REPOLL` (R356). -/
def execKickRepoll (ring : Fin 64) (record : DWord) (linkOk : Bool) (s : State) : Out :=
  .next (s.onMod fun m => Mod.kickRepoll m ring record linkOk)

/-! ## Fetching -/

/-- A mask of the field [hi:lo] of the descriptor bytes from `off` on. -/
def dm (off hi lo : Nat) : Nat := (2 ^ (hi + 1) - 2 ^ lo) * 2 ^ (8 * off)

/-- The bits of a descriptor its kind uses (R359, R362 to R369, R377). -/
def descUsed (kind : Nat) : Nat :=
  dm 0 7 0 + dm 1 3 0 + dm 2 7 0 + dm 4 31 0 +
  (if kind = 0x01 then dm 0x10 63 0 + dm 0x18 63 0 + dm 0x20 63 0 + dm 0x28 63 0 + dm 0x30 15 0
   else if kind = 0x02 then
     dm 0x08 4 0 + dm 0x10 63 0 + dm 0x18 63 0 + dm 0x20 63 0 + dm 0x28 63 0 + dm 0x30 15 0 + dm 0x32 15 0
   else if kind = 0x03 then dm 0x08 47 0 + dm 0x0E 15 0 + dm 0x10 47 0 + dm 0x18 31 0 + dm 0x20 255 0
   else if kind = 0x04 then dm 0x08 63 0 + dm 0x10 63 0 + dm 0x18 47 0 + dm 0x1E 1 0
   else if kind = 0x05 ∨ kind = 0x06 then dm 0x08 12 0
   else if kind = 0x07 then dm 0x08 2 0 + dm 0x10 47 0 + dm 0x18 47 0
   else if kind = 0x08 then dm 0x08 17 0 + dm 0x10 63 0 + dm 0x18 31 0
   else if kind = 0x09 then dm 0x08 15 0 + dm 0x08 17 17 + dm 0x10 63 0 + dm 0x18 31 0
   else if kind = 0x0A then dm 0x08 63 0 + dm 0x10 63 0 + dm 0x18 31 0 + dm 0x1C 1 0
   else if kind = 0x0B then dm 0x08 8 0
   else if kind = 0x0C then dm 0x08 63 0 + dm 0x10 16 0
   else if kind = 0x0D then dm 0x08 31 0 + dm 0x0C 5 0 + dm 0x0C 8 8
   else dm 0x08 15 0 + dm 0x0C 31 0 + dm 0x10 63 0 + dm 0x18 31 0)

/-- A context exists. -/
def Mod.hasCtx (m : Mod) (k : Nat) : Bool := k < 16 && (Mod.ctx m k).isSome

/-- The number of contexts that exist (CRN_STATUS). -/
def Mod.liveContexts (m : Mod) : Nat := ((List.range 16).filter (Mod.hasCtx m)).length

/-- Some context is exclusive (R380). -/
def Mod.exclusiveExists (m : Mod) : Bool := (List.range 16).any (Mod.isExclusive m)

/-- The context number is one the kind may give (R360, R361, R380). -/
def Mod.descCtxOk (m : Mod) (d : BitVec 512) : Bool :=
  let k := descKind d
  let c := descCtx d
  let any := c == 0xFF || Mod.hasCtx m c
  if k = 0x01 ∨ k = 0x0B ∨ k = 0x0C then c == 0xFF
  else if k = 0x02 then
    let op := descFld d 8 1 0
    if op = 1 then c < 16 && !Mod.hasCtx m c && !(bitAt (descFld d 8 63 0) 4 && Mod.exclusiveExists m)
    else if op = 2 then Mod.hasCtx m c
    else any
  else if k = 0x03 ∨ k = 0x05 ∨ k = 0x06 ∨ k = 0x08 ∨ k = 0x09 then Mod.hasCtx m c
  else if k = 0x0A then (if descFld d 0x1C 1 1 = 1 then Mod.hasCtx m c else c == 0xFF)
  else if k = 0x0D then (if descFld d 0x0C 8 8 = 1 then Mod.hasCtx m c else any)
  else any

/-- The image of a context declares the flag host_sets (R323, R324, R361). -/
def Mod.hostSets (m : Mod) (c flag : Nat) : Bool :=
  match Mod.ctx m c with
  | some x => x.image.flags.any fun f => f.number == flag && f.hostSets
  | none => false

/-- A device virtual address field: bits [63:48] zero, and model space when the context is 0xFF (R359). -/
def vaFieldOk (ctx a : Nat) : Bool := a < 2 ^ 48 && (ctx != 0xFF || bitAt a 47)

/-- The fields of the descriptor are within their ranges (R361). -/
def Mod.descRangesOk (m : Mod) (d : BitVec 512) : Bool :=
  let k := descKind d
  let c := descCtx d
  if k = 0x02 then descFld d 8 1 0 ≤ 2
  else if k = 0x03 then descFld d 0x0E 15 0 ≤ 4096 && descFld d 0x18 31 0 ≤ 65536
  else if k = 0x04 then
    1 ≤ descFld d 0x18 47 0
      && (descFld d 0x1E 0 0 = 0 || vaFieldOk c (descFld d 0x08 63 0))
      && (descFld d 0x1E 1 1 = 0 || vaFieldOk c (descFld d 0x10 63 0))
  else if k = 0x05 ∨ k = 0x06 then Mod.hostSets m c (descFld d 8 11 0)
  else if k = 0x07 then
    descFld d 0x10 15 0 = 0 && descFld d 0x18 15 0 = 0
      && (descFld d 8 0 0 = 0 || descFld d 8 1 1 = 1 || c != 0xFF)
  else if k = 0x08 ∨ k = 0x09 then
    descFld d 0x10 5 0 = 0 && (descFld d 8 17 17 = 0 || vaFieldOk c (descFld d 0x10 63 0))
  else if k = 0x0A then descFld d 0x18 31 0 ≤ 1048576
  else if k = 0x0C then descFld d 0x10 15 0 < 64
  else if k = 0x0E then descFld d 8 7 0 ≤ 4 && descFld d 8 15 8 < 64
  else true

/-- The checks a descriptor passes when it is fetched (R361). -/
def Mod.descValid (m : Mod) (d : BitVec 512) : Bool :=
  let k := descKind d
  1 ≤ k && k ≤ 0x0E && (d.toNat &&& descUsed k) == d.toNat && Mod.descCtxOk m d && Mod.descRangesOk m d

/-- A ring has a descriptor the walker could fetch now (R357). -/
def Mod.fetchable (m : Mod) (n : Nat) : Bool :=
  let q := Mod.sq m n
  Mod.polls m n && q.tail != q.fetched && (Mod.cq m q.cqNum).enabled && 0 < (Mod.cq m q.cqNum).free

/-- Some ring of a class is fetchable. -/
def Mod.anyFetchable (m : Mod) (lc : Bool) : Bool :=
  (List.range 64).any fun n => (Mod.sq m n).lc == lc && Mod.fetchable m n

/-- The floor of R345 gives the next grant to the best-effort class. -/
def Mod.floorDue (m : Mod) : Bool :=
  bitAt m.sys.arb.toNat 0 && decide (15 ≤ m.host.lcGrants) && Mod.anyFetchable m false

/-- The ring walker's arbiter (R345, R357) lets ring `n` fetch now. -/
def Mod.granted (m : Mod) (n : Nat) : Bool :=
  if (Mod.sq m n).lc then !Mod.floorDue m else !Mod.anyFetchable m true || Mod.floorDue m

/-- Take a descriptor: count it, reserve its completion slot, remember it (R357). -/
def Mod.accept (m : Mod) (policy : Word) (n : Nat) (d : BitVec 512) : Mod :=
  let q := Mod.sq m n
  let c := Mod.cq m q.cqNum
  let waiting := Mod.anyFetchable m false
  let m1 := Mod.setSq m n { q with fetched := q.fetched + 1 }
  let m2 := Mod.setCq m1 q.cqNum { c with reserved := c.reserved + 1 }
  Mod.onHost m2 fun h => { h with
    flights := h.flights ++ [{ id := h.nextId, ring := n, raw := d, policy := policy }]
    nextId := h.nextId + 1
    lcGrants := if q.lc && waiting then h.lcGrants + 1 else 0 }

/-- DESCRIPTOR_FETCH on the module (R357, R361, R375). -/
def Mod.fetch (m : Mod) (policy : Word) (n : Nat) (d : BitVec 512) (linkOk : Bool) : Mod :=
  if !(Mod.fetchable m n && Mod.granted m n) then m
  else if !linkOk then Mod.ringError m n 2
  else
    let m1 := Mod.accept m policy n d
    let id := m.host.nextId
    if m.sys.failing && descKind d != 0x0E && descKind d != 0x0D then Mod.endFlight m1 id .deviceFailing 0 0
    else if !Mod.descValid m d then Mod.endFlight m1 id .descriptorInvalid 0 0
    else m1

/-- `DESCRIPTOR_FETCH` (R357). -/
def execDescriptorFetch (ring : Fin 64) (d : BitVec 512) (linkOk : Bool) (s : State) : Out :=
  .next (s.onMod fun m => Mod.fetch m s.mgt.policy ring d linkOk)

/-- A new count of a head record is taken only if it lies in range (R524). -/
def headTakes (last posted new : Nat) : Bool := ahead32 new last ≤ ahead32 posted last

/-- COMPLETION_HEAD_POLL on the module. -/
def Mod.headPoll (m : Mod) (n : Nat) (count : Word) : Mod :=
  let q := Mod.cq m n
  if Mod.walkerUp m && q.enabled && q.free == 0 && headTakes q.head.toNat q.posted.toNat count.toNat then
    Mod.drainEvents (Mod.setCq m n { q with head := count }) 257
  else m

/-- `COMPLETION_HEAD_POLL` (R524). -/
def execCompletionHeadPoll (cq : Fin 64) (count : Word) (s : State) : Out :=
  .next (s.onMod fun m => Mod.headPoll m cq count)

/-- COALESCING_TIMER on the module: the time threshold is on and a record is not yet covered. -/
def Mod.coalTimer (m : Mod) (n : Nat) : Mod :=
  let q := Mod.cq m n
  if q.enabled && fld q.ctrl.toNat 41 32 != 0 && q.sinceMsg != 0 then Mod.sendRing m n else m

/-- `COALESCING_TIMER` (R373). -/
def execCoalescingTimer (cq : Fin 64) (s : State) : Out := .next (s.onMod fun m => Mod.coalTimer m cq)

/-! ## Control registers -/

/-- An enabled submission ring completes into ring `n`. -/
def Mod.cqUsed (m : Mod) (n : Nat) : Bool :=
  (List.range 64).any fun r => (Mod.sq m r).enabled && (Mod.sq m r).cqNum == n

/-- HIF_SQ_CTRL_n's writable fields besides enable: class, cq, size_log2. -/
def sqCtrlMask : Nat := 0x001F_3F02

/-- Write HIF_SQ_CTRL_n (R517). -/
def Mod.writeSqCtrl (m : Mod) (n : Nat) (v : Word) : Mod :=
  let q := Mod.sq m n
  if q.enabled then
    if bitAt v.toNat 0 then m
    else Mod.setSq m n { q with ctrl := q.ctrl &&& 0xFFFF_FFFE, stopped := false, active := false, kick := none }
  else
    let fields : Word := v &&& BitVec.ofNat 32 sqCtrlMask
    let cq := fld v.toNat 13 8
    let ok := (Mod.cq m cq).enabled && Mod.eventRing m != some cq
    if bitAt v.toNat 0 && ok then
      Mod.setSq m n { q with
        ctrl := fields ||| 1, stopped := false, fetched := 0, active := false, tail := 0, kick := none }
    else Mod.setSq m n { q with ctrl := fields, stopped := false }

/-- `HIF_SQ_CTRL_WRITE` (R517). -/
def execHifSqCtrlWrite (ring : Fin 64) (v : Word) (s : State) : Out :=
  .next (s.onReg fun m => Mod.writeSqCtrl m ring v)

/-- HIF_CQ_CTRL_n's writable fields besides enable. -/
def cqCtrlMask : Nat := 0x0000_03FF_FFFF_1F00

/-- Write HIF_CQ_CTRL_n (R352, R517). -/
def Mod.writeCqCtrl (m : Mod) (n : Nat) (v : DWord) : Mod :=
  let q := Mod.cq m n
  if q.enabled then
    if bitAt v.toNat 0 || Mod.cqUsed m n || q.reserved != 0 then m
    else Mod.setCq m n { q with ctrl := q.ctrl &&& BitVec.ofNat 64 cqCtrlMask }
  else
    let fields : DWord := v &&& BitVec.ofNat 64 cqCtrlMask
    if bitAt v.toNat 0 then
      Mod.drainEvents (Mod.setCq m n { q with
        ctrl := fields ||| 1, phase := true, posted := 0, reserved := 0, head := 0, sinceMsg := 0 }) 257
    else Mod.setCq m n { q with ctrl := fields }

/-- `HIF_CQ_CTRL_WRITE` (R517). -/
def execHifCqCtrlWrite (cq : Fin 64) (v : DWord) (s : State) : Out :=
  .next (s.onReg fun m => Mod.writeCqCtrl m cq v)

/-- Write HIF_CTRL (R518); `noBar4` is SEC_POLICY no_bar4, which holds bar4_enable at 0. -/
def Mod.writeHifCtrl (m : Mod) (noBar4 : Bool) (v : Word) : Mod :=
  let old := m.host.ctrl.toNat
  let ring := fld v.toNat 13 8
  let ring := if bitAt old 15 || Mod.cqUsed m ring then fld old 13 8 else ring
  let en := if bitAt v.toNat 15 then bitAt old 15 || !Mod.cqUsed m ring else false
  let c := fld v.toNat 0 0 + (if noBar4 then 0 else 2 * fld v.toNat 1 1) + 256 * ring + 32768 * b2n en
  Mod.drainEvents (Mod.onHost m fun h => { h with ctrl := BitVec.ofNat 32 c }) 257

/-- SEC_POLICY no_bar4 (R486). -/
def State.noBar4 (s : State) : Bool := bitAt s.mgt.policy.toNat 2

/-- `HIF_CTRL_WRITE` (R518). -/
def execHifCtrlWrite (v : Word) (s : State) : Out :=
  .next (s.onReg fun m => Mod.writeHifCtrl m s.noBar4 v)

/-- MMU_FAULT_CTRL's writable fields besides enable. -/
def faultCtrlMask : Nat := 0x3FFF_1F00

/-- Write MMU_FAULT_CTRL (R517, R520): an enable from 0 to 1 starts the ring afresh at record 0 with phase 1; at a
disable, records not yet answered count as unanswered. -/
def Mod.writeFaultCtrl (m : Mod) (v : Word) : Mod :=
  let r := m.flt
  if r.enabled then
    if bitAt v.toNat 0 then m
    else { m with flt := { r with
        ctrl := r.ctrl &&& BitVec.ofNat 32 faultCtrlMask
        recs := r.recs.map fun x => { x with orphan := true } } }
  else
    let fields : Word := v &&& BitVec.ofNat 32 faultCtrlMask
    if bitAt v.toNat 0 then
      Mod.drainFaults { m with flt := { r with ctrl := fields ||| 1, index := 0, phase := true, head := 0 } }
        r.buffered.length
    else { m with flt := { r with ctrl := fields } }

/-- `MMU_FAULT_CTRL_WRITE` (R520). -/
def execMmuFaultCtrlWrite (v : Word) (s : State) : Out := .next (s.onReg fun m => Mod.writeFaultCtrl m v)

/-! ## BAR4, power state, ATS -/

/-- What an access through BAR4 reads, or the state after a write (R350, R519). -/
def State.bar4 (s : State) (off len : Nat) (wr : Option (List Byte)) : State :=
  let pa := s.mod.host.bar4Base.toNat + off
  if !s.mod.sys.cfgReady || !bitAt s.mod.host.ctrl.toNat 1 then { s with resp := { ur := true } }
  else match wr with
    | some bs => { s with mod := Mod.physWrite s.mod pa bs false, resp := {} }
    | none =>
      if Mod.paAbsent s.mod pa then { s with resp := { data := rdBytes s.mod.mem.gddr pa len, poison := true } }
      else if inReserve pa then { s with resp := { data := List.replicate len 0 } }
      else
        let r := Mod.physRead s.mod pa len
        { s with resp := { data := r.1, poison := r.2 } }

/-- `BAR4_ACCESS` (R519). -/
def execBar4Access (off : Nat) (len : Nat) (wr : Option (List Byte)) (s : State) : Out := .next (s.bar4 off len wr)

/-- D3HOT_TRANSITION on the module: D3hot is accepted only while no context exists (R348). -/
def Mod.d3 (m : Mod) (tgt : Bool) : Mod :=
  if tgt && Mod.liveContexts m != 0 then m else Mod.onHost m fun h => { h with d3hot := tgt }

/-- `D3HOT_TRANSITION` (R348). -/
def execD3hotTransition (toD3 : Bool) (s : State) : Out := .next (s.onMod fun m => Mod.d3 m toD3)

/-- `ATS_INVALIDATION_REQUEST` (R349): the translation cache drops the pages of the range. Requests are whole steps,
so none is in flight when it completes. -/
def execAtsInvalidationRequest (addr len : Nat) (s : State) : Out :=
  .next (s.onMod fun m => Mod.onHost m fun h =>
    { h with atc := h.atc.filter fun p => decide (p.1 * 4096 + 4096 ≤ addr ∨ addr + len ≤ p.1 * 4096) })

/-- End a page request without a translation: a host_access_error record (R228, R349). -/
def Mod.pageReqFailed (m : Mod) (r : PageReq) : Mod :=
  (Mod.raiseFault m .hostAccessError .coreDma r.ctx r.addr false r.unit 0 0 0 false none).1

/-- A page request is answered or times out (R349). -/
def Mod.pageReqEnd (m : Mod) (idx : Nat) (success : Bool) : Mod :=
  match m.host.pageReqs.find? (·.idx == idx) with
  | none => m
  | some r =>
    let m1 := Mod.onHost m fun h => { h with pageReqs := h.pageReqs.filter (·.idx != idx) }
    if success then Mod.onHost m1 fun h => { h with atc := ((r.addr / 4096, r.addr / 4096) :: h.atc).take 512 }
    else Mod.pageReqFailed m1 r

/-- `PAGE_REQUEST_RESPONSE` (R349). -/
def execPageRequestResponse (idx : Nat) (success : Bool) (s : State) : Out :=
  .next (s.onMod fun m => Mod.pageReqEnd m idx success)

/-- `PAGE_REQUEST_TIMEOUT` (R349): as a failure response. -/
def execPageRequestTimeout (idx : Nat) (s : State) : Out := .next (s.onMod fun m => Mod.pageReqEnd m idx false)

end Sys2Proof.Machine
end

