-- ==== Sys2Proof/Machine/ConvUnit.lean ====
section
/-!
DEFINITION. The convolution engine: line-buffer declarations (R116, R304), direct convolution (R112 to R132, R305), and
the halo exchange (R133 to R135, R306). A CONV runs whole; its order of sums is that of R124.
-/
namespace Sys2Proof.Machine

open Sys2Proof

/-! ## LBDECL -/

/-- Declare a line buffer (R116, R304): it replaces the earlier declaration, and its rows are untagged. -/
def Mod.lbdecl (c : Nat) (p : PvisWords) (m : Mod) : Mod :=
  let f := PvisWords.f p
  let x1 := PvisWords.x1 p
  Mod.modCore m c fun y =>
    let first := if x1 63 63 = 1 then signed 32 (y.reg (x1 62 58)).toNat else signed 17 (x1 16 0)
    let b : LineBuf := { valid := true, baseLine := f 41 32, slots := f 31 25, pixels := f 24 16 + 1, blocks := f 14 9 + 1
                         firstCol := first, scale := f 8 8 == 1 }
    { y with
      lineBufs := sset {} y.lineBufs (f 43 42) b
      rowTags := y.rowTags.filter fun t => t.1 / 64 != f 43 42 }

/-! ## CONV: fields -/

/-- The fields of a CONV (R305). -/
structure ConvShape where
  lb : Nat
  kh : Nat
  kw : Nat
  dh : Nat
  dw : Nat
  sh : Nat
  sw : Nat
  pad : Nat
  fi : Nat
  ff : Nat
  facIn : Nat
  facOut : Nat
  plh : Nat
  phh : Nat
  plw : Nat
  phw : Nat
  const : Nat
  filt : Nat
  inH : Nat
  inW : Nat
  cin : Nat
  cout : Nat
  inObj : Nat
  outObj : Nat
  inOff : Nat
  outOff : Nat
  row0 : Nat
  rows : Nat
  deriving DecidableEq, Repr, Inhabited

/-- Read a CONV's words. -/
def convShape (y : Core) (p : PvisWords) : ConvShape :=
  let f := PvisWords.f p
  let x1 := PvisWords.x1 p
  let x2 := PvisWords.x2 p
  let x3 := PvisWords.x3 p
  let r (i : Nat) : Nat := (y.reg i).toNat
  let fi := f 13 10
  { lb := f 43 42, kh := f 41 36, kw := f 35 30, dh := f 29 27 + 1, dw := f 26 24 + 1, sh := f 23 20 + 1, sw := f 19 16 + 1
    pad := f 15 14, fi := fi, ff := f 9 6, facIn := 2 ^ f 5 4, facOut := 2 ^ f 3 2
    plh := x1 63 56, phh := x1 55 48, plw := x1 47 40, phw := x1 39 32
    const := if elemBits fi = 16 then x1 31 16 else x1 23 16, filt := x1 15 0
    inH := val16 y.regs (x2 63 48), inW := val16 y.regs (x2 47 32)
    cin := extent16 y.regs (x2 31 16), cout := extent16 y.regs (x2 15 0)
    inObj := x3 63 48, outObj := x3 47 32, inOff := r (x3 31 27), outOff := r (x3 26 22), row0 := r (x3 21 17)
    rows := x3 16 0 + 1 }

/-- Output size in one dimension (R125); 0 where it is zero or less. -/
def outSize (n lo hi dil k stride : Nat) : Nat :=
  let a : Int := (n : Int) + lo + hi - dil * (k - 1 : Int) - 1
  if a < 0 then 0 else a.toNat / stride + 1

/-- A CONV's output height. -/
def ConvShape.outH (a : ConvShape) : Nat := outSize a.inH a.plh a.phh a.dh a.kh a.sh

/-- A CONV's output width. -/
def ConvShape.outW (a : ConvShape) : Nat := outSize a.inW a.plw a.phw a.dw a.kw a.sw

/-- Reflect padding mirrored an index more than once (R127). -/
def ConvShape.periodic (a : ConvShape) : Bool :=
  a.pad == 3 && (decide (a.inH - 1 < max a.plh a.phh) || decide (a.inW - 1 < max a.plw a.phw))

/-- What a source index gives (R128): a constant position, or a pixel inside the input. -/
def mapIndex (mode n : Nat) (i : Int) : Option Nat :=
  if 0 ≤ i ∧ i < n then some i.toNat
  else if mode = 2 then some (if i < 0 then 0 else n - 1)
  else if mode = 3 then
    if n ≤ 1 then some 0
    else
      let q := (i % (2 * (n - 1) : Nat)).toNat
      some (if q < n then q else 2 * (n - 1) - q)
  else none

/-! ## Fills -/

/-- Channel blocks of a CONV's input (R114). -/
def ConvShape.blocks (a : ConvShape) : Nat := ceilDiv a.cin (blockB a.fi)

/-- Dimension `i` of a tensor object from its end (0 the last), or a default. -/
def Mod.dimFromEnd (m : Mod) (k obj i d : Nat) : Nat :=
  match Mod.objDecl m k obj with
  | some (o : ObjDecl) => match o.kind with
    | .tensor ds => let r := ds.reverse; if nth 0 r i = 0 then d else nth 0 r i
    | _ => d
  | none => d

/-- The pixels of input row `r`, columns [lo, lo + n) that lie in the input, as rows of channels (R114, R131): block
lines of a blocked map, regrouped pixels of a plain one. -/
def Mod.convPixels (m : Mod) (c k : Nat) (a : ConvShape) (r lo n : Nat) : AccFault ⊕ (List XRow × Bool) :=
  let base := (Mod.objVa m k a.inObj) + a.inOff
  let B := blockB a.fi
  if a.facIn = 1 then
    let rec blk : Nat → AccFault ⊕ (List (List Byte × List Byte) × Bool)
      | 0 => .inr ([], false)
      | b + 1 =>
        match blk b with
        | .inl f => .inl f
        | .inr (rs, po) =>
          match Mod.dmaRead m c (base + ((b * a.inH + r) * a.inW + lo) * 32) (n * 32) with
          | .inl f => .inl f
          | .inr (bs, p) =>
            if isMx a.fi then
              match Mod.dmaRead m c (base + a.blocks * a.inH * a.inW * 32 + (b * a.inH + r) * a.inW + lo) n with
              | .inl f => .inl f
              | .inr (sc, q) => .inr (rs ++ [(bs, sc)], po || p || q)
            else .inr (rs ++ [(bs, [])], po || p)
    match blk a.blocks with
    | .inl f => .inl f
    | .inr (bs, po) => .inr ((List.range n).map fun i =>
        { bits := bs.flatMap fun b => (List.range B).map fun ch => elemAt a.fi b.1 (i * B + ch)
          scales := if isMx a.fi then bs.map fun b => (nth 0x7F b.2 i).toNat else [] }, po)
  else
    let f := a.facIn
    let C := a.cin / (f * f)
    let W := Mod.dimFromEnd m k a.inObj 1 (a.inW * f)
    let H := Mod.dimFromEnd m k a.inObj 2 (a.inH * f)
    let e := memRowBytes a.fi C
    let rec src : Nat → AccFault ⊕ (List (List Byte) × Bool)
      | 0 => .inr ([], false)
      | dy + 1 =>
        match src dy with
        | .inl f => .inl f
        | .inr (rs, po) =>
          if H ≤ r * f + dy then .inr (rs ++ [[]], po)
          else match Mod.dmaRead m c (base + (r * f + dy) * W * e) (W * e) with
            | .inl f => .inl f
            | .inr (bs, p) => .inr (rs ++ [bs], po || p)
    match src f with
    | .inl g => .inl g
    | .inr (rs, po) =>
      let px (X : Nat) : XRow := { bits := rs.flatMap fun row => (List.range f).flatMap fun dx =>
        (rowOfBytes a.fi C ((row.drop ((X * f + dx) * e)).take e)).bits }
      .inr ((List.range n).map fun i => px (lo + i), po)

/-- Fill the slot of input row `r` if its tag is another (R117): the segment's columns inside the input, zeros beyond. -/
def Mod.convFill (m : Mod) (c k : Nat) (a : ConvShape) (r : Nat) : Mod × Option AccFault × Bool :=
  let y := Mod.core m c
  let b : LineBuf := sget {} y.lineBufs a.lb
  if sget 0 y.rowTags (a.lb * 64 + r % max 1 b.slots) = (r : Int) + 1 then (m, none, false)
  else
    let lo := b.firstCol.toNat
    let skip := (-b.firstCol).toNat
    let n := min (a.inW - lo) (b.pixels - skip)
    match Mod.convPixels m c k a r lo n with
    | .inl f => (m, some f, false)
    | .inr (px, po) =>
      let z : XRow := { bits := List.replicate (a.blocks * blockB a.fi) 0
                        scales := if isMx a.fi then List.replicate a.blocks 0x7F else [] }
      let all := List.replicate skip z ++ px ++ List.replicate (b.pixels - skip - n) z
      let m1 := Mod.fillSlot m c a.lb r (blockLines a.fi (blockRows a.fi (a.blocks * blockB a.fi) all)) po
      (Mod.visor m1 (c / 16) 0x0A b.slotLines, none, po)

/-- Fill the rows of a list in order. -/
def Mod.convFills (m : Mod) (c k : Nat) (a : ConvShape) : List Nat → Mod × Option AccFault
  | [] => (m, none)
  | r :: rs =>
    match Mod.convFill m c k a r with
    | (m1, some f, _) => (m1, some f)
    | (m1, none, _) => Mod.convFills m1 c k a rs

/-! ## Windows and tiles -/

/-- What the window unit brings for one pixel position. -/
inductive Pix where
  /-- a padded position: zero or the constant (R128, R129) -/
  | pad
  /-- a pixel of a slot: first line of its segment pixel -/
  | at_ (row p : Nat)
  /-- a row tag or a column that does not match (R118) -/
  | wrong
  deriving DecidableEq, Repr, Inhabited

/-- The pixel a tap meets at output (y, x), with its row tag and segment checked (R112, R118, R128). -/
def convPix (y : Core) (a : ConvShape) (oy ox ky kx : Nat) : Pix :=
  let r : Int := (oy * a.sh : Nat) - (a.plh : Int) + (ky * a.dh : Nat)
  let q : Int := (ox * a.sw : Nat) - (a.plw : Int) + (kx * a.dw : Nat)
  match mapIndex a.pad a.inH r, mapIndex a.pad a.inW q with
  | some row, some col =>
    let b : LineBuf := sget {} y.lineBufs a.lb
    if sget 0 y.rowTags (a.lb * 64 + row % max 1 b.slots) ≠ (row : Int) + 1 then .wrong
    else if (col : Int) < b.firstCol ∨ b.firstCol + b.pixels ≤ col then .wrong
    else .at_ row (col - b.firstCol).toNat
  | _, _ => .pad

/-- Element of channel `ch` of a pixel, with its scale: its exact value, its bits, and poison. -/
def Mod.pixElem (m : Mod) (c : Nat) (a : ConvShape) (px : Pix) (ch : Nat) : Fv × Nat × Bool :=
  match px with
  | .at_ row p =>
    let b : LineBuf := sget {} (Mod.core m c).lineBufs a.lb
    let B := blockB a.fi
    let per := b.pixels + (if b.scale then ceilDiv b.pixels 32 else 0)
    let blk := b.slotLine row + ch / B * per
    let line := blk + p
    let off := line * 32 + ch % B * (elemBits a.fi / 8)
    let v := if elemBits a.fi = 16 then (Mod.spadByte m c off).toNat + 256 * (Mod.spadByte m c (off + 1)).toNat
      else (Mod.spadByte m c off).toNat
    let sc := if b.scale then (Mod.spadByte m c ((blk + b.pixels) * 32 + p)).toNat else 0x7F
    (scaled a.fi v sc, v, Mod.spadPoisoned m c (line * 32) 32)
  | _ =>
    let v := if a.pad = 1 then a.const else 0
    (scaled a.fi v 0x7F, v, false)

/-- The stationary tiles of a CONV in their order (R112, R123, R124): ky, channel block, kx, 8 channels of the block. -/
def convTaps (a : ConvShape) : List (Nat × Nat × Nat × Nat) :=
  let B := blockB a.fi
  let pass (k : Nat) : List (List Nat) := (List.range (ceilDiv k 7)).map fun i => (List.range (min 7 (k - 7 * i))).map (7 * i + ·)
  (pass a.kh).flatMap fun hs => (pass a.kw).flatMap fun ws =>
    hs.flatMap fun ky => (List.range a.blocks).flatMap fun b => ws.flatMap fun kx =>
      (List.range (ceilDiv (min B (a.cin - b * B)) 8)).map fun s => (ky, b, kx, s)

/-- Bytes of the filter tiles of one tap and block (R64). -/
def tapBytes (a : ConvShape) : Nat := ceilDiv (blockB a.fi) (tileDepth a.ff) * (if elemBits a.ff = 16 then 128 else 64)

/-- Taps of a CONV: filter rows × blocks × filter columns, in the order of R112 within passes. -/
def tapIndex (a : ConvShape) (ky b kx : Nat) : Nat :=
  let h := ky / 7
  let w := kx / 7
  let hh := min 7 (a.kh - 7 * h)
  let ww := min 7 (a.kw - 7 * w)
  (7 * h * a.kw + hh * 7 * w) * a.blocks + ((ky % 7) * a.blocks + b) * ww + kx % 7

/-- Bytes of a filter's tiles for one group of 8 output channels, and of its scales after all groups. -/
def groupBytes (a : ConvShape) : Nat := a.kh * a.kw * a.blocks * tapBytes a

/-- The bytes of a CONV's filter: tiles of every group, then the scales of MX filters, 8 bytes a tap and block. -/
def filterBytes (a : ConvShape) : Nat :=
  let g := ceilDiv a.cout 8
  g * groupBytes a + (if isMx a.ff then g * a.kh * a.kw * a.blocks * 8 else 0)

/-- A filter element and its scale: channel `ch` of block b, tap (ky, kx), output channel o. -/
def filtElem (a : ConvShape) (rd : Nat → Byte) (ky b kx ch o : Nat) : Fv × Nat :=
  let g := o / 8
  let t := tapIndex a ky b kx
  let bits := statElem (fun i => rd (g * groupBytes a + t * tapBytes a + i)) false 0 a.ff ch (o % 8)
  let sc := (rd (ceilDiv a.cout 8 * groupBytes a + (g * a.kh * a.kw * a.blocks + t) * 8 + o % 8)).toNat
  (scaled a.ff bits sc, bits)

/-- The output of one pixel and channel: the accumulator word, saturation and poison (R59, R76, R124). -/
def Mod.convOut (m : Mod) (c : Nat) (a : ConvShape) (rd : Nat → Byte) (oy ox o : Nat) : Word × Bool × Bool :=
  let y := Mod.core m c
  let int := a.fi == 0xB
  let B := blockB a.fi
  let step (acc : Word × Bool × Bool) (t : Nat × Nat × Nat × Nat) : Word × Bool × Bool :=
    let (ky, b, kx, s) := t
    let px := convPix y a oy ox ky kx
    let chs := (List.range 8).filter fun i => s * 8 + i < B && b * B + s * 8 + i < a.cin
    let vals := chs.map fun i => (Mod.pixElem m c a px (b * B + s * 8 + i), filtElem a rd ky b kx (s * 8 + i) o)
    let po := acc.2.2 || vals.any fun v => v.1.2.2
    if int then
      let col := satSum (0, false) (vals.map fun v => intElem a.fi v.1.2.1 * intElem a.ff v.2.2)
      let r := satAdd (signed 32 acc.1.toNat) col.1
      (BitVec.ofNat 32 (unsigned 32 r.1), acc.2.1 || col.2 || r.2, po)
    else (fadd acc.1 (colSum (vals.map fun v => f32 (toF32 (v.1.1.mul v.2.1)))), acc.2.1, po)
  (convTaps a).foldl step (0, false, false)

/-- The gate stage of a CONV: the GATE that follows it in its role (R305). -/
def Mod.nextGate (m : Mod) (c : Nat) : Option PvisWords :=
  let y := Mod.core m c
  let p := pvisAt (Cluster.bank (Mod.cluster m (c / 16)) y.bank).words y.pc
  if PvisWords.op p = 0x30 && pvisOk p then some p else none

/-- Results of a tile of a CONV: rows of 8 bits each in the output's core format, condition bits, poison. -/
def Mod.convTile (m : Mod) (c : Nat) (a : ConvShape) (rd : Nat → Byte) (gate : Option PvisWords) (tile oy x0 g : Nat) :
    Mod × List (List Nat) × Nat × Bool :=
  let y := Mod.core m c
  let n := min 8 (a.outW - x0)
  let int := a.fi == 0xB
  let rows := (List.range n).map fun t => (List.range 8).map fun j =>
    if g * 8 + j < a.cout then Mod.convOut m c a rd oy (x0 + t) (g * 8 + j) else (0, false, false)
  let word (t : Nat) (w : Word) (j : Nat) : Word := if int then w else arrayWord m.free (t * 8 + j) w
  let ws := (List.range n).map fun t => let row := nth [] rows t
    (List.range 8).map fun j => word t (nth (0, false, false) row j).1 j
  let all := ws.flatMap id
  let acond := if int then 4 * b2n (rows.any fun r => r.any fun v => v.2.1) else accCond all
  let po := rows.any fun r => r.any fun v => v.2.2
  let m1 := Mod.bumpFree m
  match gate with
  | none => (m1, ws.map fun r => r.map BitVec.toNat, acond, po)
  | some p =>
    let f := PvisWords.f p 39 36
    let go (acc : Mod × List (List Nat) × Nat) (t : Nat) : Mod × List (List Nat) × Nat :=
      let x : ECmd := { op := 0x30, p := p, regs := y.regs, t := t, tile := tile }
      let q := drainEntry ((nth [] ws t).flatMap fun w => leBytes 4 w.toNat) false false int (8 - (a.cout - g * 8))
      let r := gateRow y x q
      let d := Mod.srWords acc.1 c 8 (PvisWords.f p 35 35 == 1)
      let nr := narrowRow f ((r.push).getD []) d.2 q.valid
      (d.1, acc.2.1 ++ [elemsOf f nr.1], acc.2.2 ||| (r.cond ||| nr.2) * 16)
    let r := (List.range n).foldl go (m1, [], acond)
    let y1 : ECmd := { op := 0x30, p := p, regs := y.regs }
    (Mod.visor r.1 (c / 16) 0x06 n, r.2.1, r.2.2, po || y.rowsPoison y1)

/-- One output row: its pixels' channels, in groups of 8 pixels and 8 channels (R112). -/
def Mod.convLine (m : Mod) (c : Nat) (a : ConvShape) (rd : Nat → Byte) (gate : Option PvisWords) (oy : Nat) :
    Mod × List XRow × Nat × Bool :=
  let gs := ceilDiv a.cout 8
  let xs := ceilDiv a.outW 8
  let group (acc : Mod × List (List Nat) × Nat × Bool) (i : Nat) : Mod × List (List Nat) × Nat × Bool :=
    let xg := i / gs
    let g := i % gs
    let tile := ((oy - a.row0) * xs + xg) * gs + g
    let r := Mod.convTile acc.1 c a rd gate tile oy (xg * 8) g
    -- pixels of the group gain the 8 channels of g
    let base := xg * 8
    let grow (l : List (List Nat)) (t : Nat) : List (List Nat) :=
      let l := if l.length ≤ base + t then l ++ [[]] else l
      setNth l (base + t) (nth [] l (base + t) ++ nth [] r.2.1 t)
    let l := (List.range r.2.1.length).foldl grow acc.2.1
    let m1 := Mod.visor (Mod.visor r.1 (c / 16) 0x02 1) (c / 16) 0x01 (convTaps a).length
    (m1, l, acc.2.2.1 ||| r.2.2.1, acc.2.2.2 || r.2.2.2)
  let r := (List.range (gs * xs)).foldl group (m, [], 0, false)
  (r.1, r.2.1.map fun b => { bits := b.take a.cout }, r.2.2.1, r.2.2.2)

/-! ## Stores -/

/-- Format of the CONV's results in the core: the GATE's, else FP32 or INT32. -/
def convFmt (a : ConvShape) (gate : Option PvisWords) : Nat :=
  match gate with | some p => PvisWords.f p 39 36 | none => if a.fi = 0xB then 0xD else 0x0

/-- The writes of one output row (R114, R132, R305): address and bytes, and whether a narrowing saturated. -/
def Mod.convStore (m : Mod) (k : Nat) (a : ConvShape) (cf oy : Nat) (px : List XRow) : List (Nat × List Byte) × Bool :=
  let base := (Mod.objVa m k a.outObj) + a.outOff
  let decl := Mod.objDecl m k a.outObj
  let of_ := match decl with | some (o : ObjDecl) => o.format | none => cf
  let lay := match decl with | some (o : ObjDecl) => o.layout | none => 0
  if 1 < a.facOut then
    let f := a.facOut
    let C := a.cout / (f * f)
    let W := Mod.dimFromEnd m k a.outObj 1 (a.outW * f)
    let H := Mod.dimFromEnd m k a.outObj 2 (a.outH * f)
    let e := memRowBytes of_ C
    let ws := (List.range f).flatMap fun dy => (List.range (min W (a.outW * f))).filterMap fun X =>
      let q : XRow := nth default px (X / f)
      let row : XRow := { bits := (q.bits.drop ((dy * f + X % f) * C)).take C }
      let r := convRow cf of_ false [] row
      if H ≤ oy * f + dy then none else some ((base + ((oy * f + dy) * W + X) * e, rowBytes of_ r.1), r.2)
    (ws.map (·.1), ws.any (·.2))
  else if lay = 3 then
    let B := blockB of_
    let ws := (List.range px.length).flatMap fun X => (List.range (ceilDiv a.cout B)).flatMap fun b =>
      let t := ((nth default px X).bits.drop (b * B)).take B
      let r := convRow cf of_ false [] { bits := t ++ List.replicate (B - t.length) 0 }
      let at_ := (b * a.outH + oy) * a.outW + X
      [((base + at_ * 32, packElems of_ r.1.bits), r.2)]
        ++ (if isMx of_ then
          [((base + ceilDiv a.cout B * a.outH * a.outW * 32 + at_, r.1.scales.map (BitVec.ofNat 8 ·)), false)] else [])
    (ws.map (·.1), ws.any (·.2))
  else
    let C := Mod.dimFromEnd m k a.outObj 0 a.cout
    let e := memRowBytes of_ C
    let ws := (List.range px.length).map fun X =>
      let r := convRow cf of_ false [] (nth default px X)
      ((base + (oy * a.outW + X) * e, rowBytes of_ r.1), r.2)
    (ws.map (·.1), ws.any (·.2))

/-! ## CONV -/

/-- The input rows an output row's windows reach, after mapping, in rising order of taps (R128 to R130). -/
def rowsNeeded (a : ConvShape) (oy : Nat) : List Nat :=
  ((List.range a.kh).filterMap fun ky =>
    mapIndex a.pad a.inH ((oy * a.sh : Nat) - (a.plh : Int) + (ky * a.dh : Nat))).eraseDups

/-- Every pixel the row's windows read stands in its slot (R118). -/
def windowOk (y : Core) (a : ConvShape) (oy : Nat) : Bool :=
  (List.range a.outW).all fun ox => (List.range a.kh).all fun ky => (List.range a.kw).all fun kx =>
    convPix y a oy ox ky kx != .wrong

/-- How a CONV leaves off. -/
inductive ConvEnd where
  | done (m : Mod) (cond : Nat) (poison : Bool)
  | fault (m : Mod) (f : AccFault) (row : Nat)
  | window (m : Mod)
  deriving Inhabited

/-- Run output rows from `i` on, `n` of them. -/
def Mod.convRows (m : Mod) (c k : Nat) (a : ConvShape) (rd : Nat → Byte) (gate : Option PvisWords) (cond : Nat)
    (po : Bool) : Nat → Nat → ConvEnd
  | 0, _ => .done m cond po
  | n + 1, i =>
    let oy := a.row0 + i
    if a.outH ≤ oy then .done m cond po
    else match Mod.convFills m c k a (rowsNeeded a oy) with
      | (m1, some f) => .fault m1 f i
      | (m1, none) =>
        if !windowOk (Mod.core m1 c) a oy then .window m1
        else
          let r := Mod.convLine m1 c a rd gate oy
          let st := Mod.convStore r.1 k a (convFmt a gate) oy r.2.1
          let p := po || r.2.2.2
          match Mod.dmaWrites r.1 c p st.1 with
          | (m2, some f) => .fault m2 f i
          | (m2, none) => Mod.convRows m2 c k a rd gate (cond ||| r.2.2.1 ||| 64 * b2n st.2) p n (i + 1)

/-- The filter's bytes: from its object's place, or from its lines in a scratchpad region. -/
def Mod.filterOf (m : Mod) (c k : Nat) (a : ConvShape) : AccFault ⊕ ((Nat → Byte) × Bool) :=
  match Mod.objPlace m k a.filt, Mod.objLine m k a.filt with
  | none, some l => .inr (fun i => Mod.spadByte m c (l * 32 + i), Mod.spadPoisoned m c (l * 32) (filterBytes a))
  | _, _ =>
    match Mod.dmaRead m c (Mod.objVa m k a.filt) (filterBytes a) with
    | .inl f => .inl f
    | .inr (bs, po) => .inr (fun i => nth 0 bs i, po)

/-- CONV on a core that has fetched it (R112 to R132, R305). -/
def Mod.conv (c : Nat) (p : PvisWords) (tokPoison : Bool) (m : Mod) : Mod :=
  let y := Mod.core m c
  let k := Mod.ctxOf m c
  let a := convShape y p
  let b : LineBuf := sget {} y.lineBufs a.lb
  let gate := Mod.nextGate m c
  -- a GATE that serves as the gate stage is not run again (R305)
  let skip (x : Mod) : Mod := match gate with | some g => Mod.modCore x c fun z => Core.fetched z g | none => x
  if a.outH = 0 ∨ a.outW = 0 then
    skip (Mod.macroPush (Mod.zeroOut c m) c p tokPoison)
  else if !b.valid || !Mod.linesOk m c b.baseLine (b.slots * b.slotLines) true then Mod.regionKill m c b.baseLine
  else match Mod.filterOf m c k a with
    | .inl f => Mod.parkCore m c p f .coreDma 0
    | .inr (rd, fpo) =>
      match Mod.convRows m c k a rd gate 0 (tokPoison || fpo) a.rows 0 with
      | .fault m1 f i => Mod.parkCore m1 c p f .coreDma i
      | .window m1 => Mod.kill m1 c .windowRange .engine 0 a.lb
      | .done m1 cond po =>
        let m2 := Mod.orCond m1 c (cond ||| 512 * b2n a.periodic)
        skip (Mod.macroPoison (Mod.macroPush m2 c p po) c po)

/-! ## Halo exchange -/

/-- A halo slot pair's declaration: producer and consumer roles, rows and flags (R134, R267). -/
structure Halo where
  producer : Nat
  consumer : Nat
  rows : Nat
  flagA : Nat
  flagB : Nat
  bytes : Nat
  deriving DecidableEq, Repr, Inhabited

/-- The halo slot pair of an object number. -/
def Mod.halo (m : Mod) (k n : Nat) : Option Halo :=
  match Mod.objDecl m k n with
  | some (o : ObjDecl) => match o.kind with
    | .halo pr co r a b => some ⟨pr, co, r, a, b, o.bytes⟩
    | _ => none
  | none => none

/-- Lines of one halo row: half the object holds the rows of one slot. -/
def Halo.rowLines (h : Halo) : Nat := ceilDiv (h.bytes / 2) (max 1 h.rows * 32)

/-- First line of slot A or B of a pair. -/
def Mod.haloLine (m : Mod) (k n : Nat) (h : Halo) (b : Bool) : Nat :=
  (Mod.objLine m k n).getD 1024 + (if b then h.rows * h.rowLines else 0)

/-- The mirror pair of a halo object's flag, held per core of the cluster (R325). -/
def haloPair (n : Nat) : Nat := 65536 + n

/-- This core's copy of a slot's flag. -/
def Mod.haloFlag (m : Mod) (c k n v : Nat) (consumer : Bool) : Bool :=
  Mod.mirror m (c / 16) (mirrorKey (haloPair n) (c % 16) k v consumer)

/-- Steps 2 and 3 of R134: copy the rows into the consumer's slot and set its flag. False when the consumer's context
is not in its cluster (R388): the write waits. -/
def Mod.haloSend (m : Mod) (c : Nat) (p : PvisWords) : Mod × Bool :=
  let k := Mod.ctxOf m c
  let n := PvisWords.x1 p 63 48
  match Mod.ctx m k, Mod.halo m k n with
  | some x, some h =>
    match Image.counterpart x.image (c / 16) h.consumer with
    | none => (m, true)
    | some l =>
      let t := l * 16 + c % 16
      let slot := sget false (Mod.core m c).haloNext n
      let y := Mod.core m c
      let src := val16 y.regs (PvisWords.x1 p 47 32)
      let cnt := min (extent16 y.regs (PvisWords.x1 p 31 16)) h.rows * h.rowLines
      let dst := Mod.haloLine m k n h slot
      if (Mod.core m t).ctx ≠ some k then (Mod.visor m (c / 16) 0x22 1, false)
      else if !Mod.linesOk m c src cnt false || !Mod.linesOk m t dst cnt true then (Mod.regionKill m c src, true)
      else
        let bs := Mod.spadRead m c (src * 32) (cnt * 32)
        let po := Mod.spadPoisoned m c (src * 32) (cnt * 32)
        let m1 := Mod.spadWrite m t (dst * 32) bs po
        let m2 := Mod.changeMirror m1 (haloPair n) (c % 16) k (if slot then h.flagB else h.flagA) (c / 16) l false true
        let m3 := Mod.modCore m2 c fun z => { z with haloNext := sset false z.haloNext n (!slot) }
        (Mod.macroPoison m3 c po, true)
  | _, _ => (m, true)

/-- Fill line-buffer slots with the rows of a halo slot (R117, R134 step 5). -/
def Mod.haloFill (m : Mod) (c lb src rowLines r : Nat) (po : Bool) : Nat → Mod
  | 0 => m
  | n + 1 =>
    let m1 := Mod.fillSlot m c lb r (Mod.spadRead m c (src * 32) (rowLines * 32)) po
    Mod.haloFill m1 c lb (src + rowLines) rowLines (r + 1) po n

/-- Steps 5 and 6 of R134: fill the rows from the slot and clear its flag. -/
def Mod.haloRecv (m : Mod) (c : Nat) (p : PvisWords) : Mod × Bool :=
  let k := Mod.ctxOf m c
  let n := PvisWords.x1 p 63 48
  match Mod.ctx m k, Mod.halo m k n with
  | some x, some h =>
    match Image.counterpart x.image (c / 16) h.producer with
    | none => (m, true)
    | some l =>
      let y := Mod.core m c
      let slot := sget false y.haloNext n
      let lb := PvisWords.x1 p 47 46
      let b : LineBuf := sget {} y.lineBufs lb
      let r := (y.reg (PvisWords.x1 p 45 41)).toNat
      let src := Mod.haloLine m k n h slot
      if !b.valid || !Mod.linesOk m c src (h.rows * h.rowLines) false
          || !Mod.linesOk m c b.baseLine (b.slots * b.slotLines) true then (Mod.regionKill m c src, true)
      else
        let po := Mod.spadPoisoned m c (src * 32) (h.rows * h.rowLines * 32)
        let m1 := Mod.haloFill m c lb src h.rowLines r po h.rows
        let m2 := Mod.changeMirror m1 (haloPair n) (c % 16) k (if slot then h.flagB else h.flagA) (c / 16) l true false
        let m3 := Mod.modCore m2 c fun z => { z with haloNext := sset false z.haloNext n (!slot) }
        (m3, true)
  | _, _ => (m, true)

/-- HSEND or HRECV from its first step (R134, R306): wait for the flag of the next slot, then run. -/
def Mod.haloRun (c : Nat) (p : PvisWords) (m : Mod) : Mod :=
  let k := Mod.ctxOf m c
  let n := PvisWords.x1 p 63 48
  let recv := PvisWords.op p == 0x54
  match Mod.halo m k n with
  | none => m
  | some h =>
    let slot := sget false (Mod.core m c).haloNext n
    let v := if slot then h.flagB else h.flagA
    let stall (x : Mod) : Mod := Mod.modCore x c fun y => { y with wait := .halo v recv (PvisWords.op p) p }
    if Mod.haloFlag m c k n v recv = recv then
      let r := if recv then Mod.haloRecv m c p else Mod.haloSend m c p
      if r.2 then r.1 else stall r.1
    else Mod.visor (stall m) (c / 16) 0x12 1

end Sys2Proof.Machine
end

