-- ==== Sys2Proof/Machine/Pump.lean ====
section
/-!
DEFINITION. Running the engines of a core: which unit a command belongs to, the issue of a command to an engine (R19), and
the resumption of a command that waited on a queue (R29, R31).
-/
namespace Sys2Proof.Machine

open Sys2Proof

/-- One step of a command, by its opcode (R294). -/
def Mod.unitStep (m : Mod) (c : Nat) (x : ECmd) : EStep :=
  if x.op = 0x10 then .more m x.finish
  else if x.op = 0x11 then Mod.qskipStep m c x
  else if 0x20 ≤ x.op ∧ x.op ≤ 0x22 then Mod.arrayStep m c x
  else if 0x30 ≤ x.op ∧ x.op ≤ 0x33 then Mod.gateStep m c x
  else if 0x40 ≤ x.op ∧ x.op ≤ 0x4A then Mod.vectorStep m c x
  else Mod.dmaStep m c x

/-- What the oldest command of an engine is stopped at: 1 a full queue, 2 an empty one, 0 neither. -/
def Core.stuckAt (y : Core) (e : Nat) : Nat :=
  match y.cmds e with
  | x :: _ =>
    if !x.out.isEmpty then 1
    else if x.started && !x.finished && (inEnds x.p).any (fun q => 2 ≤ q && !x.dry.contains q && (y.queue q).isEmpty)
    then 2 else 0
  | [] => 0

/-- Count a push that found its queue full and a pop that found its queue empty (R470), once for each. -/
def Mod.countStuck (a b : Mod) (c e : Nat) : Mod :=
  let y := Mod.core b c
  if (Mod.core a c).cmds e = y.cmds e then b
  else Mod.visor (Mod.visor b (c / 16) 0x0F (b2n (y.stuckAt e == 1))) (c / 16) 0x10 (b2n (y.stuckAt e == 2))

/-- Run an engine of a core until it waits. -/
def Mod.pump (m : Mod) (c e : Nat) : Mod := Mod.countStuck m (Mod.runFrom Mod.unitStep m c e) c e

/-- Issue a command to engine `e` and run it; `op` 0 is the command of a zero count (R292). -/
def Mod.runOn (c e op : Nat) (p : PvisWords) (m : Mod) : Mod := Mod.pump (Mod.enqueue m c e op p) c e

/-- The outcome of an instruction that is one command of one engine. -/
def engineCmd (name : String) (op e : Nat) (c : CoreId) (p : PvisWords) (s : State) : Out :=
  coreCmd name op c p s (Mod.runOn c e 0 p) (Mod.runOn c e op p)

/-- The engines of a core whose oldest command passes a test. -/
def Core.frontsThat (y : Core) (f : ECmd → Bool) : List Nat :=
  (List.range 7).filter fun e => match y.cmds e with | x :: _ => f x | [] => false

/-- Run the engines of a core whose oldest command passes a test. -/
def Mod.pumpThat (m : Mod) (c : Nat) (f : ECmd → Bool) : Mod :=
  ((Mod.core m c).frontsThat f).foldl (fun x e => Mod.pump x c e) m

/-- The end a waiting push goes to: a channel's entries go to qd_in or qx_in of its consumer. -/
def pushesInto (e : Nat) (x : ECmd) : Bool :=
  match x.out with
  | (t, _) :: _ => if t < 16 then t == e else e == 7 || e == 10
  | [] => false

/-- A command pops end `e`. -/
def popsFrom (e : Nat) (x : ECmd) : Bool := x.started && !x.finished && (inEnds x.p).contains e

/-- A command waits for a token on end `e` (R31). -/
def awaitsOn (e : Nat) (x : ECmd) : Bool :=
  !x.started && 2 ≤ PvisWords.tmode x.p && nth 15 (inEnds x.p) (PvisWords.tend x.p) == e

end Sys2Proof.Machine
end

