-- ==== Sys2Proof/Machine/TableOps.lean ====
section
/-!
DEFINITION. Place tables: the table cache (R250 to R252), row lookups, fills and the second copy (R249, R251, R255), the
gather engines' bags (R247, R248), and the update cache (R258).
-/
namespace Sys2Proof.Machine

open Sys2Proof

/-! ## Bindings -/

/-- A bound table (R243). -/
def Mod.bound (m : Mod) (t : Nat) : Option Bound :=
  let b : Bound := sget {} m.tab.bound t
  if b.shards.isEmpty then none else some b

/-- Change a bound table. -/
def Mod.modBound (m : Mod) (t : Nat) (f : Bound → Bound) : Mod :=
  { m with tab := { m.tab with bound := smod {} m.tab.bound t f } }

/-- The descriptor of a bound table. -/
def Mod.tableD (m : Mod) (t : Nat) : TableDesc := (sget ({} : Bound) m.tab.bound t).d

/-- The shard a copy of this module holds: copy 0 the owned shard, 1 the buddy copy; 0xFFFF for none (R240). -/
def copyShard (d : TableDesc) (copy : Nat) : Nat := if copy = 0 then d.localShard else d.buddyShard

/-- The holder of the other copy of a shard (R240, R255): of copy 0 the buddy, of copy 1 the owner; none where there is
none, or it is lost. -/
def Mod.otherHolder (m : Mod) (t copy : Nat) : Option Xyz :=
  let b : Bound := sget {} m.tab.bound t
  match b.shards[copyShard b.d copy]? with
  | some e =>
    let h := if copy = 0 then e.buddy else some e.owner
    match h with
    | some xyz => if Mod.isLost m xyz then none else some xyz
    | none => none
  | none => none

/-! ## The cache -/

/-- Sets of the table cache (R250): one per 64 KiB; the host gives the size in units of 64 MiB (R363). -/
def Mod.cacheSets (m : Mod) : Nat := match m.model with | some md => md.blk.tableCacheUnits * 1024 | none => 0

/-- The set of a page (R250). -/
def Mod.cacheSet (m : Mod) (t page : Nat) : Nat := (page * 0x9E5 + t * 0x3B) % max 1 (Mod.cacheSets m)

/-- The ways of a set, numbered set × 16 + way. -/
def waysOf (set : Nat) : List Nat := (List.range 16).map (set * 16 + ·)

/-- A way. -/
def Mod.way (m : Mod) (k : Nat) : Way := sget {} m.tab.ways k

/-- Write a way. -/
def Mod.setWay (m : Mod) (k : Nat) (w : Way) : Mod := { m with tab := { m.tab with ways := sset {} m.tab.ways k w } }

/-- The frame of a way. DESIGN CHOICE: set k holds 64 KiB of the cache's area in turn, its ways 4 KiB each. -/
def Mod.wayVa (m : Mod) (k : Nat) : Nat := (match m.model with | some md => md.blk.tableCacheVa | none => 0) + k * 4096

/-- The way that holds a page or is being filled with it. -/
def Mod.findWay (m : Mod) (t copy page : Nat) : Option Nat :=
  (waysOf (Mod.cacheSet m t page)).find? fun k =>
    let w := Mod.way m k
    (w.valid || w.filling) && w.table == t && w.copy == copy && w.page == page

/-- Use a way (R250): it becomes the most recently used of its set, by a context of the class `lc`. -/
def Mod.touchWay (m : Mod) (k : Nat) (lc : Bool) : Mod :=
  let r := (Mod.way m k).rank
  let older (x : Mod) (j : Nat) : Mod :=
    let w := Mod.way x j
    if j ≠ k && (w.valid || w.filling) && w.rank < r then Mod.setWay x j { w with rank := w.rank + 1 } else x
  let m1 := (waysOf (k / 16)).foldl older m
  Mod.setWay m1 k { Mod.way m1 k with
    rank := 0
    lcUse := lc }

/-- The victim among ways: an invalid one, else the least recently used (R250). -/
def Mod.oldestWay (m : Mod) (ks : List Nat) : Option Nat :=
  match ks.find? fun k => !(Mod.way m k).valid with
  | some k => some k
  | none => ks.foldl (fun (a : Option Nat) k => match a with
      | none => some k
      | some j => if (Mod.way m j).rank < (Mod.way m k).rank then some k else some j) none

/-- The victim of a miss (R251, R254): no way that is filling; a best-effort prefetch spares ways last used by a
latency-critical context unless the set offers no other. -/
def Mod.victimWay (m : Mod) (set : Nat) (spareLc : Bool) : Option Nat :=
  let free := (waysOf set).filter fun k => !(Mod.way m k).filling
  let other := free.filter fun k => !((Mod.way m k).valid && (Mod.way m k).lcUse)
  if spareLc && !other.isEmpty then Mod.oldestWay m other else Mod.oldestWay m free

/-- Give a way to a page: it is filling, and the most recently used. -/
def Mod.claimWay (m : Mod) (k t copy page : Nat) (lc : Bool) : Mod :=
  Mod.touchWay (Mod.setWay m k { rank := 16, filling := true, table := t, copy := copy, page := page }) k lc

/-! ## Row requests to other modules -/

/-- Data bytes of a row request. DESIGN CHOICE: kind (0 a row, 1 a page, 2 deltas, 4 a flush), table, and for kinds 0 and
1 the copy; the row or page number is the packet's address. A page write (kind 3) has 4,096 data bytes, and its address
is table × 2^40 + page. -/
def rowReqData (kind table x : Nat) : List Byte := leBytes 1 kind ++ leBytes 1 table ++ leBytes 2 x

/-- The kind of a row request. -/
def rowReqKind (p : Packet) : Nat := if p.data.length = 4096 then 3 else (nth 0 p.data 0).toNat

/-- The table of a row request. -/
def rowReqTable (p : Packet) : Nat :=
  if p.data.length = 4096 then p.address / 2 ^ 40 else (nth 0 p.data 1).toNat

/-- The third field of a row request: the copy, or the first element of the deltas. -/
def rowReqX (p : Packet) : Nat := leNat ((p.data.drop 2).take 2)

/-- Send a row request that is tracked under a code of its own: 0x06 reads, 0x16 deltas, 0x26 page writes, 0x36
flushes. -/
def Mod.sendRow (m : Mod) (dest : Xyz) (lc : Bool) (address : Nat) (data : List Byte) (code job va : Nat) : Mod :=
  let r := Mod.sendRequest m
    { ptype := 0x06, dest := dest, src := Mod.here m, lc := lc, address := address, data := data } job 0xFF va
  { r.1 with fab := { r.1.fab with reqs := r.1.fab.reqs.map fun x => if x.tag = r.2 then { x with ptype := code } else x } }

/-- Answer a row request (R249). -/
def Mod.answerRow (m : Mod) (p : Packet) (ptype : Nat) (data : List Byte) (po : Bool) : Mod :=
  Mod.sendPacket m { ptype := ptype, dest := p.src, src := Mod.here m, tag := p.tag, lc := p.lc, poison := po, data := data }
    none

/-! ## Serving reads -/

/-- Change the reads in progress. -/
def Mod.onReads (m : Mod) (f : List RowRead → List RowRead) : Mod := { m with flash := { m.flash with reads := f m.flash.reads } }

/-- Change a bag. -/
def Mod.modBag (m : Mod) (id : Nat) (f : Bag → Bag) : Mod :=
  { m with tab := { m.tab with bags := m.tab.bags.map fun b => if b.id = id then f b else b } }

/-- A bag. -/
def Mod.bagOf (m : Mod) (id : Nat) : Option Bag := m.tab.bags.find? fun b => b.id == id

/-- The context a read counts for in the visor: its bag's, 0xFF for another module's. -/
def Mod.readCtx (m : Mod) (r : RowRead) : Nat :=
  match r.bag with
  | some b => (match Mod.bagOf m b with | some x => x.ctx | none => 0xFF)
  | none => 0xFF

/-- A row delivered to its bag, unless it has it already. -/
def Bag.take_ (b : Bag) (row : Nat) (bs : List Byte) (po : Bool) : Bag :=
  if b.got.any fun g => g.1 == row then b else { b with got := b.got ++ [(row, bs, po)] }

/-- Deliver a read: a row to its bag, a row or page to the module that asked (R249); a prefetch wants nothing. -/
def Mod.serveRead (m : Mod) (r : RowRead) (page : List Byte) (po : Bool) : Mod :=
  let d := Mod.tableD m r.table
  let row := (page.drop (rowOff d r.row)).take d.rowBytes
  let m1 := Mod.onReads m fun l => l.filter fun x => x.id != r.id
  match r.reply, r.bag with
  | some p, _ => Mod.answerRow m1 p 0x07 (if rowReqKind p = 1 then page else row) po
  | none, some b => Mod.modBag m1 b fun x => Bag.take_ x r.row row po
  | none, none => m1

/-- A page whose contents no rule states: fresh free bytes. -/
def Mod.freePage (m : Mod) : Mod × List Byte :=
  ({ m with free := m.free + 4096 }, (List.range 4096).map fun i => Config.freeByte (m.free + i))

/-- Deliver a read as poisoned (R255). -/
def Mod.poisonRead (m : Mod) (r : RowRead) : Mod :=
  let f := Mod.freePage m
  Mod.serveRead f.1 r f.2 true

/-- Park a bag on the fault of a table-cache frame or of its key list (R229, R248): once, with the rows it has as
progress. -/
def Mod.parkBag (m : Mod) (id : Nat) (f : AccFault) : Mod :=
  match Mod.bagOf m id with
  | none => m
  | some b =>
    if b.parked then m
    else
      let r := Mod.raiseAcc m f .tableGather b.ctx (b.core / 16 / Config.clustersPerDie m.sys.grade) (Mod.tagOf m b.job)
        b.got.length true (some (.bag id))
      Mod.modBag r.1 id fun x => { x with parked := true }

/-- Serve a read from a valid way: the row's granules in its frame. A frame that faults parks the bag, or the remote
read. -/
def Mod.serveFrom (m : Mod) (k : Nat) (r : RowRead) : Mod :=
  let va := Mod.wayVa m k
  match Mod.vaRead m (brimTlbOf va) 0xFF va 4096 with
  | .inl f =>
    match r.bag with
    | some b => Mod.parkBag (Mod.onReads m fun l => l.filter fun x => x.id != r.id) b f
    | none =>
      let held := if m.flash.reads.any fun x => x.id == r.id then m else Mod.onReads m fun l => l ++ [r]
      (Mod.raiseAcc held f .tableGather 0xFF 0 0 0 true (some (.read r.id))).1
  | .inr (bs, po) => Mod.serveRead m r bs (po || (Mod.way m k).poison)

/-- Reads that wait for a page. -/
def Mod.readsOf (m : Mod) (t copy page : Nat) : List RowRead :=
  m.flash.reads.filter fun r => !r.remote && r.table == t && r.copy == copy && r.page == page

/-- Give up the fill of a page (R255): its reads are delivered poisoned and the page is not cached. -/
def Mod.failPage (m : Mod) (t copy page : Nat) : Mod :=
  let m1 := (Mod.readsOf m t copy page).foldl Mod.poisonRead m
  match Mod.findWay m1 t copy page with
  | some k => if (Mod.way m1 k).filling then Mod.setWay m1 k {} else m1
  | none => m1

/-- Ask the holder of the other copy for a page that is being filled (R255, R256, R441); without one the fill fails. -/
def Mod.askOther (m : Mod) (t copy page : Nat) (lc : Bool) : Mod :=
  let rs := Mod.readsOf m t copy page
  if rs.any (·.hedged) then m
  else match Mod.otherHolder m t copy, rs with
    | some xyz, r :: _ =>
      let m1 := Mod.onReads m fun l => l.map fun x =>
        if !x.remote && x.table == t && x.copy == copy && x.page == page then { x with hedged := true } else x
      Mod.sendRow m1 xyz lc page (rowReqData 1 t (1 - copy)) 0x06 0 r.id
    | _, _ => Mod.failPage m t copy page

/-- The page of a copy has not been copied on a takeover (R441). -/
def Bound.uncopied (b : Bound) (copy page : Nat) : Bool :=
  bitAt b.copying copy && !sget false b.copied (copy * 2 ^ 48 + page)

/-- Read a page that a way is claimed for: from the drive, in the read's class; from the other copy where the drive is not
ready or the page is not yet copied. -/
def Mod.issueFill (m : Mod) (t copy page : Nat) (lc retried : Bool) : Mod :=
  match Mod.bound m t with
  | none => Mod.failPage m t copy page
  | some b =>
    let pl := copyPlace b.d copy page
    if b.uncopied copy page || !Mod.driveReady m pl.1 then Mod.askOther m t copy page lc
    else
      let x : Nvme := { cid := 0, cls := (if lc then 0 else 1), lba := pl.2, nsid := b.d.nsid, table := t
                        copy := copy, page := page, retried := retried }
      Mod.visorBrim (Mod.nvme m pl.1 x) pl.1 0xFF 0x4F 1

/-- Look a page of a local copy up for a read (R249 to R251): a hit serves it, a page being filled is joined, a miss
starts a fill or waits for a way. -/
def Mod.lookup (m : Mod) (r : RowRead) : Mod :=
  let set := Mod.cacheSet m r.table r.page
  let see (x : Mod) (src : Nat) : Mod := Mod.visorBrim x (set % 4) (Mod.readCtx m r) src 1
  let hold (x : Mod) : Mod := if x.flash.reads.any fun y => y.id == r.id then x else Mod.onReads x fun l => l ++ [r]
  match Mod.findWay m r.table r.copy r.page with
  | some k =>
    if (Mod.way m k).valid then Mod.serveFrom (Mod.touchWay (see m 0x4C) k r.lc) k r else hold (see m 0x4D)
  | none =>
    match Mod.victimWay m set (!r.lc && r.bag.isNone && r.reply.isNone) with
    | none => hold m
    | some k => Mod.issueFill (hold (Mod.claimWay (see m 0x4E) k r.table r.copy r.page r.lc)) r.table r.copy r.page r.lc false

/-- Reads that found no way free in a set look again (R251). -/
def Mod.relook (m : Mod) (set : Nat) : Mod :=
  (m.flash.reads.filter fun r => !r.remote && Mod.cacheSet m r.table r.page == set
    && (Mod.findWay m r.table r.copy r.page).isNone).foldl Mod.lookup m

/-- The fill of a page fails, and a way of its set is free again. -/
def Mod.giveUpPage (m : Mod) (t copy page : Nat) : Mod := Mod.relook (Mod.failPage m t copy page) (Mod.cacheSet m t page)

/-- A new read. -/
def Mod.newRead (m : Mod) (r : RowRead) : Mod × RowRead :=
  ({ m with flash := { m.flash with nextRead := m.flash.nextRead + 1 } }, { r with id := m.flash.nextRead })

/-- Where a row is read (R249, R434): a local copy, or another module. -/
inductive RowHome where
  | here (copy : Nat)
  | at_ (xyz : Xyz)
  | none
  deriving Inhabited

/-- The home of a shard: this module where it owns it; its owner; its buddy where the owner is lost (R434). -/
def Mod.shardHome (m : Mod) (b : Bound) (s : Nat) : RowHome :=
  if s = b.d.localShard then .here 0
  else match b.shards[s]? with
    | none => .none
    | some e =>
      if !Mod.isLost m e.owner then .at_ e.owner
      else if s = b.d.buddyShard then .here 1
      else match e.buddy with
        | some xyz => if Mod.isLost m xyz then .none else .at_ xyz
        | none => .none

/-- Read a row of a bound table for a bag or a prefetch (R249). -/
def Mod.readRow (m : Mod) (t row : Nat) (lc : Bool) (bag : Option Nat) : Mod :=
  let d := Mod.tableD m t
  let base : RowRead := { id := 0, table := t, copy := 0, page := rowPage d row, row := row, lc := lc, bag := bag }
  match Mod.bound m t with
  | none => let r := Mod.newRead m base; Mod.poisonRead r.1 r.2
  | some b =>
    match Mod.shardHome m b (rowShard b.d row) with
    | .here c => let r := Mod.newRead m { base with copy := c }; Mod.lookup r.1 r.2
    | .at_ xyz =>
      let r := Mod.newRead m { base with remote := true }
      let m1 := Mod.onReads r.1 fun l => l ++ [r.2]
      Mod.sendRow m1 xyz lc row (rowReqData 0 t 0) 0x06 0 r.2.id
    | .none => let r := Mod.newRead m base; Mod.poisonRead r.1 r.2

/-! ## Bags -/

/-- The distinct rows of a key list, with multiplicities, in order of first occurrence (R247). -/
def bagRows : List Nat → List (Nat × Nat)
  | [] => []
  | r :: rs =>
    let rest := bagRows rs
    let n := match rest.find? (·.1 == r) with | some x => x.2 | none => 0
    (r, n + 1) :: rest.filter (·.1 != r)

/-- The keys of a list from its bytes. -/
def keysOf (bs : List Byte) (n : Nat) : List Nat := (List.range n).map fun i => leNat ((bs.drop (16 * i)).take 16)

/-- The values of a table row (R247): exact in FP32; an MXFP4 row under its block scales. -/
def rowWords (d : TableDesc) (bs : List Byte) : List Word :=
  let f := tableFmt d.format
  let r := rowOfBytes f d.dim bs
  (List.range d.dim).map fun i => toF32 (r.value f i)

/-- Element of the pooled row (R247): `xs` are the element's values with multiplicities, in bag order. -/
def poolElem (mode keys : Nat) (xs : List (Word × Nat)) : Word :=
  match xs with
  | [] => 0
  | x :: rest =>
    let term (y : Word × Nat) : Word := toF32 ((Fv.fin false y.2 0).mul (f32 y.1))
    if mode = 2 then rest.foldl (fun a y => BitVec.ofNat 32 (laneMin 0 a.toNat y.1.toNat true)) x.1
    else
      let s := rest.foldl (fun a y => fadd a (term y)) (term x)
      if mode = 1 then fmul s (fdiv (intToF32 1) (intToF32 keys)) else s

/-- The table declaration an image makes (R267 kind 3): format, elements, row bytes. -/
def Image.tableDecl (img : Image) (t : Nat) : Option (Nat × Nat × Nat) :=
  img.objects.findSome? fun (o : ObjDecl) => match o.kind with
    | .table n f dim rb => if n = t then some (f, dim, rb) else none
    | _ => none

/-- The declaration of a table in a context's image, else in the model's. -/
def Mod.tableDecl (m : Mod) (ctx t : Nat) : Option (Nat × Nat × Nat) :=
  let mine := match Mod.ctx m ctx with | some c => Image.tableDecl c.image t | none => none
  match mine, m.model with
  | some d, _ => some d
  | none, some md => Image.tableDecl md.image t
  | none, none => none

/-- Elements of a bag's rows. -/
def Mod.bagDim (m : Mod) (b : Bag) : Nat :=
  match Mod.bound m b.table, Mod.tableDecl m b.ctx b.table with
  | some x, _ => x.d.dim
  | none, some d => d.2.1
  | none, none => 0

/-- The pooled row of a bag. -/
def Mod.pool (m : Mod) (b : Bag) : List Word :=
  let d := Mod.tableD m b.table
  let vals := b.rows.map fun r =>
    (((b.got.find? fun g => g.1 == r.1).map fun g => rowWords d g.2.1).getD [], r.2)
  (List.range (Mod.bagDim m b)).map fun i => poolElem b.pooling b.keys (vals.map fun v => (nth 0 v.1 i, v.2))

/-- Every row of a bag has arrived. -/
def Bag.complete (b : Bag) : Bool := b.read && b.rows.all fun r => b.got.any fun g => g.1 == r.1

/-- A slice of the pooled row as entries of a consumer, narrowed to the output format (R78, R248). -/
def sliceEntries (f : Nat) (ws : List Word) (po : Bool) : List QEntry :=
  let bs := (outBytes f [ws]).1
  let n := max 1 (ceilDiv bs.length 32)
  (List.range n).map fun i => dataEntry ((bs.drop (32 * i)).take 32) po (i + 1 == n)

/-- The entries of a bag in order, with the number of the consumer core each goes to, counted from the first. -/
def Mod.bagEntries (m : Mod) (b : Bag) : List (Nat × QEntry) :=
  let row := Mod.pool m b
  let dim := row.length
  let po := b.got.any fun g => g.2.2
  (List.range b.cores).flatMap fun i =>
    let a := i * dim / b.cores
    let z := (i + 1) * dim / b.cores
    (sliceEntries b.format ((row.drop a).take (z - a)) po).map fun q => (i, q)

/-- Push an entry of a bag: to core `i` of its destination (R248). -/
def Mod.pushBag (m : Mod) (b : Bag) (i : Nat) (q : QEntry) : Option Mod :=
  match Mod.chanDecl m b.ctx b.channel with
  | none => none
  | some d =>
    if d.remote.isSome then Mod.pushChan m b.ctx (b.core / 16) b.channel q
    else match Mod.chanCore m b.ctx (b.core / 16) d with
      | none => none
      | some t =>
        let c := t / 16 * 16 + (t % 16 + i) % 16
        if (Mod.core m c).ctx == some b.ctx then Mod.pushEnd m c 7 q else none

/-- Push a bag's entries while there is room: what is left. -/
def Mod.pushOut (m : Mod) (b : Bag) : List (Nat × QEntry) → Mod × List (Nat × QEntry)
  | [] => (m, [])
  | (i, q) :: rest =>
    match Mod.pushBag m b i q with
    | some m1 => Mod.pushOut m1 b rest
    | none => (m, (i, q) :: rest)

/-- A bag ends: it leaves its engine, and a control unit that waits for the brim requests goes on. -/
def Mod.endBag (m : Mod) (b : Bag) : Mod :=
  Mod.settle { m with tab := { m.tab with bags := m.tab.bags.filter fun x => x.id != b.id } } b.core

/-! ## The update cache -/

/-- Slot bytes of the update cache (R258): the widest writable bound table's. -/
def Mod.updSlotBytes (m : Mod) : Nat :=
  let dims := m.tab.bound.map fun p => if p.2.d.writable && !p.2.shards.isEmpty then p.2.d.dim else 0
  roundUp (16 + 4 * dims.foldl max 0) 64

/-- Slots of the update cache. -/
def Mod.updSlots (m : Mod) : Nat :=
  match m.model with
  | some md => md.blk.updateCacheUnits * 0x400_0000 / Mod.updSlotBytes m
  | none => 0

/-- The slot of a row. -/
def Mod.updSlot (m : Mod) (t row : Nat) : Option UpdSlot := m.tab.updates.find? fun u => u.table == t && u.row == row

/-- A row has a slot or can be given one. -/
def Mod.updRoom (m : Mod) (t row : Nat) : Bool :=
  (Mod.updSlot m t row).isSome || decide (m.tab.updates.length < Mod.updSlots m)

/-- Add deltas from element `off` on to a row's slot, element by element (R258). -/
def Mod.addDeltas (m : Mod) (t row off : Nat) (ws : List Word) : Mod :=
  let d := Mod.tableD m t
  let old := match Mod.updSlot m t row with | some u => u.deltas | none => List.replicate d.dim 0
  let new := (List.range old.length).map fun i =>
    if off ≤ i && i < off + ws.length then fadd (nth 0 old i) (nth 0 ws (i - off)) else nth 0 old i
  let u : UpdSlot := { table := t, row := row, deltas := new }
  let us := if (Mod.updSlot m t row).isSome then
      m.tab.updates.map fun x => if x.table = t ∧ x.row = row then u else x
    else m.tab.updates ++ [u]
  { m with tab := { m.tab with updates := us } }

/-- Deltas in one packet at most. -/
def deltasPerPacket : Nat := 1000

/-- Send a row's deltas to the module that owns it (R257), a packet for every thousand elements. -/
def Mod.sendDeltas (m : Mod) (xyz : Xyz) (t row job : Nat) (lc : Bool) (ws : List Word) : Mod :=
  (List.range (ceilDiv ws.length deltasPerPacket)).foldl (fun x i =>
    let part := (ws.drop (i * deltasPerPacket)).take deltasPerPacket
    Mod.sendRow x xyz lc row (rowReqData 2 t (i * deltasPerPacket) ++ part.flatMap fun w => leBytes 4 w.toNat) 0x16 job 0) m

/-- The words of a byte string. -/
def wordsAt (bs : List Byte) (n : Nat) : List Word :=
  (List.range n).map fun i => BitVec.ofNat 32 (leNat ((bs.drop (4 * i)).take 4))

/-- Run a scatter-add from the key it stands at (R257, R258): it waits where the update cache is full, and parks where its
deltas fault. -/
def Mod.scatterFrom (m : Mod) (b : Bag) : List Nat → Nat → Mod
  | [], _ => Mod.endBag m b
  | row :: rest, i =>
    let d := Mod.tableD m b.table
    let here (x : Mod) : Mod := Mod.modBag x b.id fun y => { y with done := i }
    let va := b.deltaVa + 4 * d.dim * i
    let home := match Mod.bound m b.table with | some x => Mod.shardHome m x (rowShard d row) | none => .none
    match Mod.vaRead m (brimTlbOf va) b.ctx va (4 * d.dim) with
    | .inl f => Mod.parkBag (here m) b.id f
    | .inr (bs, po) =>
      let m0 := if po then Mod.markPoison m b.job else m
      let ws := wordsAt bs d.dim
      match home with
      | .here _ =>
        if Mod.updRoom m0 b.table row then Mod.scatterFrom (Mod.addDeltas m0 b.table row 0 ws) b rest (i + 1) else here m0
      | .at_ xyz => Mod.scatterFrom (Mod.sendDeltas m0 xyz b.table row b.job (Mod.ctxLc m b.ctx) ws) b rest (i + 1)
      | .none => Mod.scatterFrom m0 b rest (i + 1)

/-- Start a fill for every page of rows that is neither cached nor filling (R253). -/
def Mod.prefetchRows (m : Mod) (t : Nat) (lc : Bool) (rows : List Nat) : Mod :=
  let d := Mod.tableD m t
  let place (g : Nat) : Nat := rowShard d g * 2 ^ 48 + rowPage d g
  let firsts := (distinct (rows.map place)).filterMap fun p => rows.find? fun g => place g == p
  let cached (x : Mod) (g : Nat) : Bool :=
    match Mod.bound x t with
    | some y => (match Mod.shardHome x y (rowShard d g) with
      | .here c => (Mod.findWay x t c (rowPage d g)).isSome
      | _ => false)
    | none => true
  firsts.foldl (fun x g => if cached x g then x else Mod.readRow x t g lc none) m

/-- The keys of a bag have been read: what the engine does with their rows (R247, R253, R257). -/
def Mod.bagKeys (m : Mod) (b : Bag) (rows : List Nat) (po : Bool) : Mod :=
  let die := b.core / 16 / Config.clustersPerDie m.sys.grade
  let lc := Mod.ctxLc m b.ctx
  let ds := bagRows rows
  let m0 := if po then Mod.markPoison m b.job else m
  let m1 := Mod.visorBrim (Mod.visorBrim m0 die b.ctx 0x4A rows.length) die b.ctx 0x4B (rows.length - ds.length)
  if b.kind = 2 then Mod.scatterFrom m1 b (rows.drop b.done) b.done
  else if b.kind = 1 then
    Mod.endBag (Mod.prefetchRows m1 b.table lc rows) b
  else
    let m2 := Mod.modBag m1 b.id fun x => { x with rows := ds, read := true }
    ds.foldl (fun x r => if b.got.any fun g => g.1 == r.1 then x else Mod.readRow x b.table r.1 lc (some b.id)) m2

/-- Read a bag's key list and go on with it; a fault parks the bag alone (R248). A poisoned key list marks the job. -/
def Mod.startBag (m : Mod) (id : Nat) : Mod :=
  match Mod.bagOf m id with
  | none => m
  | some b =>
    let m0 := Mod.modBag m id fun x => { x with parked := false }
    match Mod.vaRead m0 (brimTlbOf b.keyVa) b.ctx b.keyVa (16 * b.keys) with
    | .inl f => Mod.parkBag m0 id f
    | .inr (bs, po) => Mod.bagKeys m0 b ((keysOf bs b.keys).map (hashRow (Mod.tableD m b.table))) po

/-- Hand a bag to the gather engine. -/
def Mod.newBag (m : Mod) (b : Bag) : Mod :=
  let id := m.tab.nextBag
  Mod.startBag { m with tab := { m.tab with nextBag := id + 1, bags := m.tab.bags ++ [{ b with id := id }] } } id

/-! ## Write-back -/

/-- The page a row's delta dirties: copy × 2^40 + page; copy 1 only for rows this module holds in place of a lost owner
(R434). -/
def slotPage (d : TableDesc) (row : Nat) : Nat := (if rowShard d row = d.localShard then 0 else 2 ^ 40) + rowPage d row

/-- A page's dirty rows: the slots of the update cache whose rows lie in it. -/
def Mod.dirtyRows (m : Mod) (t page : Nat) : List UpdSlot :=
  m.tab.updates.filter fun u => u.table == t && slotPage (Mod.tableD m t) u.row == page

/-- The pages with slots in the update cache, of one table or of all. -/
def Mod.updPages (m : Mod) (scope : Option Nat) : List (Nat × Nat) :=
  (m.tab.updates.filter fun u => scope.isNone || scope == some u.table).foldl (fun acc u =>
    let p := (u.table, slotPage (Mod.tableD m u.table) u.row)
    if acc.contains p then acc else acc ++ [p]) []

/-- A row with its delta added (R259): widened exactly, one rounding, narrowed again. -/
def mergedRow (d : TableDesc) (bs : List Byte) (deltas : List Word) : List Byte :=
  let f := tableFmt d.format
  let ws := rowWords d bs
  let sum := (List.range d.dim).map fun i => (fadd (nth 0 ws i) (nth 0 deltas i)).toNat
  let out := rowBytes f (convRow 0 f false [] { bits := sum }).1
  out ++ List.replicate (d.rowBytes - out.length) 0

/-- A page with the deltas of its dirty rows added. -/
def mergedPage (d : TableDesc) (page : List Byte) (us : List UpdSlot) : List Byte :=
  us.foldl (fun bs u =>
    let o := rowOff d u.row
    bs.take o ++ mergedRow d ((bs.drop o).take d.rowBytes) u.deltas ++ bs.drop (o + d.rowBytes)) page

/-- A write of a page has completed: the page is clean when the last has (R259 step 6). -/
def Mod.dirtyDone (m : Mod) (t page : Nat) : Mod :=
  let ds := m.tab.dirty.map fun (x : Nat × Nat × Nat) => if x.1 = t ∧ x.2.1 = page then (x.1, x.2.1, x.2.2 - 1) else x
  { m with tab := { m.tab with dirty := ds.filter fun (x : Nat × Nat × Nat) => x.2.2 != 0 } }

/-- A page is dirty: it has slots in the update cache, or writes outstanding. -/
def Mod.isDirty (m : Mod) (t page : Nat) : Bool :=
  (m.tab.dirty.any fun (x : Nat × Nat × Nat) => x.1 == t && x.2.1 == page) || !(Mod.dirtyRows m t page).isEmpty

/-- The buddy of this module's shard of a table, where it has one that is not lost. -/
def Mod.tableBuddy (m : Mod) (t : Nat) : Option Xyz := Mod.otherHolder m t 0

/-- The other module a page is sent to when it is written back: the buddy of an owned page. -/
def Mod.writeBuddy (m : Mod) (t page : Nat) : Option Xyz := if page < 2 ^ 40 then Mod.tableBuddy m t else none

/-- Steps 1 to 5 of R259 for a page in way `k`, the new page going to way `v`. -/
def Mod.mergeInto (m : Mod) (t page k v : Nat) (bs : List Byte) : Mod :=
  let d := Mod.tableD m t
  let copy := page / 2 ^ 40
  let pg := page % 2 ^ 40
  let new := mergedPage d bs (Mod.dirtyRows m t page)
  let va := Mod.wayVa m v
  match Mod.vaWrite m (brimTlbOf va) 0xFF va new false with
  | (_, some (f, _)) => (Mod.raiseAcc m f .tableGather 0xFF 0 0 0 true none).1
  | (m1, none) =>
    let lc := (Mod.way m k).lcUse
    let m2 := { m1 with tab := { m1.tab with updates := m1.tab.updates.filter fun u =>
      !(u.table == t && slotPage d u.row == page) } }
    let m3 := Mod.setWay (Mod.touchWay (Mod.setWay m2 v { valid := true, rank := 16, table := t, copy := copy, page := pg }) v lc) k {}
    let pl := copyPlace d copy pg
    let m4 := Mod.modBound m3 t fun b => if bitAt b.copying copy then { b with copied := sset false b.copied (copy * 2 ^ 48 + pg) true } else b
    let ready := Mod.driveReady m4 pl.1
    let m5 := if ready then
        Mod.visorBrim (Mod.nvme m4 pl.1 { cid := 0, cls := 2, lba := pl.2, nsid := d.nsid, table := t, page := page, data := new })
          pl.1 0xFF 0x52 1
      else m4
    let m6 := match Mod.writeBuddy m5 t page with
      | some xyz => Mod.sendRow m5 xyz false (t * 2 ^ 40 + pg) new 0x26 0 (t * 2 ^ 48 + page)
      | none => m5
    let n := b2n ready + b2n (Mod.writeBuddy m5 t page).isSome
    let ds := m6.tab.dirty.filter fun (x : Nat × Nat × Nat) => !(x.1 == t && x.2.1 == page)
    let before := m6.tab.dirty.foldl (fun a (x : Nat × Nat × Nat) => if x.1 = t ∧ x.2.1 = page then a + x.2.2 else a) 0
    Mod.onHost { m6 with tab := { m6.tab with dirty := if n + before = 0 then ds else ds ++ [(t, page, n + before)] } } fun h =>
      { h with flights := h.flights.map fun f => if f.flushes.contains (t, page) then { f with merged := (t, page) :: f.merged } else f }

/-- Scatter-adds that wait for room go on. -/
def Mod.wakeScatters (m : Mod) : Mod :=
  (m.tab.bags.filter fun b => b.kind == 2 && !b.parked).foldl (fun x b => Mod.startBag x b.id) m

/-- Write one dirty page back (R259). A page that is not cached is read first; without a victim way it waits. -/
def Mod.writeBack (m : Mod) (t page : Nat) : Mod :=
  if (Mod.dirtyRows m t page).isEmpty || (Mod.bound m t).isNone then m
  else
    let again (x : Mod) : Mod :=
      let r := Mod.newRead x { id := 0, table := t, copy := page / 2 ^ 40, page := page % 2 ^ 40, row := 0 }
      Mod.lookup r.1 r.2
    match Mod.findWay m t (page / 2 ^ 40) (page % 2 ^ 40) with
    | none => again m
    | some k =>
      if !(Mod.way m k).valid then m
      else
        let va := Mod.wayVa m k
        match (waysOf (Mod.cacheSet m t (page % 2 ^ 40))).filter fun j => j != k && !(Mod.way m j).filling,
          Mod.vaRead m (brimTlbOf va) 0xFF va 4096 with
        | _, .inl f => (Mod.raiseAcc m f .tableGather 0xFF 0 0 0 true none).1
        | js, .inr (bs, po) =>
          if po then again (Mod.setWay m k {})
          else match Mod.oldestWay m js with
            | some v => Mod.wakeScatters (Mod.mergeInto m t page k v bs)
            | none => m

/-! ## Flushes -/

/-- The tables a TABLE_FLUSH covers. -/
def flushScope (fl : Flight) : Option Nat :=
  if descFld fl.raw 8 8 8 = 1 then none else some (descFld fl.raw 8 7 0)

/-- The writable bound tables of a scope. -/
def Mod.flushTables (m : Mod) (scope : Option Nat) : List Nat :=
  (m.tab.bound.filter fun p => p.2.d.writable && !p.2.shards.isEmpty && (scope.isNone || scope == some p.1)).map (·.1)

/-- Issue the Flush commands of a TABLE_FLUSH whose pages are clean (R260). -/
def Mod.issueFlushes (m : Mod) (fl : Flight) : Mod :=
  let ts := Mod.flushTables m (flushScope fl)
  let ports := distinct (ts.flatMap fun t => (portsOf (Mod.tableD m t).drives).filter (Mod.driveReady m))
  let tos := (ts.filterMap fun t => (Mod.tableBuddy m t).map fun xyz => (t, xyz))
  let m1 := ports.foldl (fun x p => Mod.nvme x p { cid := 0, cls := 3, flush := some fl.id }) m
  let m2 := tos.foldl (fun x p => Mod.sendRow x p.2 false 0 (rowReqData 4 p.1 0) 0x36 fl.id 0) m1
  Mod.modFlight m2 fl.id fun x => { x with flushing := true, flushPorts := ports, flushTo := tos.map (·.2) }

/-- A TABLE_FLUSH goes on (R260): its pages, then the Flush commands, then its record. -/
def Mod.flushStep (m : Mod) (id : Nat) : Mod :=
  match Mod.flight m id with
  | none => m
  | some fl =>
    if descKind fl.raw != 0x0B || !fl.started then m
    else
      let left := fl.flushes.filter fun p =>
        if fl.merged.contains p then m.tab.dirty.any fun (x : Nat × Nat × Nat) => x.1 == p.1 && x.2.1 == p.2
        else Mod.isDirty m p.1 p.2
      let m1 := Mod.modFlight m id fun x =>
        { x with flushes := left, progress := x.progress + (fl.flushes.length - left.length) }
      if !left.isEmpty then m1
      else
        let m2 := if fl.flushing then m1 else Mod.issueFlushes m1 fl
        match Mod.flight m2 id with
        | some f => if f.flushPorts.isEmpty && f.flushTo.isEmpty then Mod.endFlight m2 id .ok (Flight.progressField f) 0 else m2
        | none => m2

/-- Every TABLE_FLUSH goes on. -/
def Mod.flushAll (m : Mod) : Mod :=
  (m.host.flights.filter fun f => descKind f.raw == 0x0B && f.started).foldl (fun x f => Mod.flushStep x f.id) m

end Sys2Proof.Machine
end

