-- ==== Sys2Proof/Machine/Tables.lean ====
section
/-!
DEFINITION. The commands of place tables: TABLE_BIND and its variants, TABLE_FLUSH, GATHER, TPF, SCATTER, and what the
gather engines do on their own (R243 to R261, R315, R368, R441).
-/
namespace Sys2Proof.Machine

open Sys2Proof

/-! ## Binding -/

/-- What the checks of a bind say. -/
inductive BindCheck where
  | ok
  | wait
  | bad (st : Status)
  deriving DecidableEq, Repr, Inhabited

/-- The drives of a descriptor (R243): a port the grade lacks, a drive offline or absent, one still coming up. -/
def Mod.drivesCheck (m : Mod) (d : TableDesc) : BindCheck :=
  let ps := portsOf d.drives
  if ps.any fun p => Config.flashPorts m.sys.grade ≤ p then .bad .gradeUnsupported
  else if ps.length ≠ 1 && ps.length ≠ 2 && ps.length ≠ 4 then .bad .imageRejected
  else if ps.any fun p => (Mod.drive m p).state == 0 || (Mod.drive m p).state == 2 then .bad .imageRejected
  else if ps.any fun p => (Mod.drive m p).state == 3 then .wait
  else if ps.any fun p => !(Mod.drive m p).nsids.contains d.nsid then .bad .imageRejected
  else .ok

/-- An extent of `n` pages from `first` on lies within the namespace of each of its drives. -/
def Mod.extentFits (m : Mod) (d : TableDesc) (first n : Nat) : Bool :=
  (portsOf d.drives).all fun p => decide (first + extentLbas d n ≤ (Mod.drive m p).lbas)

/-- The extents of a table fit and do not overlap (R243). -/
def Mod.extentsOk (m : Mod) (d : TableDesc) : Bool :=
  let n := extentLbas d (shardPages d)
  let own := d.localShard != 0xFFFF
  let bud := d.buddyShard != 0xFFFF
  (!own || Mod.extentFits m d d.firstLba (shardPages d)) && (!bud || Mod.extentFits m d d.buddyFirstLba (shardPages d))
    && !(own && bud && decide (d.firstLba < d.buddyFirstLba + n) && decide (d.buddyFirstLba < d.firstLba + n))

/-- The checks of TABLE_BIND (R243). -/
def Mod.bindCheck (m : Mod) (ctx : Nat) (d : TableDesc) : BindCheck :=
  match Mod.drivesCheck m d with
  | .bad .gradeUnsupported => .bad .gradeUnsupported
  | c =>
    let upd := match m.model with | some md => md.blk.updateCacheUnits | none => 0
    if Mod.tableDecl m ctx d.table != some (d.format, d.dim, d.rowBytes) || !rowBytesOk d
        || (d.writable && upd == 0) then .bad .imageRejected
    else match c with
      | .ok => if Mod.extentsOk m d then .ok else .bad .imageRejected
      | x => x

/-- TABLE_BIND on the module: it waits while a drive is coming up (R238, R243); on a spare with an active takeover its
copies are copied in the background (R441); the warm keys are prefetched (R252). -/
def Mod.tableBind (m : Mod) (id : Nat) (d : TableDesc) (shards : List ShardEntry) (warm : List (BitVec 128)) : Mod :=
  match Mod.ready m id 0x0A with
  | none => m
  | some fl =>
    if descFld fl.raw 0x1C 1 0 ≠ 0 || shards.length ≠ d.shards || shards.isEmpty then m
    else match Mod.bindCheck m (descCtx fl.raw) d with
      | .wait => Mod.startFlight m id
      | .bad st => Mod.endFlight m id st 0 0
      | .ok =>
        let copies := b2n (d.localShard != 0xFFFF) + 2 * b2n (d.buddyShard != 0xFFFF)
        let old : Bound := sget {} m.tab.bound d.table
        let b : Bound := { old with d := d, shards := shards }
        let b := if Mod.isSpare m && m.rcv.takeover.isSome then { b with copying := copies, copied := [], opened := 0 } else b
        let m1 := { m with tab := { m.tab with bound := sset {} m.tab.bound d.table b } }
        let m2 := Mod.prefetchRows m1 d.table (Mod.ctxLc m (descCtx fl.raw)) (warm.map fun k => hashRow d k.toNat)
        Mod.endFlight m2 id .ok 0 0

/-- `TABLE_BIND` (R243). -/
def execTableBind (id : Nat) (d : TableDesc) (shards : List ShardEntry) (warm : List (BitVec 128)) (s : State) : Out :=
  .next (s.onMod fun m => Mod.tableBind m id d shards warm)

/-- Unbind a table: its binding, cached pages, slots and reads go. -/
def Mod.unbind (m : Mod) (t : Nat) : Mod :=
  let m1 := (m.flash.reads.filter fun r => r.table == t).foldl Mod.poisonRead m
  { m1 with tab := { m1.tab with
      bound := sset {} m1.tab.bound t {}
      ways := m1.tab.ways.filter fun p => p.2.table != t
      updates := m1.tab.updates.filter fun u => u.table != t
      dirty := m1.tab.dirty.filter fun (x : Nat × Nat × Nat) => x.1 != t } }

/-- TABLE_UNBIND on the module. DESIGN CHOICE: the table number is the first byte of the table descriptor in host memory. -/
def Mod.tableUnbind (m : Mod) (id : Nat) : Mod :=
  match Mod.ready m id 0x0A with
  | none => m
  | some fl =>
    if descFld fl.raw 0x1C 1 0 ≠ 1 then m
    else
      let t := leNat (Mod.hostRead m (descFld fl.raw 0x08 63 0) 1).1
      Mod.endFlight (Mod.unbind m t) id .ok 0 0

/-- `TABLE_UNBIND` (R368). -/
def execTableUnbind (id : Nat) (s : State) : Out := .next (s.onMod fun m => Mod.tableUnbind m id)

/-- TABLE_BIND of a spill extent on the module (R185, R368). -/
def Mod.bindSpill (m : Mod) (id : Nat) (d : TableDesc) : Mod :=
  match Mod.ready m id 0x0A with
  | none => m
  | some fl =>
    if descFld fl.raw 0x1C 1 0 ≠ 2 then m
    else match Mod.drivesCheck m d with
      | .wait => Mod.startFlight m id
      | .bad st => Mod.endFlight m id st 0 0
      | .ok =>
        if Mod.extentFits m d d.firstLba (16 * d.rows) then
          Mod.endFlight (Mod.modCtx m (descCtx fl.raw) fun c => { c with spillExtent := some d }) id .ok 0 0
        else Mod.endFlight m id .imageRejected 0 0

/-- `TABLE_BIND_SPILL_EXTENT` (R368). -/
def execTableBindSpillExtent (id : Nat) (d : TableDesc) (s : State) : Out := .next (s.onMod fun m => Mod.bindSpill m id d)

/-! ## Flush and write-back -/

/-- TABLE_FLUSH on the module (R259, R260): the pages dirty now are written back; sent again, it goes on. -/
def Mod.tableFlush (m : Mod) (id : Nat) : Mod :=
  match Mod.ready m id 0x0B with
  | none => m
  | some fl =>
    let scope := flushScope fl
    let outs := (m.tab.dirty.filter fun (x : Nat × Nat × Nat) => scope.isNone || scope == some x.1).map
      fun (x : Nat × Nat × Nat) => (x.1, x.2.1)
    let mine := distinctPairs (Mod.updPages m scope ++ outs)
    let m1 := if fl.started then m
      else Mod.modFlight (Mod.startFlight m id) id fun x => { x with flushes := mine, merged := [], progress := 0 }
    let todo := if fl.started then fl.flushes.filter fun p => !fl.merged.contains p else mine
    Mod.flushStep (todo.foldl (fun x p => Mod.writeBack x p.1 p.2) m1) id
where
  /-- The distinct pages of a list. -/
  distinctPairs (l : List (Nat × Nat)) : List (Nat × Nat) :=
    l.foldl (fun acc x => if acc.contains x then acc else acc ++ [x]) []

/-- `TABLE_FLUSH` (R260). -/
def execTableFlush (id : Nat) (s : State) : Out := .next (s.onMod fun m => Mod.tableFlush m id)

/-- The update cache is three quarters full (R259). -/
def Mod.updHigh (m : Mod) : Bool := decide (3 * Mod.updSlots m ≤ 4 * m.tab.updates.length)

/-- WRITE_BACK on the module. -/
def Mod.writeBackCmd (m : Mod) (t page : Nat) : Mod :=
  if Mod.updHigh m || m.host.flights.any fun f => f.flushes.contains (t, page) && !f.merged.contains (t, page) then
    Mod.flushAll (Mod.writeBack m t page)
  else m

/-- `WRITE_BACK` (R259); `page` is the page within the shard, plus 2^40 for a page of the buddy copy (R434). -/
def execWriteBack (table page : Nat) (s : State) : Out := .next (s.onMod fun m => Mod.writeBackCmd m table page)

/-! ## Gathers -/

/-- The key list of a table instruction: address and count. -/
def Mod.keyList (m : Mod) (c : Nat) (p : PvisWords) : Nat × Nat :=
  let x := Mod.core m c
  ((Mod.objVa m (Mod.ctxOf m c) (PvisWords.x1 p 63 48)) + x.regN (PvisWords.x1 p 47 43),
    val16 x.regs (PvisWords.x1 p 31 16))

/-- The bag a table instruction hands to its engine. -/
def Mod.bagFor (m : Mod) (c : Nat) (p : PvisWords) (kind : Nat) : Bag :=
  let x := Mod.core m c
  let ks := Mod.keyList m c p
  let gather := kind == 0
  { id := 0, core := c, ctx := Mod.ctxOf m c, job := x.job, table := PvisWords.f p 43 36, kind := kind
    pooling := (if gather then PvisWords.f p 35 34 else 0), format := (if gather then PvisWords.f p 33 30 else 0)
    cores := (if gather then 2 ^ PvisWords.f p 29 27 else 0), channel := (if gather then PvisWords.x1 p 15 0 else 0)
    keys := ks.2, keyVa := ks.1
    token := (if gather && PvisWords.tmode p == 1 then some (PvisWords.token p, false) else none)
    deltaVa := (if kind = 2 then (Mod.objVa m (Mod.ctxOf m c) (PvisWords.x2 p 63 48)) + x.regN (PvisWords.x2 p 47 43)
      else 0) }

/-- `GATHER` (R247, R315). -/
def execGather (c : CoreId) (p : PvisWords) (s : State) : Out :=
  coreCmd "GATHER" 0x90 c p s (Mod.zeroOut c) fun m => Mod.newBag m (Mod.bagFor m c p 0)

/-- GATHER_BAG_DELIVER on the module (R247, R248): pool once every row is there; push while the queues have room; then
the token (R289), and the bag ends. -/
def Mod.bagDeliver (m : Mod) (id : Nat) : Mod :=
  match Mod.bagOf m id with
  | none => m
  | some b =>
    if b.kind ≠ 0 || !b.complete || b.parked then m
    else
      let po := b.got.any fun g => g.2.2
      let out := if b.pooled then b.out else Mod.bagEntries m b ++ match b.token with
        | some t => [(0, tokenEntry t.1 po 0)]
        | none => []
      let m1 := if po then Mod.markPoison m b.job else m
      let r := Mod.pushOut m1 b out
      if r.2.isEmpty then Mod.endBag r.1 b else Mod.modBag r.1 id fun x => { x with out := r.2, pooled := true }

/-- `GATHER_BAG_DELIVER` (R248). -/
def execGatherBagDeliver (bag : Nat) (s : State) : Out := .next (s.onMod fun m => Mod.bagDeliver m bag)

/-- `TPF` (R253, R315). -/
def execTpf (c : CoreId) (p : PvisWords) (s : State) : Out :=
  coreCmd "TPF" 0x91 c p s (Mod.zeroOut c) fun m => Mod.newBag m (Mod.bagFor m c p 1)

/-- A scatter-add the table or the context does not allow (R257). -/
def Mod.scatterDenied (m : Mod) (c t : Nat) : Bool :=
  !Mod.isExclusive m (Mod.ctxOf m c) || (match Mod.bound m t with | some b => !b.d.writable | none => true)

/-- `SCATTER` (R257, R258, R315). -/
def execScatter (c : CoreId) (p : PvisWords) (s : State) : Out :=
  coreCmd "SCATTER" 0x92 c p s (Mod.zeroOut c) fun m =>
    let t := PvisWords.f p 43 36
    if Mod.scatterDenied m c t then Mod.kill m c .region .tableGather 0 t else Mod.newBag m (Mod.bagFor m c p 2)

/-! ## Fills -/

/-- TABLE_FILL_DONE on the module (R251): the frame holds the whole page; its tag becomes valid, the reads that joined
are served, and reads that found no way look again. -/
def Mod.fillDone (m : Mod) (t copy page : Nat) : Mod :=
  match Mod.findWay m t copy page with
  | none => m
  | some k =>
    let w := Mod.way m k
    if !w.filling || !w.loaded then m
    else
      let m1 := Mod.setWay m k { w with valid := true, filling := false, loaded := false }
      Mod.flushAll (Mod.relook ((Mod.readsOf m1 t copy page).foldl (fun x r => Mod.serveFrom x k r) m1) (Mod.cacheSet m t page))

/-- `TABLE_FILL_DONE` (R251). -/
def execTableFillDone (table copy page : Nat) (s : State) : Out := .next (s.onMod fun m => Mod.fillDone m table copy page)

/-- SHARD_COPY_DONE on the module (R441): a shard's background copy ends. -/
def Mod.shardCopyDone (m : Mod) (t copy : Nat) : Mod :=
  match Mod.bound m t with
  | none => m
  | some b =>
    if 2 ≤ copy || !bitAt b.copying copy then m
    else
      Mod.event (Mod.modBound m t fun x => { x with
        copying := x.copying - 2 ^ copy
        opened := x.opened ||| 2 ^ copy }) .shardCopyDone 0xFF t 0

/-- `SHARD_COPY_DONE` (R441). -/
def execShardCopyDone (table copy : Nat) (s : State) : Out := .next (s.onMod fun m => Mod.shardCopyDone m table copy)

/-! ## Between modules -/

/-- Take a packet out of the arrivals, when it came by a port of this module's model. -/
def Mod.takeIn (m : Mod) (p : Packet) : Mod := { m with fab := { m.fab with inbox := m.fab.inbox.erase p } }

/-- Put a packet back among the arrivals: it waits. -/
def Mod.putBack (m : Mod) (p : Packet) : Mod :=
  if m.fab.inbox.contains p then m else { m with fab := { m.fab with inbox := m.fab.inbox ++ [p] } }

/-- A page write from the owner of the shard whose buddy copy this module holds (R259): the copy is written to its drive,
and replaces a cached one. -/
def Mod.buddyWrite (m : Mod) (p : Packet) (t page : Nat) : Mod :=
  let d := Mod.tableD m t
  let pl := copyPlace d 1 page
  let m1 := match Mod.findWay m t 1 page with
    | some k =>
      if (Mod.way m k).valid then
        let va := Mod.wayVa m k
        (match Mod.vaWrite m (brimTlbOf va) 0xFF va p.data p.poison with
        | (x, none) => x
        | (_, some _) => Mod.setWay m k {})
      else m
    | none => m
  let m2 := Mod.modBound m1 t fun b => if bitAt b.copying 1 then { b with copied := sset false b.copied (2 ^ 48 + page) true } else b
  if (Mod.bound m t).isSome && d.buddyShard != 0xFFFF && Mod.driveReady m pl.1 then
    Mod.visorBrim (Mod.nvme m2 pl.1 { cid := 0, cls := 2, lba := pl.2, nsid := d.nsid, table := t, copy := 1, page := page
                                      data := p.data, reply := some p }) pl.1 0xFF 0x52 1
  else Mod.answerRow m2 p 0x08 [] false

/-- A Flush of the drives of a table's buddy copy (R260); it is answered when the last has completed. -/
def Mod.buddyFlush (m : Mod) (p : Packet) (t : Nat) : Mod :=
  let ports := (portsOf (Mod.tableD m t).drives).filter (Mod.driveReady m)
  if ports.isEmpty then Mod.answerRow m p 0x08 [] false
  else ports.foldl (fun x q => Mod.nvme x q { cid := 0, cls := 3, reply := some p }) m

/-- ROW_REQUEST on the module (R249): serve a row or a page from a copy of this module, add deltas to the update cache, or
take a page write or a flush of a buddy copy. Deltas that find the update cache full stay in the arrivals. -/
def Mod.rowRequest (m : Mod) (p : Packet) : Mod :=
  if p.ptype ≠ 0x06 then m
  else
    let m1 := Mod.takeIn m p
    let kind := rowReqKind p
    let t := rowReqTable p
    let d := Mod.tableD m t
    if kind = 3 then Mod.buddyWrite m1 p t (p.address % 2 ^ 40)
    else if kind = 4 then Mod.buddyFlush m1 p t
    else if kind = 2 then
      let n := (p.data.length - 4) / 4
      if Mod.updRoom m1 t p.address then
        Mod.answerRow (Mod.addDeltas m1 t p.address (rowReqX p) (wordsAt (p.data.drop 4) n)) p 0x08 [] false
      else Mod.putBack m p
    else
      let copy := if kind = 1 then rowReqX p % 2 else if rowShard d p.address = d.localShard then 0 else 1
      let page := if kind = 1 then p.address else rowPage d p.address
      let r := Mod.newRead m1 { id := 0, table := t, copy := copy, page := page, row := p.address, lc := p.lc, reply := some p }
      if (Mod.bound m1 t).isNone || copyShard d copy = 0xFFFF then Mod.poisonRead r.1 r.2 else Mod.lookup r.1 r.2

/-- `ROW_REQUEST` (R249). -/
def execRowRequest (pkt : Packet) (s : State) : Out := .next (s.onMod fun m => Mod.rowRequest m pkt)

/-- A page has come from the other copy's holder: it fills the way that waits for it (R255), unless it is poisoned. -/
def Mod.pageArrived (m : Mod) (r : RowRead) (bs : List Byte) (po : Bool) : Mod :=
  match Mod.findWay m r.table r.copy r.page with
  | none => m
  | some k =>
    let w := Mod.way m k
    if !w.filling || w.loaded then m
    else if po then
      if bitAt r.failed 0 || !(m.flash.drives.any fun d => d.2.cmds.any fun c =>
          c.cls ≤ 1 && c.kvPage == 0 && c.table == r.table && c.copy == r.copy && c.page == r.page) then
        Mod.giveUpPage m r.table r.copy r.page
      else Mod.onReads m fun l => l.map fun x =>
        if !x.remote && x.table == r.table && x.copy == r.copy && x.page == r.page then { x with failed := x.failed ||| 2 } else x
    else
      let va := Mod.wayVa m k
      match Mod.vaWrite m (brimTlbOf va) 0xFF va (bs.take 4096) false with
      | (_, some (f, _)) => (Mod.raiseAcc m f .flashHelper 0xFF 0 0 0 true (some (.fill k))).1
      | (m1, none) => Mod.setWay m1 k { w with loaded := true }

/-- ROW_RESPONSE on the module (R249, R255): the row or page of a read, or nothing when another copy was first. -/
def Mod.rowResponse (m : Mod) (p : Packet) : Mod :=
  if p.ptype ≠ 0x07 then m
  else
    let m1 := Mod.takeIn m p
    match m1.fab.reqs.find? fun q => q.tag == p.tag && q.ptype == 0x06 with
    | none => m1
    | some q =>
      let m2 := { m1 with fab := { m1.fab with reqs := m1.fab.reqs.filter fun x => x.tag != p.tag } }
      match m2.flash.reads.find? fun r => r.id == q.va with
      | none => m2
      | some r =>
        if !r.remote then Mod.pageArrived m2 r p.data p.poison
        else if p.poison && r.hedged && r.failed == 0 then
          Mod.onReads m2 fun l => l.map fun x => if x.id = r.id then { x with failed := 1 } else x
        else
          let d := Mod.tableD m2 r.table
          Mod.serveRead m2 r (List.replicate (rowOff d r.row) 0 ++ p.data) p.poison

/-- `ROW_RESPONSE` (R249). -/
def execRowResponse (pkt : Packet) (s : State) : Out := .next (s.onMod fun m => Mod.rowResponse m pkt)

end Sys2Proof.Machine
end

