-- ==== Sys2Proof/Machine/Flash.lean ====
section
/-!
DEFINITION. The flash queue helper: bringing drives up (R238, R239, R521), completions (R237), the limits of waiting
(R255), and drives that go offline (R256).
-/
namespace Sys2Proof.Machine

open Sys2Proof

/-! ## Completions -/

/-- Remove a command from a drive. -/
def Mod.dropCmd (m : Mod) (p cid : Nat) : Mod :=
  Mod.modDrive m p fun d => { d with cmds := d.cmds.filter fun c => c.cid != cid }

/-- Issue a command again. -/
def Mod.reissue (m : Mod) (p : Nat) (c : Nvme) : Mod := Mod.nvme m p { c with retried := true }

/-- The page a read brought: what the block holds; where a shard's background copy has just ended, what that copy
brought, which no rule states (R441). -/
def Mod.pageRead (m : Mod) (p : Nat) (c : Nvme) : Mod × List Byte :=
  match Mod.bound m c.table with
  | some b =>
    let key := c.copy * 2 ^ 48 + c.page
    if bitAt b.opened c.copy && !sget false b.copied key then
      let f := Mod.freePage m
      let m1 := Mod.mediaWrite f.1 p c.nsid c.lba f.2
      (Mod.modBound m1 c.table fun x => { x with copied := sset false x.copied key true }, f.2)
    else (m, Mod.mediaRead m p c.nsid c.lba)
  | none => (m, Mod.mediaRead m p c.nsid c.lba)

/-- A page read has brought its page (R251): it is written to its frame; the fill's end follows. Data that another copy
was ahead of is dropped (R255). -/
def Mod.readOk (m : Mod) (p : Nat) (c : Nvme) : Mod :=
  match Mod.findWay m c.table c.copy c.page with
  | none => m
  | some k =>
    let w := Mod.way m k
    if !w.filling || w.loaded then m
    else
      let r := Mod.pageRead m p c
      let va := Mod.wayVa m k
      match Mod.vaWrite r.1 (brimTlbOf va) 0xFF va r.2 false with
      | (_, some (f, _)) => (Mod.raiseAcc m f .flashHelper 0xFF 0 0 0 true (some (.fill k))).1
      | (m1, none) => Mod.setWay m1 k { w with loaded := true }

/-- A copy has failed a page that is being filled (R255): the other copy is asked; when both have failed, or there is no
other, the page is given up. `bit` is 0 for the copy first asked. -/
def Mod.copyFailedPage (m : Mod) (t copy page bit : Nat) : Mod :=
  match Mod.findWay m t copy page with
  | none => m
  | some k =>
    let w := Mod.way m k
    if !w.filling || w.loaded then m
    else
      let rs := Mod.readsOf m t copy page
      let m1 := Mod.onReads m fun l => l.map fun x =>
        if !x.remote && x.table == t && x.copy == copy && x.page == page then { x with failed := x.failed ||| 2 ^ bit } else x
      if rs.any fun r => r.failed ||| 2 ^ bit == 3 then Mod.giveUpPage m1 t copy page
      else if rs.any (·.hedged) then m1
      else Mod.relook (Mod.askOther m1 t copy page (rs.any (·.lc))) (Mod.cacheSet m t page)

/-- The Flush of another module's TABLE_FLUSH is answered when its last command has completed (R260). -/
def Mod.answerFlush (m : Mod) (p : Packet) : Mod :=
  if m.flash.drives.any fun d => d.2.cmds.any fun c => c.cls == 3 && c.reply == some p then m
  else Mod.answerRow m p 0x08 [] false

/-- A command has completed (R237, R259, R260). A write or flush the drive reports as failed is issued again. -/
def Mod.nvmeDone (m : Mod) (p : Nat) (c : Nvme) (ok : Bool) : Mod :=
  if c.kvPage ≠ 0 then
    if ok || c.cls = 2 then m else Mod.modPage m (c.kvPage - 1) fun d => { d with poisoned := true }
  else if c.cls ≤ 1 then (if ok then Mod.readOk m p c else Mod.copyFailedPage m c.table c.copy c.page 0)
  else if !ok then Mod.reissue m p c
  else if c.cls = 2 then
    let m1 := Mod.mediaWrite m p c.nsid c.lba c.data
    match c.reply with
    | some q => Mod.answerRow m1 q 0x08 [] false
    | none => Mod.dirtyDone m1 c.table (c.copy * 2 ^ 40 + c.page)
  else match c.flush, c.reply with
    | some id, _ => Mod.modFlight m id fun f => { f with flushPorts := f.flushPorts.filter (· != p) }
    | none, some q => Mod.answerFlush m q
    | none, none => m

/-- Complete one command of a drive, if it is outstanding. -/
def Mod.nvmePoll (p : Nat) (m : Mod) (x : Nat × Bool) : Mod :=
  match (Mod.drive m p).outstanding.find? fun c => c.cid == x.1 with
  | some c =>
    let m1 := Mod.modDrive (Mod.dropCmd m p x.1) p fun d => { d with timeouts := 0 }
    Mod.nvmeDone m1 p c x.2
  | none => m

/-- `NVME_COMPLETION_POLL` (R237): the commands found complete, each with whether it succeeded. -/
def execNvmeCompletionPoll (port : Fin 4) (done : List (Nat × Bool)) (s : State) : Out :=
  .next (s.onMod fun m => if Mod.driveReady m port then Mod.flushAll (done.foldl (Mod.nvmePoll port) m) else m)

/-! ## Bring-up -/

/-- The queues a drive gets (R521): when it grants fewer than asked, write queues are given up down to 1, then best-effort
queues, then latency-critical queues. -/
def Drive.grants (d : Drive) : Nat × Nat × Nat :=
  let q := d.queues.toNat
  let lc := fld q 6 0
  let be := fld q 14 8
  let wr := fld q 22 16
  let short := lc + be + wr - d.grant
  let fromWr := min short (wr - 1)
  let fromBe := min (short - fromWr) be
  (lc - (short - fromWr - fromBe), be - fromBe, wr - fromWr)

/-- Create a drive's queues. -/
def Drive.create (d : Drive) : Drive :=
  let g := d.grants
  { d with lcGranted := g.1, beGranted := g.2.1, wrGranted := g.2.2 }

/-- `DRIVE_BRING_UP` (R238, R239): the port has trained, the controller is ready, and its queues are created. -/
def execDriveBringUp (port : Fin 4) (gen width lbas grant : Nat) (nsids : List Nat) (wrr : Bool) (s : State) : Out :=
  .next (s.onMod fun m =>
    if (Mod.drive m port).state ≠ 3 then m
    else Mod.modDrive m port fun d => Drive.create { d with
      state := 1, present := true, gen := gen, width := width, lbas := lbas, nsids := nsids, urgent := wrr, grant := grant })

/-- FLP_QUEUES_n's defined bits. -/
def flpMask : Nat := 0x07FF_07FF_007F_7F7F

/-- A value of FLP_QUEUES_n that is not ignored whole (R521). -/
def flpValid (v : Nat) : Bool :=
  decide (fld v 6 0 + fld v 14 8 + fld v 22 16 ≤ 64) && fld v 6 0 != 0 && fld v 22 16 != 0
    && decide (fld v 58 48 ≤ fld v 42 32)

/-- A write to FLP_QUEUES_n (R521): before bring-up it is kept for it; after, it is applied only while no table is bound
on the port and no context exists (a spill extent is bound to a context). -/
def Mod.flpWrite (m : Mod) (p : Nat) (v : Nat) : Mod :=
  let d := Mod.drive m p
  let v := v &&& flpMask
  let used := (m.tab.bound.any fun b => !b.2.shards.isEmpty && bitAt b.2.d.drives p) || Mod.liveContexts m != 0
  if Config.flashPorts m.sys.grade ≤ p || !flpValid v then m
  else if d.state = 0 ∨ d.state = 3 then Mod.modDrive m p fun x => { x with queues := BitVec.ofNat 64 v }
  else if used then m
  else Mod.modDrive m p fun x => Drive.create { x with queues := BitVec.ofNat 64 v }

/-- `FLP_QUEUES_WRITE` (R521). -/
def execFlpQueuesWrite (port : Fin 4) (v : DWord) (s : State) : Out := .next (s.onReg fun m => Mod.flpWrite m port v.toNat)

/-! ## Offline -/

/-- What becomes of a command of a drive that goes offline (R256): a page read goes to the other copy; a key-value page is
lost or stays in GDDR (R188); a write or flush counts as ended. -/
def Mod.lostCmd (p : Nat) (m : Mod) (c : Nvme) : Mod :=
  if c.kvPage ≠ 0 then
    let page := c.kvPage - 1
    if c.cls ≠ 2 then Mod.modPage m page fun d => { d with poisoned := true }
    else if (Mod.page m page).tier = 2 then
      Mod.tryRelease (Mod.modPage (Mod.freeSpillSlot m (Mod.page m page)) page fun d =>
        { d with tier := 1, spillAddr := 0, flash := false }) page
    else m
  else if c.cls ≤ 1 then
    match Mod.findWay m c.table c.copy c.page with
    | some k =>
      if (Mod.way m k).filling && !(Mod.way m k).loaded then
        Mod.relook (Mod.askOther m c.table c.copy c.page (c.cls == 0)) (Mod.cacheSet m c.table c.page)
      else m
    | none => m
  else match c.reply, c.flush with
    | some q, _ => if c.cls = 3 then Mod.answerFlush m q else Mod.answerRow m q 0x08 [] false
    | none, some id => Mod.modFlight m id fun f => { f with flushPorts := f.flushPorts.filter (· != p) }
    | none, none => Mod.dirtyDone m c.table (c.copy * 2 ^ 40 + c.page)

/-- Mark a drive offline (R238, R256): an event record and an alert; its commands are dropped, its reads redirected. -/
def Mod.driveOffline (m : Mod) (p : Nat) : Mod :=
  let cs := (Mod.drive m p).cmds
  let m1 := Mod.modDrive m p fun d => { d with state := 2, cmds := [] }
  let m2 := Mod.alert (Mod.event m1 .driveOffline 0xFF p 0) .driveOffline p
  Mod.flushAll (cs.foldl (Mod.lostCmd p) m2)

/-- A drive that is up or coming up goes offline. -/
def Mod.dropDrive (m : Mod) (p : Nat) : Mod :=
  if (Mod.drive m p).state = 1 ∨ (Mod.drive m p).state = 3 then Mod.driveOffline m p else m

/-- `DRIVE_READY_TIMEOUT` (R238). -/
def execDriveReadyTimeout (port : Fin 4) (s : State) : Out :=
  .next (s.onMod fun m => if (Mod.drive m port).state = 3 then Mod.driveOffline m port else m)

/-- `FLASH_LINK_DOWN` (R256). -/
def execFlashLinkDown (port : Fin 4) (s : State) : Out := .next (s.onMod fun m => Mod.dropDrive m port)

/-- `CONTROLLER_FATAL_STATUS` (R256). -/
def execControllerFatalStatus (port : Fin 4) (s : State) : Out := .next (s.onMod fun m => Mod.dropDrive m port)

/-! ## Limits of waiting -/

/-- The hedge of a table is on for a copy (R240, R255, R441). -/
def Mod.hedgeOn (m : Mod) (t copy : Nat) : Bool :=
  match Mod.bound m t with
  | some b => b.d.hedgeUs != 0xFFFF_FFFF && !bitAt b.copying copy
  | none => false

/-- Hedge a read of another module's row (R255): the other holder, which may be this module. -/
def Mod.hedgeRemote (m : Mod) (r : RowRead) : Mod :=
  match Mod.bound m r.table with
  | none => m
  | some b =>
    let s := rowShard b.d r.row
    let m1 := Mod.onReads m fun l => l.map fun x => if x.id = r.id then { x with hedged := true } else x
    if s = b.d.buddyShard then
      let n := Mod.newRead m1 { r with remote := false, copy := 1, hedged := false }
      Mod.lookup (Mod.visorBrim n.1 0 (Mod.readCtx m r) 0x50 1) n.2
    else match b.shards[s]? with
      | some e =>
        (match e.buddy with
        | some xyz =>
          if Mod.isLost m xyz || Mod.isLost m e.owner then m
          else Mod.sendRow (Mod.visorBrim m1 0 (Mod.readCtx m r) 0x50 1) xyz r.lc r.row (rowReqData 0 r.table 1) 0x06 0 r.id
        | none => m)
      | none => m

/-- HEDGE_TIMEOUT on the module (R255): a read not delivered in time, whose shard has a buddy. -/
def Mod.hedge (m : Mod) (id : Nat) : Mod :=
  match m.flash.reads.find? fun r => r.id == id with
  | none => m
  | some r =>
    if r.hedged then m
    else if r.remote then (if Mod.hedgeOn m r.table 2 then Mod.hedgeRemote m r else m)
    else match Mod.findWay m r.table r.copy r.page with
      | some k =>
        if (Mod.way m k).filling && !(Mod.way m k).loaded && Mod.hedgeOn m r.table r.copy
            && (Mod.otherHolder m r.table r.copy).isSome then
          Mod.visorBrim (Mod.askOther m r.table r.copy r.page r.lc) (Mod.cacheSet m r.table r.page % 4) (Mod.readCtx m r) 0x50 1
        else m
      | none => m

/-- `HEDGE_TIMEOUT` (R255). -/
def execHedgeTimeout (read : Nat) (s : State) : Out := .next (s.onMod fun m => Mod.hedge m read)

/-- NVME_COMMAND_TIMEOUT on the module (R255, R256): the command is aborted; a read with no data yet is retried once, a
write or a flush is issued again; the third timeout in a row takes the drive offline. -/
def Mod.nvmeTimeout (m : Mod) (p cid : Nat) : Mod :=
  match (Mod.drive m p).outstanding.find? fun c => c.cid == cid with
  | none => m
  | some c =>
    let n := (Mod.drive m p).timeouts + 1
    let m1 := Mod.modDrive (Mod.visorBrim (Mod.dropCmd m p cid) p 0xFF 0x51 1) p fun d => { d with timeouts := n }
    let waits := match Mod.findWay m c.table c.copy c.page with
      | some k => (Mod.way m k).filling && !(Mod.way m k).loaded
      | none => false
    let m2 :=
      if c.cls ≤ 1 && c.kvPage == 0 then (if waits && !c.retried then Mod.reissue m1 p c else m1)
      else if c.kvPage ≠ 0 && c.cls ≤ 1 && c.retried then Mod.nvmeDone m1 p c false
      else Mod.reissue m1 p c
    if 3 ≤ n then Mod.driveOffline m2 p else m2

/-- `NVME_COMMAND_TIMEOUT` (R255). -/
def execNvmeCommandTimeout (port : Fin 4) (cid : Nat) (s : State) : Out := .next (s.onMod fun m => Mod.nvmeTimeout m port cid)

/-- READ_GIVE_UP on the module (R255): the row is delivered poisoned; a page that no other read waits for is not cached. -/
def Mod.readGiveUp (m : Mod) (id : Nat) : Mod :=
  match m.flash.reads.find? fun r => r.id == id with
  | none => m
  | some r =>
    let m1 := Mod.poisonRead m r
    if r.remote || !(Mod.readsOf m1 r.table r.copy r.page).isEmpty then m1
    else Mod.giveUpPage m1 r.table r.copy r.page

/-- `READ_GIVE_UP` (R255). -/
def execReadGiveUp (read : Nat) (s : State) : Out := .next (s.onMod fun m => Mod.readGiveUp m read)

/-- REMOTE_ROW_TIMEOUT on the module (R255): a remote request of a read went unanswered: as an NVMe timeout on that copy.
A read with no data yet is asked for once more; a page asked of the other copy counts as failed there. -/
def Mod.remoteTimeout (m : Mod) (id : Nat) : Mod :=
  match m.flash.reads.find? (fun r => r.id == id), m.fab.reqs.find? fun q => q.ptype == 0x06 && q.va == id with
  | some r, some q =>
    let m1 := { m with fab := { m.fab with reqs := m.fab.reqs.filter fun x => x.tag != q.tag } }
    if !r.remote then Mod.copyFailedPage m1 r.table r.copy r.page 1
    else if r.retried then m1
    else
      let m2 := Mod.onReads m1 fun l => l.map fun x => if x.id = id then { x with retried := true } else x
      Mod.sendRow m2 q.dest r.lc r.row (rowReqData 0 r.table 0) 0x06 0 id
  | _, _ => m

/-- `REMOTE_ROW_TIMEOUT` (R255). -/
def execRemoteRowTimeout (read : Nat) (s : State) : Out := .next (s.onMod fun m => Mod.remoteTimeout m read)

/-- An acknowledgement of a row request that moved data (R257, R259, R260): deltas, a page write, or a flush. -/
def Mod.rowAcked (m : Mod) (q : Req) : Mod :=
  if q.ptype = 0x26 then Mod.flushAll (Mod.dirtyDone m (q.va / 2 ^ 48) (q.va % 2 ^ 48))
  else if q.ptype = 0x36 then
    Mod.flushStep (Mod.modFlight m q.job fun f => { f with flushTo := f.flushTo.erase q.dest }) q.job
  else m

end Sys2Proof.Machine
end

