-- ==== Sys2Proof/Machine/Lost.lean ====
section
/-!
DEFINITION. Losing others and failing oneself: requests that end without an answer (R429), operations that end in error
(R426), the FAILING declaration (R446), the loss of a module (R430 to R434), and the health of peers (R444).
-/
namespace Sys2Proof.Machine

open Sys2Proof

/-! ## Requests and operations that end in error -/

/-- A request is no longer tracked. -/
def Mod.dropReq (m : Mod) (tag : Nat) : Mod := { m with fab := { m.fab with reqs := m.fab.reqs.filter fun r => r.tag != tag } }

/-- End the job a request serves with PARTICIPANT_LOST (R429); a request that serves no job ends nothing. -/
def Mod.loseJob (m : Mod) (job : Nat) : Mod :=
  match Mod.flight m job with
  | some f => if descKind f.raw = 0x03 then Mod.finishJob m job .participantLost else m
  | none => m

/-- A request ends without an answer (R429). Row requests follow R255: a read stays tracked until its own limit; page
writes and flushes of a buddy copy count as ended; a buddy push (R437) stops. -/
def Mod.reqFailed (m : Mod) (q : Req) : Mod :=
  if q.ptype = 0x06 then m
  else
    let m1 := Mod.dropReq m q.tag
    if q.ptype = 0x26 ∨ q.ptype = 0x36 then Mod.rowAcked m1 q
    else if q.job = 2 ^ 64 then { m1 with rcv := { m1.rcv with pushing := false } }
    else Mod.loseJob m1 q.job

/-- End a group's running operation with an error (R426): the job that set its trigger ends with the status, its done flag
stays clear, and later operations do not start. -/
def Mod.collFail (m : Mod) (n : Nat) (g : Group) (st : Status) : Mod :=
  let m1 := Mod.setGroup m n (Group.clear { g with running := false, failed := true })
  let m2 := Mod.dropOps m1 fun o => match o with | .coll k => k == n | _ => false
  if g.job = 0 then m2 else Mod.finishJob m2 (g.job - 1) st

/-! ## Messages -/

/-- Members of the module's groups, each once, but for the module itself (R444). -/
def Mod.peers (m : Mod) : List Xyz :=
  (m.coll.flatMap fun p => match p.2 with | some g => memberList g.d | none => []).foldl (fun acc x =>
    if acc.contains x || Mod.answersTo m x then acc else acc ++ [x]) []

/-- Send health packets to the members of the module's groups (R444). -/
def Mod.sendHealth (m : Mod) (state reason site : Nat) : Mod :=
  (Mod.peers m).foldl (fun x d => Mod.sendPacket x
    { ptype := 0x20, dest := d, src := Mod.memberHere x, data := leBytes 1 state ++ leBytes 1 reason ++ leBytes 1 site }
    none) m

/-- A supervisor packet (R432). -/
def Mod.supervisorPacket (m : Mod) (msg : Nat) (subject : Xyz) (reason : Nat) (dest : Xyz) : Packet :=
  { ptype := 0x21, dest := dest, src := Mod.memberHere m
    data := leBytes 1 msg ++ leBytes 1 subject.1 ++ leBytes 1 subject.2.1 ++ leBytes 1 subject.2.2 ++ leBytes 1 reason }

/-- Every coordinate of the torus. -/
def Mod.torus (m : Mod) : List Xyz :=
  let (dx, dy, dz) := Mod.extents m
  (List.range dz).flatMap fun z => (List.range dy).flatMap fun y => (List.range dx).map fun x => (x, y, z)

/-- Send a supervisor message about `subject` to every other module of the torus (R432). -/
def Mod.superviseAll (m : Mod) (msg : Nat) (subject : Xyz) (reason : Nat) : Mod :=
  ((Mod.torus m).filter fun d => d != subject && !Mod.answersTo m d).foldl (fun x d =>
    Mod.sendPacket x (Mod.supervisorPacket x msg subject reason d) none) m

/-- Send a supervisor message to the spare of the module's X ring, on port 14 (R430). -/
def Mod.superviseSpare (m : Mod) (msg : Nat) (subject : Xyz) : Mod :=
  let pkt := Mod.supervisorPacket m msg subject 0 (Mod.here m)
  Mod.pump512 (Mod.modPort m 14 fun q => { q with txq := insertTx (3, 0, flitsOf pkt, pkt) q.txq }) 14

/-- Take out of the arrivals the packet that a command of its fields stands for. -/
def Mod.takeMsg (m : Mod) (p : Packet → Bool) : Mod :=
  match m.fab.inbox.find? p with
  | some x => { m with fab := { m.fab with inbox := m.fab.inbox.erase x } }
  | none => m

/-- A supervisor packet of a message about a coordinate. -/
def isMsg (msg : Nat) (xyz : Xyz) (p : Packet) : Bool :=
  p.ptype == 0x21 && (nth 0 p.data 0).toNat == msg
    && ((nth 0 p.data 1).toNat, (nth 0 p.data 2).toNat, (nth 0 p.data 3).toNat) == xyz

/-! ## FAILING -/

/-- The jobs of the module, in fetch order. -/
def Mod.jobs (m : Mod) : List Flight := m.host.flights.filter fun f => descKind f.raw == 0x03

/-- The module declares itself FAILING (R446): it says so, and its jobs end DEVICE_FAILING (R375). The first cause is kept
(CRN_STATUS). -/
def Mod.fail (m : Mod) (reason site : Nat) : Mod :=
  if m.sys.failing then m
  else
    let m1 := { m with sys := { m.sys with failing := true, failReason := reason, failPorts := true } }
    let m2 := Mod.alert (Mod.event m1 .deviceFailing 0xFF 0 0) .deviceFailing 0
    let m3 := Mod.sendHealth m2 2 (if reason = 2 then 2 else 3) site
    (Mod.jobs m3).foldl (fun x f => Mod.finishJob x f.id .deviceFailing) m3

/-! ## A lost module -/

/-- A read asked of another module is asked again at the shard's other home (R434); a page asked of the other copy
counts as failed there. -/
def Mod.readLost (m : Mod) (q : Req) : Mod :=
  let m1 := Mod.dropReq m q.tag
  match m1.flash.reads.find? fun r => r.id == q.va with
  | none => m1
  | some r =>
    if r.remote then
      Mod.readRow (Mod.onReads m1 fun l => l.filter fun x => x.id != r.id) r.table r.row r.lc r.bag
    else Mod.copyFailedPage m1 r.table r.copy r.page 1

/-- The context has a channel that leads to a core on a module (R434). -/
def Mod.leadsTo (m : Mod) (k : Nat) (xyz : Xyz) : Bool :=
  let own := match Mod.ctx m k with | some c => c.image.channels | none => []
  let shared := match m.model with | some md => md.image.channels | none => []
  (own ++ shared.filter fun (d : ChanDecl) => !own.any fun (x : ChanDecl) => x.number == d.number).any
    fun (d : ChanDecl) => d.remote == some xyz

/-- A pass over ring rows is under way in the job (R191): a core of it waits in the pass. -/
def Mod.inRing (m : Mod) (job : Nat) : Bool :=
  m.cores.any fun p => p.2.running && p.2.job == job && (match p.2.pass with
    | some ls => ls.any fun (l : Nat × PageList) => l.2.ring
    | none => false)

/-- A group of the context has the module as a member. -/
def Mod.grouped (m : Mod) (k : Nat) (xyz : Xyz) : Bool :=
  m.coll.any fun p => match p.2 with | some g => g.d.context == k && isMember g.d xyz | none => false

/-- The jobs that a lost module ends besides those of operations and requests (R434): those with a channel to it, or in a
ring pass with it. -/
def Mod.dependents (m : Mod) (xyz : Xyz) : List Flight :=
  (Mod.jobs m).filter fun f =>
    let k := descCtx f.raw
    Mod.leadsTo m k xyz || (Mod.inRing m f.id && Mod.grouped m k xyz)

/-- Queue again every packet that has sent no flit, or that a port which is not active holds: routes have changed (R428,
R432). -/
def Mod.reroute (m : Mod) : Mod :=
  let stays (p : Port) (it : Nat × Nat × Nat × Packet) : Bool := p.isActive && it.2.2.1 != flitsOf it.2.2.2
  let moved := m.fab.ports.flatMap fun (q : Nat × Port) => q.2.txq.filter fun it => !stays q.2 it
  let m1 := { m with fab := { m.fab with
      ports := m.fab.ports.map fun (q : Nat × Port) => (q.1, { q.2 with txq := q.2.txq.filter (stays q.2) }) } }
  let m2 := { m1 with fab := { m1.fab with ports := m1.fab.ports.filter fun (q : Nat × Port) => q.2 != (default : Port) } }
  moved.foldl (fun x it =>
    let p := it.2.2.2
    Mod.queuePacket x p (if p.ptype = 0x10 then some (p.address / collPerPacket % 2) else none) (some it.2.1) true) m2

/-- A module is lost (R432, R434): its coordinate is routed round, module_lost is raised, and what depends on it ends. -/
def Mod.lose (m : Mod) (xyz : Xyz) (reason : Nat) : Mod :=
  if Mod.isLost m xyz then m
  else
    let m1 := Mod.reroute { m with fab := { m.fab with lost := m.fab.lost ++ [xyz] } }
    let m2 := Mod.event m1 .moduleLost 0xFF 0
      (xyz.1 % 256 + xyz.2.1 % 256 * 2 ^ 8 + xyz.2.2 % 256 * 2 ^ 16 + reason % 256 * 2 ^ 24)
    let m3 := m2.coll.foldl (fun x p => match p.2 with
      | some g => if g.running && isMember g.d xyz then Mod.collFail x p.1 g .participantLost else x
      | none => x) m2
    let m4 := (m3.fab.reqs.filter fun q => q.dest == xyz).foldl (fun x q =>
      if q.ptype = 0x06 then Mod.readLost x q else Mod.reqFailed x q) m3
    (Mod.dependents m4 xyz).foldl (fun x f => Mod.finishJob x f.id .participantLost) m4

/-- The spare declares a member of its ring lost (R430, R432, R433): one takeover at a time, on BRN-A80. -/
def Mod.declare (m : Mod) (x reason : Nat) : Mod :=
  let xyz := (x, (Mod.here m).2)
  if !Mod.isSpare m || m.sys.grade == .s64 || m.rcv.takeover.isSome || (Mod.extents m).1 ≤ x || Mod.isLost m xyz then m
  else
    let m1 := { m with rcv := { m.rcv with takeover := some { x := x, reason := reason } } }
    Mod.lose (Mod.superviseAll m1 3 xyz reason) xyz reason

/-! ## Health of peers -/

/-- Raise an event for each group that has the peer as a member (R448). -/
def Mod.peerEvent (m : Mod) (code : EventCode) (xyz : Xyz) : Mod :=
  m.coll.foldl (fun x p => match p.2 with
    | some g => if isMember g.d xyz then
        Mod.event x code 0xFF p.1 (xyz.1 % 256 + xyz.2.1 % 256 * 2 ^ 8 + xyz.2.2 % 256 * 2 ^ 16) else x
    | none => x) m

/-- Record a peer's announced health (R430, R444): slow, normal, or failing; a spare declares a failing member of its ring
lost at once. -/
def Mod.noteHealth (m : Mod) (xyz : Xyz) (state : Nat) : Mod :=
  if state = 1 then
    if m.fab.slow.contains xyz then m
    else Mod.peerEvent { m with fab := { m.fab with slow := m.fab.slow ++ [xyz] } } .peerSlow xyz
  else if state = 0 then
    if m.fab.slow.contains xyz then
      Mod.peerEvent { m with fab := { m.fab with slow := m.fab.slow.filter (· != xyz) } } .peerNormal xyz
    else m
  else if state = 2 then
    let m1 := if m.fab.failingPeers.contains xyz then m
      else { m with fab := { m.fab with failingPeers := m.fab.failingPeers ++ [xyz] } }
    if xyz.2 == (Mod.here m).2 then Mod.declare m1 xyz.1 2 else m1
  else m

/-! ## The commands -/

/-- `HEALTH_PACKET` (R444): a member's health packet is taken. -/
def execHealthPacket (xyz : Nat × Nat × Nat) (state _reason _site : Nat) (s : State) : Out :=
  .next (s.onMod fun m =>
    Mod.noteHealth (Mod.takeMsg m fun p => p.ptype == 0x20 && p.src == xyz && (nth 0 p.data 0).toNat == state) xyz state)

/-- A throttled site of the module, the lowest (R444). -/
def Mod.throttledSite (m : Mod) : Option Nat := (List.range 16).find? fun n => (Mod.site m n).state == 2

/-- `SLOW_HEALTH_TIMER` (R444): every 100 ms while slow. -/
def execSlowHealthTimer (s : State) : Out :=
  .next (s.onMod fun m => match Mod.throttledSite m with
    | some n => if m.sys.failing then m else Mod.sendHealth m 1 1 n
    | none => m)

/-- `SLOW_EXTENSION_END` (R445): 1 s after the last slow packet the peer's watchdogs are as before. -/
def execSlowExtensionEnd (xyz : Nat × Nat × Nat) (s : State) : Out :=
  .next (s.onMod fun m => { m with fab := { m.fab with slow := m.fab.slow.filter (· != xyz) } })

/-- A neighbour of a member: `reporter` is the coordinate x of one of the two (R430): 1 for x − 1, 2 for x + 1; both, in a
ring of two. -/
def Mod.parties (m : Mod) (reporter x : Nat) : List Nat :=
  let d := (Mod.extents m).1
  (if reporter = stepCoord x d false then [1] else []) ++ (if reporter = stepCoord x d true then [2] else [])

/-- Record on a spare that a party's links to a member are silent, or have returned (R430). -/
def Mod.setSilent (m : Mod) (x : Nat) (ps : List Nat) (val : Bool) : Mod :=
  { m with rcv := { m.rcv with silent := ps.foldl (fun t q => sset false t (x * 4 + q) val) m.rcv.silent } }

/-- A silence message of a neighbour, on the spare of its ring. -/
def Mod.silenceMsg (m : Mod) (msg reporter : Nat) (xyz : Xyz) (val : Bool) : Mod :=
  if Mod.isSpare m && xyz.2 == (Mod.here m).2 then
    Mod.setSilent (Mod.takeMsg m (isMsg msg xyz)) xyz.1 (Mod.parties m reporter xyz.1) val
  else m

/-- `SILENCE_REPORT` (R430). -/
def execSilenceReport (reporter : Nat) (xyz : Nat × Nat × Nat) (s : State) : Out :=
  .next (s.onMod fun m => Mod.silenceMsg m 1 reporter xyz true)

/-- `SILENCE_ENDED` (R430). -/
def execSilenceEnded (reporter : Nat) (xyz : Nat × Nat × Nat) (s : State) : Out :=
  .next (s.onMod fun m => Mod.silenceMsg m 2 reporter xyz false)

/-- Every party of R430 has been silent. -/
def Mod.allSilent (m : Mod) (x : Nat) : Bool := (List.range 3).all fun q => sget false m.rcv.silent (x * 4 + q)

/-- `SILENCE_DECLARATION_TIMEOUT` (R430 case 1). -/
def execSilenceDeclarationTimeout (x : Byte) (s : State) : Out :=
  .next (s.onMod fun m => if Mod.allSilent m x.toNat then Mod.declare m x.toNat 1 else m)

/-- `LNK_DECLARE_LOST` (R430 case 3). -/
def execLnkDeclareLost (x : Byte) (s : State) : Out := .next (s.onReg fun m => Mod.declare m x.toNat 3)

/-- `SUPERVISOR_LOST` (R432): the message of a spare that has declared a module lost. -/
def execSupervisorLost (xyz : Nat × Nat × Nat) (reason : Nat) (s : State) : Out :=
  .next (s.onMod fun m => Mod.lose (Mod.takeMsg m (isMsg 3 xyz)) xyz reason)

/-- SUPERVISOR_TAKEOVER_READY on the module (R432): the spare serves at the coordinate. -/
def Mod.takeoverReady (m : Mod) (xyz : Xyz) (reason : Nat) : Mod :=
  let m1 := Mod.takeMsg m (isMsg 4 xyz)
  let m2 := Mod.lose m1 xyz reason
  if m2.fab.ready.contains xyz then m2 else { m2 with fab := { m2.fab with ready := m2.fab.ready ++ [xyz] } }

/-- `SUPERVISOR_TAKEOVER_READY` (R432). -/
def execSupervisorTakeoverReady (xyz : Nat × Nat × Nat) (reason : Nat) (s : State) : Out :=
  .next (s.onMod fun m => Mod.takeoverReady m xyz reason)

/-- Normal routes for a coordinate again (R442). -/
def Mod.restoreRoutes (m : Mod) (xyz : Xyz) : Mod :=
  { m with fab := { m.fab with
      lost := m.fab.lost.filter (· != xyz)
      ready := m.fab.ready.filter (· != xyz)
      failingPeers := m.fab.failingPeers.filter (· != xyz) } }

/-- `SUPERVISOR_RELEASE` (R442). -/
def execSupervisorRelease (xyz : Nat × Nat × Nat) (s : State) : Out :=
  .next (s.onMod fun m => Mod.restoreRoutes (Mod.takeMsg m (isMsg 5 xyz)) xyz)

/-- The member a spare stands for is the one named, and no context exists: the takeover ends (R442). -/
def Mod.endTakeover (m : Mod) (x : Nat) : Mod :=
  match m.rcv.takeover with
  | none => m
  | some t =>
    if t.x ≠ x || !Mod.isSpare m || m.ctxs.any fun p => p.2.isSome then m
    else
      let xyz := (x, (Mod.here m).2)
      let m1 := Mod.restoreRoutes (Mod.superviseAll m 5 xyz t.reason) xyz
      { m1 with rcv := { m1.rcv with takeover := none, silent := m1.rcv.silent.filter fun p => p.1 / 4 != x } }

/-- `LNK_DECLARE_RELEASE` (R442). -/
def execLnkDeclareRelease (x : Byte) (s : State) : Out := .next (s.onReg fun m => Mod.endTakeover m x.toNat)

end Sys2Proof.Machine
end

