-- ==== Sys2Proof/Machine/Power.lean ====
section
/-!
DEFINITION. Voltage islands and their limits: the loops (R456, R457), the enforcer (R460, R461), floors and pins (R461 to
R463), thermal caps (R464), the brake (R465) and undervoltage holds (R458). A limit register holds what was written; the
clamps of its field apply where it is used.
-/
namespace Sys2Proof.Machine

open Sys2Proof

/-! ## Voltages -/

/-- Lowest and highest voltage of an island in mV (R456). -/
def minMv : Nat := 550

/-- The highest voltage of an island. -/
def maxMv : Nat := 850

/-- The lowest voltage in steps of 10 mV between two rows of R454 whose floor is at least `r` (R461). -/
def floorBetween (v0 r0 v1 r1 r : Nat) : Nat := ceilDiv (v0 * (r1 - r0) + (v1 - v0) * (r - r0)) (10 * (r1 - r0)) * 10

/-- Floor voltage in mV of a floor rate in units of 10 M steps/s (R454, R461). -/
def floorMv (r : Nat) : Nat :=
  let r := min 182 r
  if r ≤ 78 then 550
  else if r ≤ 110 then floorBetween 550 78 620 110 r
  else if r ≤ 148 then floorBetween 620 110 720 148 r
  else if r ≤ 170 then floorBetween 720 148 800 170 r
  else floorBetween 800 170 850 182 r

/-- The loop's preference in mV for `busy` of `total` reference ticks (R457). -/
def prefMv (busy total : Nat) : Nat :=
  if 10 * busy ≤ 3 * total then 550
  else if 9 * total ≤ 10 * busy then 720
  else 550 + ceilDiv (170 * (10 * busy - 3 * total)) (60 * total) * 10

/-- A ceiling as R460 takes it: 600 W to 2,000 W. -/
def clampW (w : Nat) : Nat := max 600 (min 2000 w)

/-- An island. -/
def Mod.island (m : Mod) (i : Nat) : Island := sget {} m.pwr.islands i

/-- Change the power state. -/
def Mod.onPwr (m : Mod) (f : Power → Power) : Mod := { m with pwr := f m.pwr }

/-- Write an island. -/
def Mod.setIsland (m : Mod) (i : Nat) (x : Island) : Mod := Mod.onPwr m fun p => { p with islands := sset {} p.islands i x }

/-- The brake is applied (R465). -/
def Power.braked (p : Power) : Bool := p.brakePin || p.brakeCurrent

/-- PWR_FLOOR_n of an island. -/
def Power.floorRate (p : Power) (i : Nat) : Nat := fld (sget 0 p.floors i).toNat 7 0

/-- The pinned voltage of an island, if pinned: clamped and rounded up to 10 mV (PWR_PIN_n). -/
def Power.pinMv (p : Power) (i : Nat) : Option Nat :=
  let w := (sget 0 p.pins i).toNat
  if bitAt w 31 then some (roundUp (max minMv (min maxMv (fld w 9 0))) 10) else none

/-- The voltage the host asks an island to hold: its pin, else its floor (R461, R462). -/
def Power.asked (p : Power) (i : Nat) : Option Nat :=
  match p.pinMv i with
  | some v => some v
  | none => if p.floorRate i = 0 then none else some (floorMv (p.floorRate i))

/-- What the enforcer leaves of an asked voltage (R461). -/
def Island.left (x : Island) (v : Nat) : Nat := max minMv (v - x.lowered)

/-- The bound of the protective limits on an island (R459 rank 1). -/
def Power.protect (p : Power) (x : Island) : Nat := if p.braked then minMv else max minMv x.thermalCap

/-- The setting an island moves toward (R459): its pin or its floor where asked, else its preference under the common cap; all
under the protective limits. -/
def Power.target (p : Power) (i : Nat) (x : Island) (pref : Nat) : Nat :=
  let soft := match p.pinMv i with
    | some v => x.left v
    | none => match p.asked i with
      | some v => max (min pref p.commonCap) (x.left v)
      | none => min pref p.commonCap
  min (p.protect x) (max minMv soft)

/-- A move of at most 10 mV toward a setting (R456). -/
def moveMv (mv target : Nat) : Nat := if mv < target then min target (mv + 10) else max target (mv - 10)

/-! ## Lost floors -/

/-- The island is below its floor voltage, and a higher influence keeps it there (R461). -/
def Power.losing (p : Power) (i : Nat) (x : Island) : Bool :=
  match p.asked i with
  | some v => decide (x.mv < v) && decide (min (p.protect x) (x.left v) < v)
  | none => false

/-- The island holds its floor voltage again, or has none. -/
def Power.holds (p : Power) (i : Nat) (x : Island) : Bool :=
  match p.asked i with
  | some v => decide (v ≤ x.mv)
  | none => true

/-- Set or clear an island's floor_unmet (R461): a loss is latched in PWR_STATUS, and the host and the management plane hear
of it. -/
def Mod.judgeFloor (m : Mod) (i : Nat) : Mod :=
  let x := Mod.island m i
  if !x.unmet && m.pwr.losing i x then
    let m1 := Mod.onPwr (Mod.setIsland m i { x with unmet := true }) fun p => { p with unmetLatch := true }
    Mod.alert (Mod.event m1 .floorUnmet 0xFF i 0) .floorUnmet i
  else if x.unmet && m.pwr.holds i x then Mod.setIsland m i { x with unmet := false }
  else m

/-- Judge a list of islands. -/
def Mod.judgeFloors (m : Mod) (is : List Nat) : Mod := is.foldl Mod.judgeFloor m

/-- The islands the host asks something of. -/
def Mod.askedIslands (m : Mod) : List Nat := (List.range 256).filter fun i => (m.pwr.asked i).isSome

/-! ## The loop -/

/-- What settles an island's voltage (PWR_ISLAND_n). -/
def Power.reasons (p : Power) (i : Nat) (x : Island) (pref : Nat) : Island :=
  let t := p.target i x pref
  let wants := match p.pinMv i, p.asked i with
    | some v, _ => v
    | none, some v => max pref v
    | none, none => pref
  let soft := p.target i { x with thermalCap := maxMv } pref
  let free := { p with brakePin := false, brakeCurrent := false }
  { x with
    byBrake := p.braked
    byThermal := !p.braked && decide (t < soft)
    byCeiling := decide (free.target i { x with thermalCap := maxMv } pref < wants)
    byPin := (p.pinMv i).isSome && !p.braked && t == soft
    byFloor := (p.pinMv i).isNone && !p.braked && t == soft
      && (match p.asked i with | some v => decide (min pref p.commonCap < x.left v) | none => false) }

/-- VOLTAGE_LOOP_INTERVAL on the module (R457, R459). -/
def Mod.voltageLoop (m : Mod) (i busy total rate : Nat) (limiting : Bool) : Mod :=
  if !m.sys.rails then m
  else
    let x := m.pwr.reasons i (Mod.island m i) (prefMv busy total)
    let t := m.pwr.target i x (prefMv busy total)
    let mv := if m.pwr.braked then minMv else moveMv x.mv t
    Mod.judgeFloor (Mod.setIsland m i { x with
      mv := mv
      rate := min 4095 rate
      byCurrent := limiting }) i

/-- `VOLTAGE_LOOP_INTERVAL` (R457). -/
def execVoltageLoopInterval (isl : Fin 256) (busy total rate : Nat) (limiting : Bool) (s : State) : Out :=
  .next (s.onMod fun m => Mod.voltageLoop m isl busy total rate limiting)

/-! ## The enforcer -/

/-- Lower a floored or pinned island by 10 mV more below what it asks for (R461). -/
def Mod.lowerIsland (m : Mod) (i : Nat) : Mod :=
  match m.pwr.asked i with
  | none => m
  | some v =>
    let x := Mod.island m i
    let x1 := { x with lowered := min (v - minMv) (x.lowered + 10) }
    Mod.setIsland m i { x1 with mv := if x1.left v < x.mv then moveMv x.mv (x1.left v) else x.mv }

/-- Let a lowered island rise by 10 mV again. -/
def Mod.raiseIsland (m : Mod) (i : Nat) : Mod :=
  let x := Mod.island m i
  Mod.setIsland m i { x with lowered := x.lowered - 10 }

/-- The islands that R461 has lowered. -/
def Mod.loweredIslands (m : Mod) : List Nat := (m.pwr.islands.filter fun p => p.2.lowered != 0).map (·.1)

/-- ENFORCER_INTERVAL on the module (R460, R461). -/
def Mod.enforce (m : Mod) (watts : Nat) : Mod :=
  let eff := min (clampW m.pwr.hostCeiling) (clampW m.pwr.mgmtCeiling)
  let m1 := Mod.onPwr m fun p => { p with effective := eff, inputW := min 4095 watts }
  if !m.sys.rails then m1
  else if eff < watts then
    if minMv < m.pwr.commonCap then Mod.onPwr m1 fun p => { p with commonCap := max minMv (p.commonCap - 10) }
    else
      let is := Mod.askedIslands m1
      Mod.judgeFloors (is.foldl Mod.lowerIsland m1) is
  else if 100 * watts < 97 * eff then
    (Mod.loweredIslands m1).foldl Mod.raiseIsland
      (Mod.onPwr m1 fun p => { p with commonCap := min maxMv (p.commonCap + 10) })
  else m1

/-- `ENFORCER_INTERVAL` (R460). -/
def execEnforcerInterval (watts : Nat) (s : State) : Out := .next (s.onMod fun m => Mod.enforce m watts)

/-! ## Heat -/

/-- The thermal cap after an estimate (R464): a cap not yet in force starts at the present voltage. -/
def Island.capAfter (x : Island) (hot : Nat) : Nat :=
  if 100 ≤ hot then max minMv ((if x.thermalCap = maxMv then min maxMv x.mv else x.thermalCap) - 10)
  else if hot < 97 then min maxMv (x.thermalCap + 10)
  else x.thermalCap

/-- THERMAL_ESTIMATE on the module (R464, R466). -/
def Mod.thermal (m : Mod) (i estimate dieHottest : Nat) : Mod :=
  if !m.sys.rails then m
  else
    let x := Mod.island m i
    let hot := if m.pwr.warmup then dieHottest + 20 else estimate
    let cap := x.capAfter hot
    let x1 := { x with hot := min 255 hot, thermalCap := cap }
    let x2 := if cap < x.mv then { x1 with mv := moveMv x.mv cap, byThermal := true } else x1
    let m1 := Mod.setIsland m i x2
    let m2 := if cap < maxMv ∧ x.thermalCap = maxMv then Mod.alert m1 .thermalCapped i else m1
    Mod.judgeFloor m2 i

/-- `THERMAL_ESTIMATE` (R464). -/
def execThermalEstimate (isl : Fin 256) (estimate dieHottest : Nat) (s : State) : Out :=
  .next (s.onMod fun m => Mod.thermal m isl estimate dieHottest)

/-- `WARMUP_END` (R466). -/
def execWarmupEnd (s : State) : Out := .next (s.onMod fun m => Mod.onPwr m fun p => { p with warmup := false })

/-! ## The brake -/

/-- Every island goes straight to 0.55 V (R456, R465); floors are lost with it. -/
def Mod.applyBrake (m : Mod) : Mod :=
  let down (x : Nat) (p : Power) : Power :=
    { p with islands := smod {} p.islands x fun i => { i with mv := minMv, byBrake := true } }
  let m1 := Mod.onPwr m fun p => (List.range 256).foldl (fun q i => down i q) p
  Mod.judgeFloors (Mod.alert m1 .brake 0) (Mod.askedIslands m1)

/-- The brake has been released: islands climb at the normal pace. -/
def Mod.freeBrake (m : Mod) : Mod :=
  if m.pwr.braked then m
  else Mod.onPwr m fun p => { p with
    islands := (p.islands.map fun (q : Nat × Island) => (q.1, { q.2 with byBrake := false })).filter fun q => q.2 != ({} : Island) }

/-- Assert one of the two causes of the brake. -/
def Mod.brake (m : Mod) (pin current : Bool) : Mod :=
  let m1 := Mod.onPwr m fun p => { p with brakePin := p.brakePin || pin, brakeCurrent := p.brakeCurrent || current }
  if m.pwr.braked || !m.sys.rails then m1 else Mod.applyBrake m1

/-- `POWER_BRAKE_ASSERT` (R465). -/
def execPowerBrakeAssert (s : State) : Out := .next (s.onMod fun m => Mod.brake m true false)

/-- `POWER_BRAKE_DEASSERT` (R465). -/
def execPowerBrakeDeassert (s : State) : Out :=
  .next (s.onMod fun m => Mod.freeBrake (Mod.onPwr m fun p => { p with brakePin := false }))

/-- `INPUT_OVERCURRENT` (R465). -/
def execInputOvercurrent (s : State) : Out :=
  .next (s.onMod fun m => if m.sys.rails then Mod.brake m false true else m)

/-- `BRAKE_RELEASE` (R465): 1 ms after the current fell below 42 A. -/
def execBrakeRelease (s : State) : Out :=
  .next (s.onMod fun m => Mod.freeBrake (Mod.onPwr m fun p => { p with brakeCurrent := false }))

/-! ## Undervoltage -/

/-- `UV_HOLD` (R458): the hold is counted as a visor event. -/
def execUvHold (isl : Fin 256) (s : State) : Out :=
  .next (s.onMod fun m =>
    let x := Mod.island m isl
    if x.uvHold || !m.sys.rails then m
    else Mod.visorBrim (Mod.setIsland m isl { x with uvHold := true }) (isl.val / 64) 0xFF 0x5D 1)

/-- The cores of an island that run. -/
def Mod.islandCores (m : Mod) (i : Nat) : List Nat :=
  (m.cores.filter fun p => islandOf m.sys.grade (p.1 / 16) == i && p.2.running).map (·.1)

/-- UV_RELEASE on the module: work in flight resumes unchanged. -/
def Mod.uvRelease (m : Mod) (i : Nat) : Mod :=
  let x := Mod.island m i
  if !x.uvHold then m
  else
    let m1 := Mod.setIsland m i { x with uvHold := false }
    (Mod.islandCores m1 i).foldl (fun y c => Mod.pumpThat y c fun _ => true) m1

/-- `UV_RELEASE` (R458). -/
def execUvRelease (isl : Fin 256) (s : State) : Out := .next (s.onMod fun m => Mod.uvRelease m isl)

/-- `UV_HOLD_TIMEOUT` (R458): a hold of more than 10 ms. -/
def execUvHoldTimeout (isl : Fin 256) (s : State) : Out :=
  .next (s.onMod fun m => if (Mod.island m isl).uvHold then Mod.fail m 5 0 else m)

/-! ## The host's limit registers -/

/-- Write PWR_CEILING (R460, R463): host_ceiling_w. -/
def Mod.writeCeiling (m : Mod) (v : Nat) : Mod := Mod.onPwr m fun p => { p with hostCeiling := fld v 11 0 }

/-- `PWR_CEILING_WRITE` (R463). -/
def execPwrCeilingWrite (v : Word) (s : State) : Out := .next (s.onReg fun m => Mod.writeCeiling m v.toNat)

/-- Write PWR_FLOOR_n (R461, R463): the loop acts on it at its next interval; an island that a higher influence keeps below
its new floor has lost it. -/
def Mod.writeFloor (m : Mod) (i v : Nat) : Mod :=
  Mod.judgeFloor (Mod.onPwr m fun p => { p with floors := sset 0 p.floors i (BitVec.ofNat 32 (fld v 7 0)) }) i

/-- `PWR_FLOOR_WRITE` (R461). -/
def execPwrFloorWrite (isl : Fin 256) (v : Word) (s : State) : Out := .next (s.onReg fun m => Mod.writeFloor m isl v.toNat)

/-- Write PWR_PIN_n (R462, R463). -/
def Mod.writePin (m : Mod) (i v : Nat) : Mod :=
  Mod.judgeFloor (Mod.onPwr m fun p => { p with pins := sset 0 p.pins i (BitVec.ofNat 32 (fld v 9 0 + 2 ^ 31 * fld v 31 31)) }) i

/-- `PWR_PIN_WRITE` (R462). -/
def execPwrPinWrite (isl : Fin 256) (v : Word) (s : State) : Out := .next (s.onReg fun m => Mod.writePin m isl v.toNat)

/-- An island is below its floor voltage now. -/
def Power.anyUnmet (p : Power) : Bool := p.islands.any fun q => q.2.unmet

/-- Clear PWR_STATUS floor_unmet (R515): set again at once while an island is below its floor voltage. -/
def Mod.clearUnmet (m : Mod) : Mod := Mod.onPwr m fun p => { p with unmetLatch := p.unmetLatch && p.anyUnmet }

/-- `PWR_STATUS_FLOOR_UNMET_CLEAR` (R515). -/
def execPwrStatusFloorUnmetClear (s : State) : Out := .next (s.onReg Mod.clearUnmet)

end Sys2Proof.Machine
end

