-- ==== Sys2Proof/Machine/Helper.lean ====
section
/-!
DEFINITION. The management helper (R477 to R483): telemetry, the endpoint's control messages, PLDM Type 0 and Type 2, and the
drained alerts. A response is its completion code and its fields, least significant byte first; the framing of the named
standards is not part of the model.
-/
namespace Sys2Proof.Machine

open Sys2Proof

/-- Answer the sender of a message. -/
def State.answer (s : State) (code : Nat) (data : List Byte) : State := { s with resp := { code := code, data := data } }

/-- The helper answers: the housekeeping rail is up while 54 V is present (R477, R495). -/
def State.helperUp (s : State) : Bool := s.mod.sys.input

/-- A message the helper answers by itself (R480). -/
def State.byHelper (s : State) (f : State → State) : Out := .next (if s.helperUp then f s else s)

/-- PLDM completion codes: success, invalid data, not ready (R480). -/
def errInvalid : Nat := 0x02

/-- ERROR_NOT_READY (R480). -/
def errNotReady : Nat := 0x04

/-! ## Telemetry -/

/-- A sample set as the sequencer can take it (R2, R478, R482): readings of dies without power, and of absent sites, are
unavailable. -/
def Mod.sampled (m : Mod) (t : Telemetry) : Telemetry :=
  { t with
    dieTemp := (List.range 4).map fun i => if m.sys.rails then nth none t.dieTemp i else none
    siteTemp := (List.range 16).map fun i =>
      if m.sys.rails && decide (i < Config.sites m.sys.grade) then nth none t.siteTemp i else none }

/-- `TELEMETRY_SAMPLE` (R478): the idle copy is written and then made current. -/
def execTelemetrySample (t : Telemetry) (s : State) : Out :=
  s.byHelper fun s => { s with mgt := { s.mgt with
    telemetryOld := s.mgt.telemetry
    telemetry := { Mod.sampled s.mod t with seq := (s.mgt.telemetry.seq + 1) % 2 ^ 32 } } }

/-! ## Transport -/

/-- `SMBUS_FALLBACK` (R481): the controller has not started I3C within 1 s of PWR_OK. -/
def execSmbusFallback (s : State) : Out :=
  s.byHelper fun s => if s.mod.sys.i3c then s else { s with mgt := { s.mgt with smbus := true } }

/-- The SMBus address (R481, R496). -/
def State.smbusAddr (s : State) : Nat := 0x4C + s.mgt.slotId

/-- `DYNAMIC_ADDRESS_ASSIGNMENT` (R481, R506). -/
def execDynamicAddressAssignment (addr : BitVec 7) (s : State) : Out :=
  s.byHelper fun s =>
    if s.mgt.smbus then s
    else { s with
      mod := { s.mod with sys := { s.mod.sys with i3c := true } }
      mgt := { s.mgt with
        dynAddr := addr
        spikeFilter := false } }

/-! ## MCTP control -/

/-- `SET_ENDPOINT_ID` (R481). PRESUMED (DSP0236): 0x00 and 0xFF are no endpoint's. -/
def execSetEndpointId (eid : Byte) (s : State) : Out :=
  s.byHelper fun s =>
    if eid = 0 ∨ eid = 0xFF then s.answer errInvalid []
    else ({ s with mgt := { s.mgt with eid := eid } } : State).answer 0 [eid]

/-- `GET_ENDPOINT_ID` (R481). -/
def execGetEndpointId (s : State) : Out := s.byHelper fun s => s.answer 0 [s.mgt.eid]

/-- `GET_MCTP_VERSION_SUPPORT` (R481): version 1.3. -/
def execGetMctpVersionSupport (s : State) : Out := s.byHelper fun s => s.answer 0 [1, 3]

/-- `GET_MESSAGE_TYPE_SUPPORT` (R481). -/
def execGetMessageTypeSupport (s : State) : Out := s.byHelper fun s => s.answer 0 [0x00, 0x01, 0x7F]

/-- `GET_VENDOR_DEFINED_MESSAGE_SUPPORT` (R481): Joentyar's enterprise number. -/
def execGetVendorDefinedMessageSupport (s : State) : Out :=
  s.byHelper fun s => s.answer 0 (leBytes 4 Config.enterpriseNumber.toNat)

/-! ## PLDM Type 0 -/

/-- `GETTID` (R481). -/
def execGettid (s : State) : Out := s.byHelper fun s => s.answer 0 [Config.tid]

/-- `GETPLDMVERSION` (R481): Type 2 is version 1.2 and Type 5 version 1.1. -/
def execGetpldmversion (s : State) : Out :=
  s.byHelper fun s => s.answer 0 ([2, 1, 2, 5, 1, 1] ++ Config.pldmBaseVersion)

/-- `GETPLDMTYPES` (R481). -/
def execGetpldmtypes (s : State) : Out := s.byHelper fun s => s.answer 0 [0, 2, 5]

/-- `GETPLDMCOMMANDS` (R481). -/
def execGetpldmcommands (s : State) : Out := s.byHelper fun s => s.answer 0 Config.pldmCommands

/-! ## PLDM Type 2 -/

/-- The reading of a numeric sensor (R482), from the newest snapshot or the limit registers: none where there is no such
sensor, and `some none` for a reading that is unavailable. -/
def State.sensor (s : State) (n : Nat) : Option (Option Nat) :=
  let t := s.mgt.telemetry
  if n = 1 then some t.powerW
  else if n = 2 then some t.inputV
  else if n = 3 then some t.inputA
  else if 4 ≤ n ∧ n ≤ 7 then some (nth none t.dieTemp (n - 4))
  else if 8 ≤ n ∧ n ≤ 23 then some (nth none t.siteTemp (n - 8))
  else if n = 24 then some (some s.mod.pwr.effective)
  else none

/-- Health (R444, R482, R498): 0 normal, 1 slow, 2 failing; a rail that failed to regulate reads as failing. -/
def State.health (s : State) : Nat :=
  if s.mod.sys.failing || !s.mod.sys.rails then 2 else if (Mod.throttledSite s.mod).isSome then 1 else 0

/-- PRESUMED (DSP0248): the completion code for a sensor, effecter or record that does not exist. -/
def errNoSuch : Nat := 0x80

/-- `GETSENSORREADING` (R482): byte 0 is 0 with a reading and 1 when it is unavailable. -/
def execGetsensorreading (sensor : Nat) (s : State) : Out :=
  s.byHelper fun s => match s.sensor sensor with
    | some (some v) => s.answer 0 (0 :: leBytes 4 v)
    | some none => s.answer 0 (1 :: leBytes 4 0)
    | none => s.answer errNoSuch []

/-- `GETSTATESENSORREADINGS` (R482). -/
def execGetstatesensorreadings (sensor : Nat) (s : State) : Out :=
  s.byHelper fun s =>
    if sensor = 30 then s.answer 0 (leBytes 1 s.health)
    else if sensor = 31 then s.answer 0 (leBytes 1 s.mod.sys.crown)
    else s.answer errNoSuch []

/-- `GETNUMERICEFFECTERVALUE` (R482): the management ceiling. -/
def execGetnumericeffectervalue (effecter : Nat) (s : State) : Out :=
  s.byHelper fun s =>
    if effecter = 1 then s.answer 0 (leBytes 4 s.mod.pwr.mgmtCeiling) else s.answer errNoSuch []

/-- `SETNUMERICEFFECTERVALUE` (R482): clamped to 600 W to 2,000 W; it acts at the next enforcer interval. -/
def execSetnumericeffectervalue (effecter : Nat) (v : Nat) (s : State) : Out :=
  s.byHelper fun s =>
    if effecter = 1 then
      ({ s with mod := Mod.onPwr s.mod fun p => { p with mgmtCeiling := clampW v } } : State).answer 0 []
    else s.answer errNoSuch []

/-- `GETPDRREPOSITORYINFO` (R482). -/
def execGetpdrrepositoryinfo (s : State) : Out := s.byHelper fun s => s.answer 0 (leBytes 4 Config.pdrCount)

/-- `GETPDR` (R482). -/
def execGetpdr (record : Nat) (s : State) : Out :=
  s.byHelper fun s => if record < Config.pdrCount then s.answer 0 (Config.pdrs record) else s.answer errNoSuch []

/-- The number of an alert kind, in the order of R483. -/
def AlertKind.code : AlertKind → Nat
  | .siteState => 0 | .siteOffline => 1 | .driveOffline => 2 | .floorUnmet => 3 | .thermalCapped => 4
  | .brake => 5 | .crownReset => 6 | .deviceFailing => 7 | .bootFallback => 8 | .updateState => 9

/-- `POLLFORPLATFORMEVENTMESSAGE` (R483): the oldest alert, with the count of alerts lost since the last one drained. -/
def execPollforplatformeventmessage (s : State) : Out :=
  s.byHelper fun s => match s.mod.sys.alerts with
    | [] => s.answer 0 []
    | (k, x) :: rest =>
      ({ s with mod := { s.mod with sys := { s.mod.sys with
          alerts := rest
          alertsLost := 0 } } } : State).answer 0 (leBytes 1 k.code ++ leBytes 4 x ++ leBytes 4 s.mod.sys.alertsLost)

/-- ALERT_N is low (R483, R495). -/
def State.alertN (s : State) : Bool := !s.mod.sys.alerts.isEmpty

end Sys2Proof.Machine
end

