-- ==== Sys2Proof/Machine/Firmware.lean ====
section
/-!
DEFINITION. Messages the Crown's firmware serves (R480): the update of a firmware slot (R484), key operations (R486), the
certificate chain and attestation (R488 to R490), the mailbox (R481, R523), and SEC_POLICY.
-/
namespace Sys2Proof.Machine

open Sys2Proof

/-- The Crown serves messages: running, or in recovery (R480, R485). -/
def State.crownServes (s : State) : Bool := s.mod.sys.crown == 0 || s.mod.sys.crown == 3

/-- A PLDM message that needs firmware (R480). -/
def State.byCrown (s : State) (f : State → State) : Out :=
  s.byHelper fun s => if s.crownServes then f s else s.answer errNotReady []

/-- A vendor-defined message (R480): refused with that message set's not_ready code while the Crown is down. -/
def State.byVendor (s : State) (f : State → State) : Out :=
  s.byHelper fun s => if s.crownServes then f s else s.answer Config.vendorNotReady.toNat []

/-! ## Firmware update -/

/-- The number of an update state (GETSTATUS): the order of DSP0267. -/
def UpdState.code : UpdState → Nat
  | .idle => 0 | .learn => 1 | .ready => 2 | .download => 3 | .verify => 4 | .apply => 5 | .activate => 6

/-- The slot an update writes is slot B: the one that did not boot (R484); in recovery the one that is not preferred. -/
def Mgmt.targetB (g : Mgmt) : Bool := if g.booted = 2 then !g.preferB else g.booted == 0

/-- Write the target slot's record. -/
def Mgmt.setTarget (g : Mgmt) (x : FwSlot) : Mgmt := if g.targetB then { g with slotB := x } else { g with slotA := x }

/-- The target slot's record. -/
def Mgmt.target (g : Mgmt) : FwSlot := if g.targetB then g.slotB else g.slotA

/-- Move the update to a state, with its alert (R483). -/
def State.updTo (s : State) (u : UpdState) : State :=
  { s with
    mod := Mod.alert s.mod .updateState u.code
    mgt := { s.mgt with upd := u } }

/-- ALREADY_IN_UPDATE_MODE (R484). -/
def errUpdating : Nat := 0x80

/-- PRESUMED (DSP0267): NOT_IN_UPDATE_MODE and INVALID_STATE_FOR_COMMAND. -/
def errNotUpdating : Nat := 0x81

/-- A message of an update out of its state. -/
def errState : Nat := 0x84

/-- A message of an update that is taken in one state only. -/
def State.inState (s : State) (u : UpdState) (f : State → State) : State :=
  if s.mgt.upd = u then f s else if s.mgt.upd = .idle then s.answer errNotUpdating [] else s.answer errState []

/-- `REQUESTUPDATE` (R484). -/
def execRequestupdate (s : State) : Out :=
  s.byCrown fun s => if s.mgt.upd = .idle then (s.updTo .learn).answer 0 [] else s.answer errUpdating []

/-- `GETPACKAGEDATA` (R484): there is none. -/
def execGetpackagedata (s : State) : Out := s.byCrown fun s => s.inState .learn fun s => s.answer 0 []

/-- PRESUMED (DSP0267): the value of classification Firmware. -/
def classFirmware : Nat := 0x000A

/-- `PASSCOMPONENTTABLE` (R484). -/
def execPasscomponenttable (classification ident : Nat) (s : State) : Out :=
  s.byCrown fun s => s.inState .learn fun s =>
    if classification = classFirmware ∧ ident = 1 then (s.updTo .ready).answer 0 [] else s.answer errInvalid []

/-- The largest component: 8 MiB (R484). -/
def maxComponent : Nat := 8 * 1024 * 1024

/-- `UPDATECOMPONENT` (R484). -/
def execUpdatecomponent (ident size : Nat) (s : State) : Out :=
  s.byCrown fun s => s.inState .ready fun s =>
    if ident = 1 ∧ size ≤ maxComponent then
      ({ s.updTo .download with mgt := { (s.updTo .download).mgt with
          updSize := size
          updData := [] } } : State).answer 0 []
    else s.answer errInvalid []

/-- `REQUESTFIRMWAREDATA` (R484): the part is written into the target slot, which is invalid from then on until it is
applied. -/
def execRequestfirmwaredata (offset : Nat) (data : List Byte) (s : State) : Out :=
  s.byCrown fun s => s.inState .download fun s =>
    if data.length ≤ 4096 ∧ offset + data.length ≤ s.mgt.updSize then
      ({ s with mgt := { s.mgt.setTarget { s.mgt.target with valid := false } with
          updData := wrBytes s.mgt.updData offset data } } : State).answer 0 []
    else s.answer errInvalid []

/-- `TRANSFERCOMPLETE` (R484). -/
def execTransfercomplete (result : Nat) (s : State) : Out :=
  s.byCrown fun s => s.inState .download fun s =>
    if result = 0 then (s.updTo .verify).answer 0 [] else (s.updTo .ready).answer 0 []

/-- A slot boots (R485): its signature verifies against a firmware key that is not revoked, and its security version is not
below the counter. -/
def Mgmt.accepts (g : Mgmt) (c : SlotCheck) : Bool :=
  c.signatureOk && decide (c.keyFuse < 2) && !bitAt g.fwRevoked c.keyFuse && decide (g.svn ≤ c.svn)

/-- `VERIFYCOMPLETE` (R484): the answer's data is the result code. -/
def execVerifycomplete (chk : SlotCheck) (s : State) : Out :=
  s.byCrown fun s => s.inState .verify fun s =>
    if s.mgt.accepts chk then
      ({ s.updTo .apply with mgt := { (s.updTo .apply).mgt with
          updNew := { valid := true, svn := chk.svn, hash := chk.hash } } } : State).answer 0 [0]
    else
      ({ s.updTo .idle with mgt := (s.updTo .idle).mgt.setTarget { s.mgt.target with valid := false } } : State).answer 0 [1]

/-- `APPLYCOMPLETE` (R484). -/
def execApplycomplete (result : Nat) (s : State) : Out :=
  s.byCrown fun s => s.inState .apply fun s =>
    if result = 0 then
      ({ s.updTo .activate with mgt := (s.updTo .activate).mgt.setTarget s.mgt.updNew } : State).answer 0 []
    else (s.updTo .ready).answer 0 []

/-- `ACTIVATEFIRMWARE` (R484): delayed activation only; the new slot becomes the preferred one. -/
def execActivatefirmware (delayed : Bool) (s : State) : Out :=
  s.byCrown fun s => s.inState .activate fun s =>
    if delayed then
      ({ s.updTo .idle with mgt := { (s.updTo .idle).mgt with preferB := s.mgt.targetB } } : State).answer 0 []
    else s.answer errInvalid []

/-- `GETSTATUS` (R484). -/
def execGetstatus (s : State) : Out := s.byCrown fun s => s.answer 0 (leBytes 1 s.mgt.upd.code)

/-- `CANCELUPDATE` (R484). -/
def execCancelupdate (s : State) : Out :=
  s.byCrown fun s => if s.mgt.upd = .idle then s.answer errNotUpdating [] else (s.updTo .idle).answer 0 []

/-- A Crown reset, PERST# or a loss of power during an update leaves the target slot invalid (R484, R500, R502). -/
def Mgmt.breakUpdate (g : Mgmt) : Mgmt :=
  if g.upd = .idle then g
  else { g.setTarget { g.target with valid := false } with
    upd := .idle
    updData := [] }

/-! ## Keys -/

/-- SEC_POLICY lock is set (R486). -/
def Mgmt.locked (g : Mgmt) : Bool := bitAt g.policy.toNat 31

/-- A key message is signed by a fused firmware key that is not revoked (R486). -/
def Mgmt.signedBy (g : Mgmt) (signer : Nat) (msg : List Byte) (sig : BitVec 768) : Bool :=
  !bitAt g.fwRevoked signer && Config.ecdsaVerifies (sget 0 g.fwKeys signer) (Config.sha384 msg) sig

/-- The bytes of a KeyEnrol message that its signature covers. -/
def enrolBytes (slot : Nat) (key : BitVec 384) : List Byte := 0 :: leBytes 1 slot ++ leBytes 48 key.toNat

/-- The bytes of a KeyRevoke message that its signature covers. -/
def revokeBytes (firmware : Bool) (slot : Nat) : List Byte := 1 :: leBytes 1 (b2n firmware) ++ leBytes 1 slot

/-- A key operation: refused while SEC_POLICY lock is set, and without its signature (R486). -/
def State.keyOp (s : State) (ok : Bool) (f : Mgmt → Mgmt) : Out :=
  s.byVendor fun s =>
    if s.mgt.locked || !ok then s.answer errInvalid [] else ({ s with mgt := f s.mgt } : State).answer 0 []

/-- `KEYENROL` (R486): fuses are written once, so a slot that holds a key keeps it. -/
def execKeyenrol (slot : Fin 4) (key : BitVec 384) (signer : Fin 2) (sig : BitVec 768) (s : State) : Out :=
  s.keyOp (s.mgt.signedBy signer (enrolBytes slot key) sig && sget 0 s.mgt.imageKeys slot == 0) fun g =>
    { g with imageKeys := sset 0 g.imageKeys slot key }

/-- Set a bit of a fuse array. -/
def setBit (x i : Nat) : Nat := x ||| 2 ^ i

/-- `KEYREVOKE` (R486): an image-signing key slot, or a firmware key. -/
def execKeyrevoke (firmware : Bool) (slot : Fin 4) (signer : Fin 2) (sig : BitVec 768) (s : State) : Out :=
  s.keyOp (s.mgt.signedBy signer (revokeBytes firmware slot) sig && (!firmware || decide (slot.val < 2))) fun g =>
    if firmware then { g with fwRevoked := setBit g.fwRevoked slot } else { g with keyRevoked := setBit g.keyRevoked slot }

/-- SEC_POLICY's defined bits. -/
def policyMask : Word := 0x8000_0007

/-- Write SEC_POLICY (R486, R518): frozen by lock; no_bar4 holds HIF_CTRL bar4_enable clear. -/
def State.writePolicy (s : State) (v : Word) : State :=
  if s.mgt.locked then s
  else
    let m := s.mod
    let h := if bitAt v.toNat 2 then { m.host with ctrl := m.host.ctrl &&& 0xFFFF_FFFD } else m.host
    { s with
      mgt := { s.mgt with policy := v &&& policyMask }
      mod := { m with host := h } }

/-- `SEC_POLICY_WRITE` (R486). -/
def execSecPolicyWrite (v : Word) (s : State) : Out := .next (if s.mod.sys.cfgReady then s.writePolicy v else s)

/-! ## Identity -/

/-- Bits of the image-signing key fuses that hold a key (SEC_STATUS key_enrolled). -/
def Mgmt.enrolled (g : Mgmt) : Nat := (List.range 4).foldl (fun a i => if sget 0 g.imageKeys i = 0 then a else setBit a i) 0

/-- SEC_STATUS. -/
def State.secStatus (s : State) : Nat :=
  Config.gradeBit s.mod.sys.grade + 2 * (s.mgt.booted % 4) + 8 * b2n s.mgt.fallback + 16 * s.mgt.enrolled
    + 256 * (s.mgt.keyRevoked % 16) + 4096 * (s.mgt.fwRevoked % 4) + 2 ^ 16 * (s.mgt.svn % 128)
    + 2 ^ 32 * (s.mgt.crownResets % 65536)

/-- The part of a chain from `i` × 1,024 on (R488). -/
def certPart (chain : List Byte) (i : Nat) : List Byte := (chain.drop (1024 * i)).take 1024

/-- `GETCERTCHAIN` (R488): the device certificate first, in parts of at most 1,024 bytes. -/
def execGetcertchain (part : Nat) (s : State) : Out := s.byVendor fun s => s.answer 0 (certPart Config.certChain part)

/-- The hash of the booted slot's contents; none in recovery. -/
def Mgmt.bootedHash (g : Mgmt) : BitVec 384 := if g.booted = 0 then g.slotA.hash else if g.booted = 1 then g.slotB.hash else 0

/-- The live contexts. -/
def Mod.liveList (m : Mod) : List (Nat × Ctx) := m.ctxs.filterMap fun p => p.2.map fun c => (p.1, c)

/-- A context's entry of a report (R489). -/
def attestEntry (p : Nat × Ctx) : List Byte :=
  leBytes 1 p.1 ++ leBytes 1 (b2n p.2.lc) ++ leBytes 1 (b2n p.2.exclusive) ++ leBytes 1 p.2.keySlot ++ leBytes 4 0
    ++ leBytes 48 p.2.image.hash.toNat ++ leBytes 8 0

/-- A load is in progress (R490). -/
def Mod.loading (m : Mod) : Bool :=
  m.host.flights.any fun f => f.started && (descKind f.raw == 0x01 || descKind f.raw == 0x02)

/-- A report but for its signature (R489, R490). -/
def State.report (s : State) (nonce : BitVec 256) : List Byte :=
  let rec_ := s.mod.sys.crown == 3
  let live := if rec_ then [] else Mod.liveList s.mod
  let model := match s.mod.model with | some md => if rec_ then 0 else md.image.hash | none => 0
  leBytes 4 0x5441_5242 ++ leBytes 2 1 ++ leBytes 2 (368 + 64 * live.length) ++ leBytes 32 nonce.toNat
    ++ leBytes 8 s.mod.sys.timer.toNat ++ leBytes 1 (Config.gradeBit s.mod.sys.grade) ++ leBytes 1 s.mgt.booted
    ++ leBytes 2 s.mgt.crownResets ++ leBytes 4 Config.romVersion.toNat
    ++ leBytes 4 (Config.patchLevel s.mgt.bootedHash).toNat ++ leBytes 4 s.secStatus ++ leBytes 4 s.mgt.policy.toNat
    ++ leBytes 4 0 ++ leBytes 48 s.mgt.bootedHash.toNat ++ leBytes 48 Config.fuseHash.toNat ++ leBytes 48 model.toNat
    ++ leBytes 48 Config.translatorHash.toNat ++ leBytes 2 live.length ++ leBytes 2 (b2n (Mod.loading s.mod)) ++ leBytes 4 0
    ++ live.flatMap attestEntry

/-- `GETATTESTATION` (R489): the report, then r and s, most significant byte first. -/
def execGetattestation (nonce : BitVec 256) (s : State) : Out :=
  s.byVendor fun s =>
    let r := s.report nonce
    s.answer 0 (r ++ (leBytes 96 (Config.identitySign (Config.sha384 r)).toNat).reverse)

/-! ## The mailbox -/

/-- `MAILBOX_INBOUND` (R481, R523): discarded while in_busy is set. -/
def execMailboxInbound (msg : List Byte) (s : State) : Out :=
  .next (if s.mod.sys.cfgReady && !s.mgt.inBusy then
    { s with mgt := { s.mgt with
        mboxIn := msg
        inBusy := true } }
  else s)

/-- Write an outbound message (R523): out_ready is set, and the vector is sent where irq_enable asks for it. -/
def State.writeOut (s : State) (msg : List Byte) : State :=
  { s with
    mgt := { s.mgt with
      mboxOut := msg
      outReady := true }
    mod := if s.mgt.mboxIrq then Mod.sendVector s.mod s.mgt.mboxVector.toNat else s.mod }

/-- `MAILBOX_OUTBOUND` (R481, R523): the Crown has taken the inbound message; its reply is written, or waits for out_ready to
clear. -/
def execMailboxOutbound (msg : List Byte) (s : State) : Out :=
  .next (if s.crownServes && s.mgt.inBusy then
    let s1 : State := { s with mgt := { s.mgt with inBusy := false } }
    if s1.mgt.outReady then { s1 with mgt := { s1.mgt with outWait := s1.mgt.outWait ++ [msg] } } else s1.writeOut msg
  else s)

/-- Clear out_ready (R515, R523): a reply that waits is written at once. -/
def State.clearOut (s : State) : State :=
  if !s.mgt.outReady then s
  else match s.mgt.outWait with
    | [] => { s with mgt := { s.mgt with outReady := false } }
    | w :: ws =>
      if s.crownServes then
        ({ s with mgt := { s.mgt with
            outReady := false
            outWait := ws } } : State).writeOut w
      else { s with mgt := { s.mgt with outReady := false } }

/-- `CRN_MBOX_OUT_READY_CLEAR` (R523). -/
def execCrnMboxOutReadyClear (s : State) : Out := .next (if s.mod.sys.cfgReady then s.clearOut else s)

end Sys2Proof.Machine
end

