-- ==== Sys2Proof/Machine/Ports.lean ====
section
/-!
DEFINITION. The fabric's ports: wiring (R399, R400), training (R402 to R404), flits, acknowledgements and replay (R405 to
R408), credits (R410), a port that goes down (R427, R428), and what the supervisor reports (R430, R431).
-/
namespace Sys2Proof.Machine

open Sys2Proof

/-! ## Wiring -/

/-- The port is absent in the grade (R2, R400). -/
def Mod.portAbsent (m : Mod) (p : Nat) : Bool := decide (Config.ports m.sys.grade ≤ p)

/-- The far end of a port: coordinates, port, and whether it is a spare (R399, R400). -/
def Mod.farEnd (m : Mod) (p : Nat) : Option (Xyz × Nat × Bool) :=
  let (x, y, z) := Mod.here m
  let (dx, dy, dz) := Mod.extents m
  if Mod.isSpare m then
    let k := p % 8
    if dx ≤ 8 then (if k < dx then some ((k, y, z), if p < 8 then 14 else 15, false) else none)
    else if p < dx then some ((p, y, z), 14, false) else none
  else if p < 4 then
    (if dx = 1 then none else if p < 2 then some ((stepCoord x dx true, y, z), p + 2, false)
     else some ((stepCoord x dx false, y, z), p - 2, false))
  else if p < 8 then
    (if dy = 1 then none else if p < 6 then some ((x, stepCoord y dy true, z), p + 2, false)
     else some ((x, stepCoord y dy false, z), p - 2, false))
  else if p < 12 then
    (if dz = 1 then none else if p < 10 then some ((x, y, stepCoord z dz true), p + 2, false)
     else some ((x, y, stepCoord z dz false), p - 2, false))
  else if p = 12 then (if dx = 1 then none else some ((stepCoord (stepCoord x dx true) dx true, y, z), 13, false))
  else if p = 13 then (if dx = 1 then none else some ((stepCoord (stepCoord x dx false) dx false, y, z), 12, false))
  else if p = 14 then some ((x, y, z), x, true)
  else if p = 15 && dx ≤ 8 then some ((x, y, z), 8 + x, true)
  else none

/-- A partner's identity is the one R399 and LNK_COORD imply (R404). A spare's x does not count. -/
def Mod.identityOk (m : Mod) (p : Nat) (i : IdleInfo) : Bool :=
  i.grade == m.sys.grade && i.version == 1 && i.extents == Mod.extents m
    && (match Mod.farEnd m p with
      | some (c, q, sp) => i.port == q && i.spare == sp && (if sp then i.coord.2 == c.2 else i.coord == c)
      | none => false)

/-- The dimension a port lies in: 0 X, 1 Y, 2 Z, 3 a spare's link. -/
def portDim (p : Nat) : Nat := if p = 12 ∨ p = 13 then 0 else p / 4

/-! ## States -/

/-- Which lanes a mask of usable lanes lets a port run on (R402): all, 0 to 3, 4 to 7, or none. -/
def lanesOf (mask : Nat) : Option Nat :=
  if mask % 256 = 0xFF then some 0 else if mask % 16 = 0xF then some 1 else if mask / 16 % 16 = 0xF then some 2 else none

/-- The lanes that a lanes code stands for. -/
def lanesMask (code : Nat) : Nat := if code = 0 then 0xFF else if code = 1 then 0x0F else 0xF0

/-- Lanes of a mask. -/
def laneCount (mask : Nat) : Nat := ((List.range 8).filter fun i => bitAt mask i).length

/-- A transition of a port (R403): a visor event on its die. -/
def Mod.toState (m : Mod) (p st : Nat) : Mod :=
  Mod.visorBrim (Mod.modPort m p fun q => { q with state := st }) (p / 4) 0xFF 0x5A 1

/-- Begin training from scratch: the link's sequence, credits and counts start anew. -/
def Mod.startPort (m : Mod) (p : Nat) : Mod :=
  Mod.toState (Mod.modPort m p fun q => { enable := true, txq := q.txq }) p 1

/-- The member links of the module to a coordinate of its X ring that have been active since they were enabled (R427,
R430). -/
def Mod.linksTo (m : Mod) (x : Nat) : List Nat :=
  (List.range 14).filter fun p => (Mod.port m p).wasActive && (match Mod.farEnd m p with
    | some (c, _, sp) => !sp && c == (x, (Mod.here m).2)
    | none => false)

/-- A spare's links to a member that have been active. -/
def Mod.linksToMember (m : Mod) (x : Nat) : List Nat :=
  (List.range 16).filter fun p => (Mod.port m p).wasActive && (match Mod.farEnd m p with
    | some (c, _, _) => c.1 == x
    | none => false)

/-- The links that have been active are all silent. -/
def Mod.silentLinks (m : Mod) (ps : List Nat) : Bool := !ps.isEmpty && ps.all fun p => !(Mod.port m p).isActive

/-- After a change of a link to an X neighbour: report its silence, or its end, to the spare (R430). -/
def Mod.reportTo (m : Mod) (x : Nat) : Mod :=
  let xyz := (x, (Mod.here m).2)
  let now := Mod.silentLinks m (Mod.linksTo m x)
  let was := m.fab.reported.contains x
  if now && !was then
    Mod.superviseSpare { m with fab := { m.fab with reported := m.fab.reported ++ [x] } } 1 xyz
  else if !now && was then
    Mod.superviseSpare { m with fab := { m.fab with reported := m.fab.reported.filter (· != x) } } 2 xyz
  else m

/-- Watch the silence of X neighbours after a change of port `p`; a spare watches its own links (R430, R433). -/
def Mod.watch (m : Mod) (p : Nat) : Mod :=
  if m.sys.grade == .s64 then m
  else match Mod.farEnd m p with
    | none => m
    | some (c, _, sp) =>
      if Mod.isSpare m then Mod.setSilent m c.1 [0] (Mod.silentLinks m (Mod.linksToMember m c.1))
      else
        let (x, y, z) := Mod.here m
        let d := (Mod.extents m).1
        if !sp && c.2 == (y, z) && c.1 != x && (c.1 == stepCoord x d true || c.1 == stepCoord x d false) then
          Mod.reportTo m c.1
        else m

/-- A port becomes active (R403): the host hears of it, and of half its lanes (R402); what waited is sent. -/
def Mod.becomeActive (m : Mod) (p lanes : Nat) : Mod :=
  let m1 := Mod.toState (Mod.modPort m p fun q => { q with lanes := lanes, wasActive := true, retry := false }) p 6
  let m2 := Mod.event m1 .portActive 0xFF p 0
  let m3 := if lanes = 0 then m2
    else Mod.event (Mod.visorBrim m2 (p / 4) 0xFF 0x5B 1) .portDegraded 0xFF p 0
  Mod.pump512 (Mod.watch m3 p) p

/-- Packets queued at a port that is not active move to the other port of its pair where that is active (R428). -/
def Mod.moveQueue (m : Mod) (p : Nat) : Mod :=
  let q := Mod.livePort m p
  if q = p then m
  else
    let its := (Mod.port m p).txq.map fun it => (it.1, it.2.1, flitsOf it.2.2.2, it.2.2.2)
    let m1 := Mod.modPort m p fun x => { x with txq := [] }
    Mod.pump512 (Mod.modPort m1 q fun x => { x with txq := its.foldl (fun t it => insertTx it t) x.txq }) q

/-- A port goes down, or is disabled while active (R408, R427, R522): its replay buffer is lost; queued packets move or are
held. -/
def Mod.goDown (m : Mod) (p st reason : Nat) : Mod :=
  let m1 := Mod.toState (Mod.modPort m p fun q => { q with
    replay := [], credits := [], owed := [], nakOut := false
    txq := q.txq.map fun it => (it.1, it.2.1, flitsOf it.2.2.2, it.2.2.2) }) p st
  Mod.watch (Mod.moveQueue (Mod.event m1 .portDown 0xFF p reason) p) p

/-! ## Retrain and replay -/

/-- The Crown timer's ticks in 1 ms and in 1 s (R452). -/
def ticksMs : Nat := 100000

/-- Times in 1 s. -/
def ticksS : Nat := 100000000

/-- The Crown timer. -/
def Mod.now (m : Mod) : Nat := m.sys.timer.toNat

/-- A port enters retrain (R408): the third time within 1 s it goes down. -/
def Mod.enterRetrain (m : Mod) (p : Nat) : Mod :=
  let q := Mod.port m p
  let third := match q.retrainAt with | _ :: t :: _ => decide (Mod.now m ≤ t + ticksS) | _ => false
  if third then Mod.goDown m p 9 2
  else Mod.toState (Mod.modPort m p fun x => { x with
    retrainAt := (Mod.now m :: x.retrainAt).take 2, nakAt := [], nakOut := false }) p 7

/-- A sequence number is at or before another, modulo 1,024 within half the range. -/
def seqLe (a b : Nat) : Bool := decide ((b + 1024 - a % 1024) % 1024 < 512)

/-- Resend the flits of the replay buffer that pass a test (R407). -/
def Mod.resend (m : Mod) (p : Nat) (f : Nat → Bool) : Mod :=
  let n := ((Mod.port m p).replay.filter fun e => f e.1).length
  Mod.visorBrim (Mod.modPort m p fun q => { q with
    replay := q.replay.map fun e => if f e.1 then (e.1, e.2.1 + 1, e.2.2) else e
    replays := min 65535 (q.replays + n) }) (p / 4) 0xFF 0x59 n

/-- Take credits that a partner returns (R405, R406). -/
def Mod.addCredits (m : Mod) (p : Nat) (cs : List (Nat × Nat × Nat)) : Mod :=
  Mod.modPort m p fun q => { q with credits := cs.foldl (fun t c => smod 0 t (c.1 % 4 * 4 + c.2.1 % 4) (· + c.2.2)) q.credits }

/-- What the header of a good flit says (R405): the flits it acknowledges leave the replay buffer, and a credit comes
back. -/
def Mod.header (m : Mod) (p : Nat) (h : FlitHdr) : Mod :=
  let m1 := Mod.modPort m p fun q => { q with replay := q.replay.filter fun e => !seqLe e.1 h.ack }
  if h.creditValid then Mod.addCredits m1 p [(h.creditVc, h.creditCls, 1)] else m1

/-- Send a nak (R407). -/
def Mod.sendNak (m : Mod) (p : Nat) : Mod := Mod.modPort m p fun q => { q with nakOut := true, naksSent := q.naksSent + 1 }

/-! ## The host's port registers -/

/-- LNK_PORT_CTRL enable written 1 (R514, R522). -/
def Mod.enablePort (m : Mod) (p : Nat) : Mod :=
  let st := (Mod.port m p).state
  if Mod.portAbsent m p then m
  else if !m.sys.serviceReady then Mod.modPort m p fun q => { q with enable := true }
  else if st = 0 ∨ st = 8 ∨ st = 9 then Mod.startPort m p
  else m

/-- `LNK_PORT_ENABLE` (R522). -/
def execLnkPortEnable (port : Fin 16) (s : State) : Out := .next (s.onReg fun m => Mod.enablePort m port)

/-- LNK_PORT_CTRL enable written 0 (R522). -/
def Mod.disablePort (m : Mod) (p : Nat) : Mod :=
  let q := Mod.port m p
  if Mod.portAbsent m p then m
  else
    let m1 := Mod.modPort m p fun x => { x with enable := false, retry := false }
    if q.state = 6 then Mod.goDown m1 p 0 3
    else if q.state = 0 then m1
    else Mod.toState m1 p 0

/-- `LNK_PORT_DISABLE` (R522). -/
def execLnkPortDisable (port : Fin 16) (s : State) : Out := .next (s.onReg fun m => Mod.disablePort m port)

/-- A retrain written to an active port. -/
def Mod.retrainPort (m : Mod) (p : Nat) : Mod := if (Mod.port m p).isActive then Mod.enterRetrain m p else m

/-- `LNK_PORT_RETRAIN` (R522). -/
def execLnkPortRetrain (port : Fin 16) (s : State) : Out := .next (s.onReg fun m => Mod.retrainPort m port)

/-- The bits LNK_COORD keeps: z and its extent read 0 on BRN-S64. -/
def coordMask (g : Grade) : Nat := if g = .s64 then 0x10_FF00_FFFF else 0x1F_FFFF_FFFF

/-- LNK_COORD written (R414): only while every port is disabled. -/
def Mod.coordWrite (m : Mod) (v : Nat) : Mod :=
  if m.fab.ports.all fun q => q.2.state == 0 then
    { m with fab := { m.fab with coord := BitVec.ofNat 64 (v &&& coordMask m.sys.grade) } }
  else m

/-- `LNK_COORD_WRITE` (R414). -/
def execLnkCoordWrite (v : DWord) (s : State) : Out := .next (s.onReg fun m => Mod.coordWrite m v.toNat)

/-! ## Training -/

/-- `PORT_DETECT_TIMEOUT` (R403): no signal for 100 ms; and the retry, 1 s later. -/
def execPortDetectTimeout (port : Fin 16) (s : State) : Out :=
  .next (s.onMod fun m =>
    let q := Mod.port m port
    if q.state = 1 then Mod.toState (Mod.modPort m port fun x => { x with retry := true }) port 0
    else if q.state = 0 && q.enable && q.retry then Mod.startPort m port
    else m)

/-- `SIGNAL_DETECTED` (R403): signal on at least 4 lanes. -/
def execSignalDetected (port : Fin 16) (lanes : Byte) (s : State) : Out :=
  .next (s.onMod fun m =>
    if (Mod.port m port).state = 1 && 4 ≤ laneCount lanes.toNat then Mod.toState m port 2 else m)

/-- The end of equalise or of fec_lock on the lanes of a mask: the next state, or detect on failure (R402, R403). -/
def Mod.trained (m : Mod) (p next mask : Nat) : Mod :=
  match lanesOf mask with
  | some l => Mod.toState (Mod.modPort m p fun q => { q with lanes := l }) p next
  | none => Mod.toState m p 1

/-- `PORT_EQUALISE_DONE` (R403). -/
def execPortEqualiseDone (port : Fin 16) (lanes : Byte) (s : State) : Out :=
  .next (s.onMod fun m => if (Mod.port m port).state = 2 then Mod.trained m port 3 lanes.toNat else m)

/-- `PORT_FEC_LOCK_DONE` (R403): of the lanes that have equalised. -/
def execPortFecLockDone (port : Fin 16) (lanes : Byte) (s : State) : Out :=
  .next (s.onMod fun m =>
    let q := Mod.port m port
    if q.state = 3 then Mod.trained m port 4 (lanes.toNat &&& lanesMask q.lanes) else m)

/-- IDENTITY_FLIT on the module (R404): a link is refused with a fault record, or moves to credit_init. -/
def Mod.identity (m : Mod) (p : Nat) (i : IdleInfo) : Mod :=
  if (Mod.port m p).state ≠ 4 then m
  else
    let m1 := Mod.modPort m p fun q => { q with
      partnerPort := i.port % 256
      partnerX := i.coord.1 % 256
      partnerY := i.coord.2.1 % 256
      partnerZ := i.coord.2.2 % 256
      partnerSpare := i.spare }
    if Mod.identityOk m p i then Mod.toState m1 p 5
    else (Mod.raiseFault (Mod.toState m1 p 8) .linkRefused .linkSupervisor 0xFF 0 false 0 0 0 p false none).1

/-- `IDENTITY_FLIT` (R404). -/
def execIdentityFlit (port : Fin 16) (i : IdleInfo) (s : State) : Out := .next (s.onMod fun m => Mod.identity m port i)

/-- `CREDIT_INIT_DONE` (R403): the partner's buffer sizes. -/
def execCreditInitDone (port : Fin 16) (credits : List (Nat × Nat × Nat)) (s : State) : Out :=
  .next (s.onMod fun m =>
    if (Mod.port m port).state = 5 then
      Mod.becomeActive (Mod.addCredits (Mod.modPort m port fun q => { q with credits := [] }) port credits) port
        (Mod.port m port).lanes
    else m)

/-- `RETRAIN_DONE` (R403, R408): the replay buffer is sent again from its oldest flit, or the port goes down. -/
def execRetrainDone (port : Fin 16) (lanes : Byte) (s : State) : Out :=
  .next (s.onMod fun m =>
    if (Mod.port m port).state ≠ 7 then m
    else match lanesOf lanes.toNat with
      | some l =>
        let m1 := Mod.resend m port fun _ => true
        Mod.becomeActive (Mod.modPort m1 port fun q => { q with replay := q.replay.map fun e => (e.1, 0, e.2.2) }) port l
      | none => Mod.goDown m port 9 2)

/-! ## Flits -/

/-- A packet whose last flit has been accepted: to the arrivals, or on its way (R415, R416). A supervisor packet that
reaches a spare is for it: its members' reports come on the links to them (R430). -/
def Mod.arrivePacket (m : Mod) (p cls : Nat) (pkt : Packet) : Mod :=
  if Mod.answersTo m pkt.dest || (pkt.ptype == 0x21 && Mod.isSpare m) then
    { m with fab := { m.fab with inbox := m.fab.inbox ++ [pkt] } }
  else
    let h := (Mod.outPort m pkt none).2
    Mod.queuePacket m pkt (if pkt.ptype = 0x10 then some p else none) (some cls) (!h.single && portDim p == portDim h.pair)

/-- DATA_FLIT on the module (R407): in order it is accepted, else it is discarded with one nak. A credit goes back for it
as soon as it is accepted. -/
def Mod.dataFlit (m : Mod) (p : Nat) (h : FlitHdr) (pkt : Option Packet) : Mod :=
  if !(Mod.port m p).isActive then m
  else
    let m0 := if h.good then Mod.header m p h else m
    let q := Mod.port m0 p
    if h.good && h.seq == q.seqRx then
      let m1 := Mod.modPort m0 p fun x => { x with
        seqRx := (x.seqRx + 1) % 1024, nakOut := false
        owed := smod 0 x.owed (h.vc % 4 * 4 + h.cls % 4) (· + 1) }
      let m2 := match pkt with | some k => Mod.arrivePacket m1 p h.cls k | none => m1
      Mod.pump512 m2 p
    else Mod.pump512 (if q.nakOut then m0 else Mod.sendNak m0 p) p

/-- `DATA_FLIT` (R407). -/
def execDataFlit (port : Fin 16) (h : FlitHdr) (pkt : Option Packet) (s : State) : Out :=
  .next (s.onMod fun m => Mod.dataFlit m port h pkt)

/-- The coordinates of a port's partner. -/
def Port.partner (q : Port) : Xyz := (q.partnerX, q.partnerY, q.partnerZ)

/-- IDLE_FLIT on the module (R406, R430): credits, and a partner that says it is failing. -/
def Mod.idleFlit (m : Mod) (p : Nat) (h : FlitHdr) (i : IdleInfo) : Mod :=
  if !(Mod.port m p).isActive || !h.good then m
  else
    let q := Mod.port m p
    let m1 := Mod.pump512 (Mod.addCredits (Mod.header m p h) p i.credits) p
    if i.health = 2 && !q.partnerSpare then Mod.noteHealth m1 q.partner 2 else m1

/-- `IDLE_FLIT` (R406). -/
def execIdleFlit (port : Fin 16) (h : FlitHdr) (i : IdleInfo) (s : State) : Out :=
  .next (s.onMod fun m => Mod.idleFlit m port h i)

/-- NAK_FLIT on the module (R407, R408): the replay buffer is sent again from the named flit; 16 replays of a flit, or 64
naks within 1 ms, start a retrain. -/
def Mod.nakFlit (m : Mod) (p : Nat) (h : FlitHdr) (seq : Nat) : Mod :=
  if !(Mod.port m p).isActive || !h.good then m
  else
    let m1 := Mod.header m p h
    let q := Mod.port m1 p
    let tired := q.replay.any fun e => seqLe seq e.1 && 16 ≤ e.2.1
    let many := match q.nakAt[62]? with | some t => decide (Mod.now m ≤ t + ticksMs) | none => false
    let m2 := Mod.modPort m1 p fun x => { x with nakAt := (Mod.now m :: x.nakAt).take 63 }
    if tired || many then Mod.enterRetrain m2 p
    else Mod.pump512 (Mod.resend m2 p fun e => seqLe seq e) p

/-- `NAK_FLIT` (R407). -/
def execNakFlit (port : Fin 16) (h : FlitHdr) (seq : Nat) (s : State) : Out :=
  .next (s.onMod fun m => Mod.nakFlit m port h seq)

/-- `NAK_REPEAT` (R407): every 2 µs while the expected flit has not come. -/
def execNakRepeat (port : Fin 16) (s : State) : Out :=
  .next (s.onMod fun m => if (Mod.port m port).isActive && (Mod.port m port).nakOut then Mod.sendNak m port else m)

/-- `HEARTBEAT_IDLE` (R403, R406): an idle flit, with credits in bulk; an identity flit in identify and refused. -/
def execHeartbeatIdle (port : Fin 16) (s : State) : Out :=
  .next (s.onMod fun m =>
    let st := (Mod.port m port).state
    if st = 4 ∨ st = 8 then Mod.modPort m port fun q => { q with identSent := q.identSent + 1 }
    else if st = 5 then Mod.modPort m port fun q => { q with idleSent := q.idleSent + 1 }
    else if st = 6 then Mod.modPort m port fun q => { q with idleSent := q.idleSent + 1, owed := [] }
    else m)

/-! ## Silence and loss -/

/-- `LOSS_OF_SIGNAL` (R427): only a port that has reached active is watched. -/
def execLossOfSignal (port : Fin 16) (s : State) : Out :=
  .next (s.onMod fun m =>
    if (Mod.port m port).state = 6 ∨ (Mod.port m port).state = 7 then Mod.goDown m port 9 1 else m)

/-- `PORT_SILENCE_TIMEOUT` (R427): no good codeword for 10 µs. -/
def execPortSilenceTimeout (port : Fin 16) (s : State) : Out :=
  .next (s.onMod fun m => if (Mod.port m port).isActive then Mod.goDown m port 9 1 else m)

/-- A packet is discarded (R428, R429): a request of this module ends its command. -/
def Mod.discard (m : Mod) (pkt : Packet) : Mod :=
  if hasTag pkt.ptype && pkt.ptype != 0x03 && pkt.ptype != 0x07 && pkt.ptype != 0x08 && pkt.src == Mod.here m then
    match m.fab.reqs.find? fun r => r.tag == pkt.tag with
    | some q => Mod.reqFailed m q
    | none => m
  else m

/-- HELD_PACKET_TIMEOUT on the module (R428): packets held for a pair with no active port are discarded. -/
def Mod.dropHeld (m : Mod) (p : Nat) : Mod :=
  let ps := p :: (Mod.pairPort m p).toList
  if ps.any fun q => (Mod.port m q).isActive then m
  else
    let pkts := ps.flatMap fun q => (Mod.port m q).txq.map fun it => it.2.2.2
    let m1 := ps.foldl (fun x q => Mod.modPort x q fun y => { y with txq := [] }) m
    pkts.foldl Mod.discard m1

/-- `HELD_PACKET_TIMEOUT` (R428). -/
def execHeldPacketTimeout (port : Fin 16) (s : State) : Out := .next (s.onMod fun m => Mod.dropHeld m port)

/-- `REQUEST_TIMEOUT` (R429): unanswered after 100 ms. -/
def execRequestTimeout (tag : Nat) (s : State) : Out :=
  .next (s.onMod fun m => match m.fab.reqs.find? fun r => r.tag == tag with
    | some q => Mod.reqFailed m q
    | none => m)

/-- CABLE_CUT_TIMEOUT on the module (R431): both − ports of a dimension down and no word of the partner's loss: the module
gives way. -/
def Mod.cableCut (m : Mod) (dim : Nat) : Mod :=
  let p := 4 * dim + 2
  let down (q : Nat) : Bool := (Mod.port m q).state == 9 && (Mod.port m q).wasActive
  match Mod.farEnd m p with
  | some (c, _, _) =>
    if Mod.isSpare m || !down p || !down (p + 1) || Mod.isLost m c || m.sys.failing then m
    else Mod.fail (Mod.event m .linkFailing 0xFF p 0) 4 0
  | none => m

/-- `CABLE_CUT_TIMEOUT` (R431). -/
def execCableCutTimeout (dim : Fin 3) (s : State) : Out := .next (s.onMod fun m => Mod.cableCut m dim)

/-- `FAILING_PORT_DISABLE` (R446): 5 ms after the declaration every port is disabled. -/
def execFailingPortDisable (s : State) : Out :=
  .next (s.onMod fun m =>
    if m.sys.failing && m.sys.failPorts then
      let ps := (m.fab.ports.filter fun q => q.2.state != 0).map (·.1)
      let m1 := ps.foldl (fun x p => Mod.toState (Mod.modPort x p fun q => { q with
        enable := false, retry := false, replay := [], credits := [], owed := [], txq := [] }) p 0) m
      { m1 with sys := { m1.sys with failPorts := false } }
    else m)

end Sys2Proof.Machine
end

