-- ==== Sys2Proof/Machine/Sites.lean ====
section
/-!
DEFINITION. GDDR sites: training (R213), temperature (R214), draining (R215) and the merging of a full poison directory
(R219); and the retirement of a cluster (R45 to R49).
-/
namespace Sys2Proof.Machine

open Sys2Proof

/-! ## Sites -/

/-- Write a site's record. -/
def Mod.setSite (m : Mod) (n : Nat) (x : Site) : Mod := { m with mem := { m.mem with sites := sset {} m.mem.sites n x } }

/-- The site is one the grade has (R2). -/
def Mod.hasSite (m : Mod) (n : Nat) : Bool := decide (n < Config.sites m.sys.grade)

/-- The site goes offline: the host and the management plane hear of it (R213, R215, R376, R483). -/
def Mod.siteOff (m : Mod) (n : Nat) : Mod :=
  Mod.alert (Mod.event (Mod.setSite m n { Mod.site m n with state := 4, rate := 0, trained := true }) .siteOffline 0xFF n 0)
    .siteOffline n

/-- GDDR_TRAINING on the module: the rate reached, or none of the three. -/
def Mod.trainSite (m : Mod) (n rate : Nat) : Mod :=
  let s := Mod.site m n
  if !Mod.hasSite m n || s.trained || m.sys.perst then m
  else if rate = 40 ∨ rate = 36 ∨ rate = 32 then Mod.setSite m n { s with state := 0, rate := rate, trained := true }
  else Mod.siteOff m n

/-- `GDDR_TRAINING` (R213). -/
def execGddrTraining (site : Fin 16) (rate : Nat) (s : State) : Out := .next (s.onMod fun m => Mod.trainSite m site rate)

/-- Threshold of a state in °C (R214). -/
def siteThreshold (k : Nat) : Nat := 75 + 10 * k

/-- The state of a site at a temperature (R214): the highest whose threshold is reached, or, for a state not above the one it
is in, that is not yet 3 °C below it. -/
def siteLevel (now temp : Nat) : Nat :=
  let inIt (k : Nat) : Bool := decide (siteThreshold k ≤ temp) || (decide (k ≤ now) && decide (siteThreshold k < temp + 3))
  if inIt 3 then 3 else if inIt 2 then 2 else if inIt 1 then 1 else 0

/-- Announce a change of the module's health (R444): slow while a site is throttled. -/
def Mod.noteSlow (m : Mod) (n : Nat) : Mod :=
  let slow := (Mod.throttledSite m).isSome
  if slow = m.sys.slow ∨ m.sys.failing then m
  else Mod.sendHealth { m with sys := { m.sys with slow := slow } } (b2n slow) (b2n slow) n

/-- A site's change of state: a visor event on its die, an event record and an alert (R214, R376, R483). -/
def Mod.siteChange (m : Mod) (n state : Nat) : Mod :=
  let m1 := Mod.setSite m n { Mod.site m n with state := state }
  Mod.alert (Mod.event (Mod.visorBrim m1 (n / 4) 0xFF 0x47 1) .siteState 0xFF n state) .siteState n

/-- GDDR_TEMP_READ on the module: a critical site is drained and the module declares itself FAILING (R214, R215). -/
def Mod.siteTemp (m : Mod) (n t0 t1 : Nat) : Mod :=
  let s := Mod.site m n
  let temp := max t0 t1
  if !Mod.hasSite m n || m.sys.perst then m
  else
    let m1 := Mod.setSite m n { s with temp := temp }
    if 4 ≤ s.state then m1
    else
      let st := siteLevel s.state temp
      if st = s.state then m1
      else if st = 3 then Mod.fail (Mod.noteSlow (Mod.siteOff (Mod.siteChange m1 n 3) n) n) 2 n
      else Mod.noteSlow (Mod.siteChange m1 n st) n

/-- `GDDR_TEMP_READ` (R214). -/
def execGddrTempRead (site : Fin 16) (t0 t1 : Nat) (s : State) : Out := .next (s.onMod fun m => Mod.siteTemp m site t0 t1)

/-- POISON_BLOCK_MERGE on the module (R219): a directory that is full merges one block; with no block entry free the site goes
offline and the module declares itself FAILING. -/
def Mod.poisonMerge (m : Mod) (n : Nat) : Mod :=
  if granuleCount m.mem.granules n < 4096 then m
  else match Mod.mergeBlock m n with
    | (m1, true) => m1
    | (m1, false) => Mod.fail (Mod.noteSlow (Mod.siteOff m1 n) n) 3 n

/-- `POISON_BLOCK_MERGE` (R219). -/
def execPoisonBlockMerge (site : Fin 16) (s : State) : Out := .next (s.onMod fun m => Mod.poisonMerge m site)

/-! ## Retirement -/

/-- A weight line that could not be read is written poisoned in the liner (R48). -/
def Mod.badLine (m : Mod) (l : Nat) (b : Nat × Nat) : Mod :=
  if b.1 < 16 ∧ b.2 < Mod.weightLines m then
    Mod.modCore m (16 * l + b.1) fun x => { x with spadPoison := setRun false x.spadPoison (4 * b.2) true 4 }
  else m

/-- The liner answers to the logical number: the island's liner is used and the retirement is recorded (R45 to R47). -/
def Mod.remap (m : Mod) (l : Nat) : Mod :=
  { Mod.modCluster m l (fun c => { c with retiring := false, uncorrectable := 0, corrected := 0 }) with
    sys := { m.sys with
      retired := m.sys.retired ++ [l]
      linerUsed := sset false m.sys.linerUsed (islandOf m.sys.grade l) true } }

/-- The end of a retirement at run time (R47, R48). -/
def Mod.retired (m : Mod) (l : Nat) (bad : List (Nat × Nat)) : Mod :=
  let m1 := Mod.event (Mod.remap (bad.foldl (fun x b => Mod.badLine x l b) m) l) .clusterRetired 0xFF l 0
  if bad.isEmpty then m1 else Mod.event m1 .modelReload 0xFF l 0

/-- CLUSTER_RETIRE on the module (R46 to R49). It begins by marking the cluster and preempting what runs in it; sent again once
the cluster is free, it moves the cluster to the liner. Before service-ready it is applied without events. -/
def Mod.retire (m : Mod) (l : Nat) (bad : List (Nat × Nat)) : Mod :=
  let c := Mod.cluster m l
  if Config.clusters m.sys.grade ≤ l then m
  else if c.retiring then (if c.job.isSome then m else Mod.retired m l bad)
  else if sget false m.sys.linerUsed (islandOf m.sys.grade l) then Mod.fail m 1 0
  else if !m.sys.serviceReady then Mod.remap m l
  else
    let m1 := Mod.event (Mod.modCluster m l fun c => { c with retiring := true }) .clusterRetiring 0xFF l 0
    if c.job.isSome then Mod.requestAll m1 none [l] else Mod.retired m1 l bad

/-- `CLUSTER_RETIRE` (R47). -/
def execClusterRetire (cl : ClusterId) (badLines : List (Nat × Nat)) (s : State) : Out :=
  .next (s.onMod fun m => Mod.retire m cl badLines)

end Sys2Proof.Machine
end

