-- ==== Sys2Proof/Machine/Boot.lean ====
section
/-!
DEFINITION. Power-up and shutdown (R497 to R502), thermal trip (R464), PERST# and boot (R485 to R487), service-ready, the
Crown watchdog (R479), and CRN_PREEMPT.
-/
namespace Sys2Proof.Machine

open Sys2Proof

/-! ## What a reset keeps -/

/-- A drive in reset: it is fitted or not, and its port has to bring it up again (R494, R501). -/
def Drive.inReset (d : Drive) : Drive := { present := d.present }

/-- The drives in reset; what they store stays. -/
def Flash.inReset (f : Flash) : Flash :=
  { media := f.media
    drives := (f.drives.map fun (p : Nat × Drive) => (p.1, p.2.inReset)).filter fun p => p.2 != ({} : Drive) }

/-- The module without power, its boot flash and fuses apart (R466, R500, R501): the host's memory and the drives are not
the module's. -/
def Mod.cold (m : Mod) (input trip : Bool) : Mod :=
  { sys := {
      grade := m.sys.grade
      retired := m.sys.retired
      linerUsed := m.sys.linerUsed
      input := input
      rails := false
      trip := trip
      perst := true
      cfgReady := false }
    mem := {
      host := m.mem.host
      hostPoison := m.mem.hostPoison }
    flash := m.flash.inReset
    pwr := { brakePin := m.pwr.brakePin }
    free := m.free }

/-- What the boot flash and the fuses hold (R466, R486): an update that was under way leaves its slot invalid (R500). -/
def Mgmt.cold (g : Mgmt) : Mgmt :=
  let g := g.breakUpdate
  { slotA := g.slotA
    slotB := g.slotB
    preferB := g.preferB
    imageKeys := g.imageKeys
    keyRevoked := g.keyRevoked
    fwKeys := g.fwKeys
    fwRevoked := g.fwRevoked
    svn := g.svn }

/-- The module loses its rails; `input` says whether 54 V is still there, `trip` whether THERMTRIP_N is latched. -/
def State.powerOff (s : State) (input trip : Bool) : State :=
  { s with
    mod := s.mod.cold input trip
    mgt := s.mgt.cold }

/-! ## Power -/

/-- INPUT_POWER_ON (R496, R498): the module comes up to PWR_OK with PERST# held; a rail that does not regulate leaves PWR_OK
low and only the helper up. Islands start at 0.75 V, or at 0.55 V while PWR_BRAKE_N is low. -/
def State.powerOn (s : State) (slot : Nat) (railsOk : Bool) : State :=
  if s.mod.sys.input then s
  else
    let s1 := s.powerOff true false
    let m := { s1.mod with sys := { s1.mod.sys with rails := railsOk } }
    { s1 with
      mod := if railsOk && m.pwr.braked then Mod.applyBrake m else m
      mgt := { s1.mgt with slotId := slot } }

/-- `INPUT_POWER_ON` (R498). -/
def execInputPowerOn (slot : Fin 8) (railsOk : Bool) (s : State) : Out := .next (s.powerOn slot railsOk)

/-- `INPUT_UNDERVOLTAGE` (R500): everything goes down, and a latched trip ends with the input. -/
def execInputUndervoltage (s : State) : Out := .next (s.powerOff false false)

/-- `INPUT_OVERVOLTAGE` (R497). -/
def execInputOvervoltage (s : State) : Out := .next (if s.mod.sys.input then s.powerOff true true else s)

/-- `THERMAL_TRIP` (R464): the module stays off until 54 V is removed. -/
def execThermalTrip (s : State) : Out := .next (if s.mod.sys.rails then s.powerOff true true else s)

/-- PWR_OK (R495). -/
def State.pwrOk (s : State) : Bool := s.mod.sys.input && s.mod.sys.rails

/-- THERMTRIP_N is driven low (R495). -/
def State.thermtrip (s : State) : Bool := s.mod.sys.input && s.mod.sys.trip

/-- What FAULT_LED shows (R503): 0 off, 1 on, 2 blinking at 1 Hz, 3 blinking at 4 Hz. -/
def State.faultLed (s : State) : Nat :=
  if !s.mod.sys.input then 0
  else if s.mod.sys.trip then 2
  else if s.mod.sys.failing || s.mod.sys.crown == 3 then 1
  else if bitAt s.mgt.sideband.toNat 8 then 3
  else 0

/-! ## PERST# -/

/-- Crown-timer ticks of the 5 s a slot has to reach service-ready (R485). -/
def bootLimit : Nat := 5 * ticksS

/-- Change the record of a slot: 0 A, 1 B. -/
def Mgmt.modSlot (g : Mgmt) (i : Nat) (f : FwSlot → FwSlot) : Mgmt :=
  if i = 0 then { g with slotA := f g.slotA } else if i = 1 then { g with slotB := f g.slotB } else g

/-- The module while PERST# is asserted (R501): the power plane and the helper go on, the host's side and memory are lost. A
site that went offline stays so (R215). -/
def Mod.held_ (m : Mod) : Mod :=
  let c := m.cold m.sys.input m.sys.trip
  { c with
    sys := { c.sys with
      rails := m.sys.rails
      i3c := m.sys.i3c
      ibis := m.sys.ibis
      alerts := m.sys.alerts
      alertsLost := m.sys.alertsLost }
    mem := { c.mem with sites := m.mem.sites.filter fun p => p.2.state == 4 }
    vis := { snaps := m.vis.snaps }
    pwr := { m.pwr with
      hostCeiling := 2000
      floors := []
      pins := []
      unmetLatch := false
      islands := (m.pwr.islands.map fun (p : Nat × Island) => (p.1, { p.2 with
        unmet := false
        lowered := 0
        uvHold := false })).filter fun p => p.2 != ({} : Island) } }

/-- The helper across PERST# (R484, R487, R513): an update breaks, the policy and the mailbox take their reset values. A boot
that PERST# cuts short is no failure to reach service-ready. -/
def State.mgtHeld (s : State) : Mgmt :=
  let g := s.mgt.breakUpdate
  let cut := s.mod.sys.crown == 2 && !s.mod.sys.serviceReady && !s.mod.sys.perst && decide (s.mod.sys.timer.toNat < bootLimit)
  let g := if cut then g.modSlot g.booted fun x => { x with failures := x.failures - 1 } else g
  { g with
    policy := 0
    mboxIn := []
    mboxOut := []
    inBusy := false
    outReady := false
    outWait := []
    mboxVector := 0
    mboxIrq := false
    crownResets := 0
    resetAt := [] }

/-- `PERST_ASSERT` (R501, R502): a thermal trip wins over it. -/
def execPerstAssert (s : State) : Out :=
  .next (if !s.mod.sys.input || s.mod.sys.trip then s
  else { s with
    mod := s.mod.held_
    mgt := s.mgtHeld })

/-! ## Boot -/

/-- The slot the ROM boots (R485): 0 A, 1 B, 2 recovery. -/
def Mgmt.bootSlot (g : Mgmt) (a b : SlotCheck) : Nat :=
  let p := b2n g.preferB
  let okA := g.slotA.valid && g.accepts a
  let okB := g.slotB.valid && g.accepts b
  let ok (i : Nat) : Bool := if i = 0 then okA else okB
  let tired := decide (2 ≤ (if p = 0 then g.slotA else g.slotB).failures)
  if ok p && !tired then p else if ok (1 - p) then 1 - p else 2

/-- What the ROM has found in the slots. -/
def Mgmt.checked (g : Mgmt) (a b : SlotCheck) : Mgmt :=
  { g with
    slotA := { g.slotA with svn := a.svn, hash := a.hash }
    slotB := { g.slotB with svn := b.svn, hash := b.hash } }

/-- The ROM boots a slot (R485): booting the other one than the preferred raises boot_fallback; a slot that boots has failed
until it reaches service-ready. -/
def State.boot (s : State) (a b : SlotCheck) : State :=
  let k := s.mgt.bootSlot a b
  let p := b2n s.mgt.preferB
  let m := if k != p && k != 2 then Mod.alert s.mod .bootFallback 0 else s.mod
  { s with
    mod := { m with sys := { m.sys with crown := if k = 2 then 3 else 2 } }
    mgt := { (s.mgt.checked a b).modSlot k (fun x => { x with failures := x.failures + 1 }) with
      booted := k
      fallback := k != p } }

/-- A cluster that fails the self-test is retired before service-ready (R46, R47, R49). -/
def Mod.bistFail (m : Mod) (l : Nat) : Mod :=
  if Config.clusters m.sys.grade ≤ l then m
  else if sget false m.sys.linerUsed (islandOf m.sys.grade l) then Mod.fail m 1 0
  else Mod.remap m l

/-- PERST_RELEASE (R487 steps 2 to 4): the Crown timer starts at zero, the link trains, the ROM boots, the self-test retires
clusters. A release before PWR_OK does nothing yet (R499). -/
def State.perstRelease (s : State) (a b : SlotCheck) (bistFails : List Nat) (link : Word) : State :=
  if !s.mod.sys.perst || !s.pwrOk || s.mod.sys.trip then s
  else
    let m := s.mod
    let s1 : State := { s with mod := { m with
      sys := { m.sys with
        perst := false
        cfgReady := true
        timer := 0 }
      host := { m.host with linkStatus := link &&& 0x3FF } } }
    let s2 := s1.boot a b
    if s2.mod.sys.crown = 3 then s2 else { s2 with mod := bistFails.foldl Mod.bistFail s2.mod }

/-- `PERST_RELEASE` (R487). -/
def execPerstRelease (a b : SlotCheck) (bistFails : List Nat) (link : Word) (s : State) : Out :=
  .next (s.perstRelease a b bistFails link)

/-! ## Service-ready -/

/-- Every site of the grade has been trained (R213, R487 step 5). -/
def Mod.sitesTrained (m : Mod) : Bool := (List.range (Config.sites m.sys.grade)).all fun n => (Mod.site m n).trained

/-- A flash port at service-ready: a fitted drive starts coming up, and a port without one reads absent (R238, R494). -/
def Mod.fitDrive (drives : BitVec 4) (m : Mod) (p : Nat) : Mod :=
  if Config.flashPorts m.sys.grade ≤ p then m
  else Mod.modDrive m p fun d => { d with
    present := drives.getLsbD p
    state := if drives.getLsbD p then 3 else 0 }

/-- Ports enabled before service-ready start now (R514). -/
def Mod.pendingPorts (m : Mod) : List Nat :=
  (m.fab.ports.filter fun q => q.2.enable && q.2.state == 0).map (·.1)

/-- SERVICE_READY (R486, R487 step 6, R514): rings may fetch, the ports that were enabled start, the drives come up, and a
slot with a higher security version raises the anti-rollback counter. -/
def State.becomeReady (s : State) (drives : BitVec 4) : State :=
  let m := s.mod
  if m.sys.crown ≠ 2 || m.sys.serviceReady || m.sys.perst || !s.pwrOk || !Mod.sitesTrained m then s
  else
    let m1 := { m with sys := { m.sys with
        crown := 0
        serviceReady := true } }
    let m2 := (List.range 4).foldl (Mod.fitDrive drives) m1
    let m3 := (Mod.pendingPorts m2).foldl Mod.startPort m2
    let slot := if s.mgt.booted = 0 then s.mgt.slotA else s.mgt.slotB
    let g := if m.sys.timer.toNat ≤ bootLimit then s.mgt.modSlot s.mgt.booted fun x => { x with failures := 0 } else s.mgt
    { s with
      mod := Mod.drainFaults (Mod.drainEvents m3 257) 64
      mgt := { g with svn := max g.svn (min 64 slot.svn) } }

/-- `SERVICE_READY` (R487). -/
def execServiceReady (drives : BitVec 4) (s : State) : Out := .next (s.becomeReady drives)

/-! ## The Crown watchdog -/

/-- CROWN_WATCHDOG_EXPIRY (R479): the Crown alone is reset; the third reset within 60 s makes the module FAILING. -/
def State.crownReset (s : State) : State :=
  let m := s.mod
  if m.sys.crown = 1 || m.sys.perst || !s.pwrOk then s
  else
    let now := m.sys.timer.toNat
    let near := s.mgt.resetAt.filter fun t => decide (now ≤ t + 60 * ticksS)
    let m1 := Mod.alert { m with sys := { m.sys with crown := 1 } } .crownReset 0
    { s with
      mod := if 2 ≤ near.length then Mod.fail m1 6 0 else m1
      mgt := { s.mgt.breakUpdate with
        outWait := []
        crownResets := min 65535 (s.mgt.crownResets + 1)
        resetAt := (now :: near).take 2 } }

/-- `CROWN_WATCHDOG_EXPIRY` (R479). -/
def execCrownWatchdogExpiry (s : State) : Out := .next s.crownReset

/-- The slot that runs after a Crown reset (R484, R485): the one that booted, while it verifies. -/
def Mgmt.rebootSlot (g : Mgmt) (a b : SlotCheck) : Nat :=
  let okA := g.slotA.valid && g.accepts a
  let okB := g.slotB.valid && g.accepts b
  if g.booted = 0 then (if okA then 0 else if okB then 1 else 2)
  else if g.booted = 1 then (if okB then 1 else if okA then 0 else 2)
  else g.bootSlot a b

/-- The status of a descriptor at the Crown's return (R479): a job whose roles had all reached END has run. -/
def Flight.returnStatus (f : Flight) : Status :=
  if descKind f.raw = 0x03 && f.allEnded then f.ranStatus else .contextKilled

/-- The end of every context at the Crown's return (R479), with its unfinished descriptors in fetch order. -/
def Mod.endAllContexts (m : Mod) : Mod :=
  let fs := m.host.flights.filter fun f => descCtx f.raw < 16
  let m1 := ((Mod.liveList m).map (·.1)).foldl (fun x k => Mod.dropContext x k true) m
  Mod.endFlights m1 Flight.returnStatus fs

/-- CROWN_RETURN (R479, R485): the ROM verifies the slot again, and the Crown is back in service, or booting where
service-ready had not been reached. -/
def State.crownReturn (s : State) (a b : SlotCheck) : State :=
  if s.mod.sys.crown ≠ 1 || s.mod.sys.perst then s
  else
    let k := s.mgt.rebootSlot a b
    let m := if k != s.mgt.booted && k != 2 then Mod.alert s.mod .bootFallback 0 else s.mod
    let m1 := Mod.endAllContexts m
    let crown := if k = 2 then 3 else if m.sys.serviceReady then 0 else 2
    let m2 := { m1 with sys := { m1.sys with crown := crown } }
    { s with
      mod := Mod.drainEvents m2 257
      mgt := { s.mgt.checked a b with
        booted := k
        fallback := k != b2n s.mgt.preferB } }

/-- `CROWN_RETURN` (R479). -/
def execCrownReturn (a b : SlotCheck) (s : State) : Out := .next (s.crownReturn a b)

/-! ## CRN_PREEMPT -/

/-- CRN_PREEMPT's defined bits. -/
def preemptMask : DWord := 0x0000_03FF_FFFF_FFFF

/-- Write CRN_PREEMPT (R387): it acts at the next preemption request. -/
def Mod.writePreempt (m : Mod) (v : DWord) : Mod := { m with sys := { m.sys with preempt := v &&& preemptMask } }

/-- `CRN_PREEMPT_WRITE` (R387). -/
def execCrnPreemptWrite (v : DWord) (s : State) : Out := .next (s.onReg fun m => Mod.writePreempt m v)

end Sys2Proof.Machine
end

