-- ==== Sys2Proof/Machine/Scalar.lean ====
section
/-!
DEFINITION. Scalar control (R295, R296): NOP, LI, ALU, ALUI, SYS, BR, LOOP, LEVEL, COND, BANK, END, and the bank that
becomes ready (R38).
-/
namespace Sys2Proof.Machine

open Sys2Proof

/-- Field rd of a scalar instruction. -/
def fieldRd (p : PvisWords) : Nat := PvisWords.f p 36 32

/-- Field ra. -/
def fieldRa (p : PvisWords) : Nat := PvisWords.f p 28 24

/-- Field rb. -/
def fieldRb (p : PvisWords) : Nat := PvisWords.f p 20 16

/-- Write register rd of a core. -/
def Mod.putReg (m : Mod) (c i : Nat) (v : Word) : Mod := Mod.modCore m c fun x => x.setReg i v

/-- `NOP` (R295). -/
def execNop (c : CoreId) (p : PvisWords) (s : State) : Out := coreCmd "NOP" 0x00 c p s id id

/-- LI on a core that has fetched it. -/
def Mod.li (c : Nat) (p : PvisWords) (m : Mod) : Mod := Mod.putReg m c (fieldRd p) (BitVec.ofNat 32 (PvisWords.f p 31 0))

/-- `LI` (R295). -/
def execLi (c : CoreId) (p : PvisWords) (s : State) : Out := coreCmd "LI" 0x01 c p s id (Mod.li c p)

/-- ALU on a core that has fetched it. -/
def Mod.alu (c : Nat) (p : PvisWords) (m : Mod) : Mod :=
  let x := Mod.core m c
  Mod.putReg m c (fieldRd p) (aluOp (PvisWords.f p 43 40) (x.reg (fieldRa p)) (x.reg (fieldRb p)))

/-- `ALU` (R295). -/
def execAlu (c : CoreId) (p : PvisWords) (s : State) : Out := coreCmd "ALU" 0x02 c p s id (Mod.alu c p)

/-- ALUI on a core that has fetched it: the immediate is signed, 20 bits. -/
def Mod.alui (c : Nat) (p : PvisWords) (m : Mod) : Mod :=
  Mod.putReg m c (fieldRd p) (aluOp (PvisWords.f p 43 40) ((Mod.core m c).reg (fieldRa p))
    ((BitVec.ofNat 20 (PvisWords.f p 19 0)).signExtend 32))

/-- `ALUI` (R295). -/
def execAlui (c : CoreId) (p : PvisWords) (s : State) : Out := coreCmd "ALUI" 0x03 c p s id (Mod.alui c p)

/-- The argument word `i` of the RUN whose job a core runs (R365). -/
def Mod.argWord (m : Mod) (c i : Nat) : Nat :=
  match Mod.flight m (Mod.core m c).job with | some f => descFld f.raw (0x20 + 4 * i) 31 0 | none => 0

/-- A system item of SYS (R295). -/
def Mod.sysItem (m : Mod) (c i : Nat) : Nat :=
  let x := Mod.core m c
  let img := match Mod.ctx m (x.ctx.getD 0xFF) with | some k => k.image | none => {}
  if i = 0 then c % 16
  else if i = 1 then c / 16
  else if i = 2 then c
  else if i = 3 then x.ctx.getD 0xFF
  else if i = 4 then Config.gradeBit m.sys.grade
  else if i = 5 then x.role % 65536
  else if i = 6 then Image.roleIndex img (c / 16)
  else if i = 7 then (Image.roleClusters img ((Image.roleAt img (c / 16)).getD 0)).length
  else Mod.argWord m c (i - 8)

/-- SYS on a core that has fetched it. -/
def Mod.sysRead (c : Nat) (p : PvisWords) (m : Mod) : Mod :=
  Mod.putReg m c (fieldRd p) (BitVec.ofNat 32 (Mod.sysItem m c (PvisWords.f p 3 0)))

/-- `SYS` (R295). -/
def execSys (c : CoreId) (p : PvisWords) (s : State) : Out := coreCmd "SYS" 0x04 c p s id (Mod.sysRead c p)

/-- Move the program counter of a core. -/
def Mod.jump (m : Mod) (c : Nat) (target : Int) : Mod := Mod.modCore m c fun x => { x with pc := target.toNat }

/-- BR on a core that has fetched it: the offset counts from the BR itself. -/
def Mod.br (c : Nat) (p : PvisWords) (m : Mod) : Mod :=
  let x := Mod.core m c
  if brHolds (PvisWords.f p 42 40) (x.reg (fieldRa p)) (x.reg (fieldRb p)) then
    Mod.jump m c ((x.pc : Int) - 1 + signed 16 (PvisWords.f p 15 0))
  else m

/-- `BR` (R295). -/
def execBr (c : CoreId) (p : PvisWords) (s : State) : Out := coreCmd "BR" 0x06 c p s id (Mod.br c p)

/-- LOOP on a core that has fetched it. -/
def Mod.loopBack (c : Nat) (p : PvisWords) (m : Mod) : Mod :=
  let x := Mod.core m c
  let v := x.reg (fieldRd p) - 1
  let m1 := Mod.putReg m c (fieldRd p) v
  if v = 0 then m1 else Mod.jump m1 c ((x.pc : Int) - 1 - (PvisWords.f p 15 0 : Int))

/-- `LOOP` (R295). -/
def execLoop (c : CoreId) (p : PvisWords) (s : State) : Out := coreCmd "LOOP" 0x07 c p s id (Mod.loopBack c p)

/-- LEVEL on a core that has fetched it. -/
def Mod.levelRead (c : Nat) (p : PvisWords) (m : Mod) : Mod :=
  Mod.putReg m c (fieldRd p) (BitVec.ofNat 32 ((Mod.core m c).level (PvisWords.f p 3 0)))

/-- `LEVEL` (R34). -/
def execLevel (c : CoreId) (p : PvisWords) (s : State) : Out := coreCmd "LEVEL" 0x08 c p s id (Mod.levelRead c p)

/-- COND on a core that has fetched it: it waits for the masked engines, then reads the word. -/
def Mod.condRead (c : Nat) (p : PvisWords) (m : Mod) : Mod :=
  Mod.settle (Mod.modCore m c fun x =>
    { x with wait := .cond (fieldRd p) (PvisWords.f p 8 8 == 1) (PvisWords.f p 7 0) }) c

/-- `COND` (R295). -/
def execCond (c : CoreId) (p : PvisWords) (s : State) : Out := coreCmd "COND" 0x09 c p s id (Mod.condRead c p)

/-- Switch a core to a bank of its cluster (R38): it starts at the first word of the program there. -/
def Mod.enterBank (m : Mod) (c b : Nat) : Mod :=
  let x := Mod.core m c
  let m1 := Mod.modCluster m (c / 16) fun k => k.setBank x.bank (k.bank x.bank).leave
  let m2 := Mod.modCluster m1 (c / 16) fun k => k.setBank b (k.bank b).enter
  let role := ((Mod.cluster m (c / 16)).bank b).role
  Mod.visor (Mod.modCore m2 c fun y => { y with bank := b, pc := 0, role := role, fetchBuf := [], wait := .none })
    (c / 16) 0x1F 1

/-- The bank holds a complete program (R36). -/
def Mod.bankHolds (m : Mod) (c b : Nat) : Bool := 2 ≤ ((Mod.cluster m (c / 16)).bank b).state

/-- BANK on a core that has fetched it. -/
def Mod.bankSwitch (c : Nat) (m : Mod) : Mod :=
  let b := 1 - (Mod.core m c).bank
  if Mod.bankHolds m c b then Mod.enterBank m c b else Mod.modCore m c fun y => { y with wait := .bank b }

/-- `BANK` (R38). -/
def execBank (c : CoreId) (p : PvisWords) (s : State) : Out := coreCmd "BANK" 0x0A c p s id (Mod.bankSwitch c)

/-- BANK_READY on the module: the bank a core waits for is ready, and no preemption request holds the core. -/
def Mod.bankReady (m : Mod) (c : Nat) : Mod :=
  match (Mod.core m c).wait with
  | .bank b => if Mod.bankHolds m c b && (Mod.cluster m (c / 16)).preempt.isNone then Mod.enterBank m c b else m
  | _ => m

/-- `BANK_READY` (R38). -/
def execBankReady (c : CoreId) (s : State) : Out := .next (s.onMod fun m => Mod.bankReady m c)

/-- END on a core that has fetched it (R38): its contribution leaves the bank's fetch count, and it fetches nothing. The
last core of a cluster ends the role there (R372). -/
def Mod.endCore (c : Nat) (m : Mod) : Mod :=
  let x := Mod.core m c
  let m1 := Mod.modCluster m (c / 16) fun k => k.setBank x.bank (k.bank x.bank).leave
  let m2 := Mod.modCore m1 c fun y => { y with running := false }
  if (coresOf (c / 16)).all fun i => !(Mod.core m2 i).running then
    Mod.modFlight m2 x.job fun f => { f with ended := f.ended + 1 }
  else m2

/-- `END` (R38). -/
def execEndRole (c : CoreId) (p : PvisWords) (s : State) : Out := coreCmd "END" 0x0B c p s id (Mod.endCore c)

end Sys2Proof.Machine
end

