-- ==== Sys2Proof/Machine/Branches.lean ====
section
/-!
DEFINITION. The branch operations BFORK, BKILL, BPRUNE and BCOMMIT (R195 to R198, R204, R311) and the kill that waits
for jobs to end (R198).
-/
namespace Sys2Proof.Machine

open Sys2Proof

/-- Branch number that a register holds: a number above 4,095 names no branch (R194). -/
def Core.branchNo (x : Core) (i : Nat) : Nat := x.regN i

/-- State of a branch: free for a number that names none. -/
def Ctx.branchState (c : Ctx) (b : Nat) : Nat := if b < 4096 then (c.branch b).state else 0

/-- A branch instruction on a core that has fetched it: checks that the context has a branch table (R196) and that the
records of the named branches can be read and written (R525, R526), then `run`. -/
def Mod.branchOp (core : Nat) (p : PvisWords) (bs : Core → List Nat) (run : Ctx → Mod → Mod) (m : Mod) : Mod :=
  let k := Mod.ctxOf m core
  match Mod.ctx m k with
  | none => m
  | some c =>
    if c.blk.branchTable = 0 then Mod.kill m core .branch .controlUnit 0 0
    else match Mod.branchesBad m k c true ((bs (Mod.core m core)).filter (· < 4096)) with
      | some (.inl f) => Mod.parkCore m core p f .pageAllocator 0
      | some (.inr va) => Mod.controlPoison m k (Mod.core m core).job core va
      | none => run c m

/-! ## Fork -/

/-- The entries of a list that hold positions below `k`, the last one cut to end at `k` (R195). -/
def cutEntries (k : Nat) (es : List ListEntry) : List ListEntry :=
  (es.filter fun e => decide (e.firstPosition < k)).map fun e => { e with count := min e.count (k - e.firstPosition) }

/-- The matching list of the child for a list of the parent. -/
def childKey (parent child key : Nat) : Nat := listKey child (key - listKey parent 0)

/-- Fork one list. -/
def Mod.forkList (m : Mod) (ctx : Nat) (c : Ctx) (pBlock cBlock k key : Nat) : Mod :=
  let l := c.list key
  let d := c.list (childKey pBlock cBlock key)
  let es := cutEntries k l.entries
  let m1 := Mod.onEntries Mod.addRef m es
  Mod.setList m1 ctx (childKey pBlock cBlock key)
    { d with length := k, budget := l.budget, window := l.window, width := l.width, format := l.format, group := l.group,
             latent := l.latent, ring := l.ring, entries := es }

/-- Fork a child from a parent at `k` (R195, R196). -/
def Mod.fork (core parent child k : Nat) (c : Ctx) (m : Mod) : Mod :=
  let ctx := Mod.ctxOf m core
  let p := c.branch parent
  let d := c.branch child
  let keys := c.listsOf p.listBlock
  if !(decide (child < 4096)) || c.branchState child != 0 || c.branchState parent != 1 || k == 0
      || keys.any (fun x => decide ((c.list x).length < k) || (c.list x).ring) then
    Mod.kill m core .branch .controlUnit 0 0
  else if keys.any fun x =>
      decide ((c.list (childKey p.listBlock d.listBlock x)).capacity < (cutEntries k (c.list x).entries).length) then
    Mod.kill m core .kvListFull .controlUnit 0 0
  else
    let m1 := keys.foldl (fun x key => Mod.forkList x ctx c p.listBlock d.listBlock k key) m
    let m2 := Mod.modBranch m1 ctx child fun r =>
      { r with state := 1, parent := parent, sequence := p.sequence, length := k, forkPosition := k, children := 0,
               generation := (r.generation + 1) % 65536, pending := 0, verifyBase := 0 }
    Mod.modBranch m2 ctx parent fun r => { r with children := r.children + 1 }

/-- `BFORK` (R195, R311). -/
def execBfork (c : CoreId) (p : PvisWords) (s : State) : Out :=
  coreCmd "BFORK" 0x73 c p s id fun m =>
    let x := Mod.core m c
    Mod.branchOp c p (fun y => [y.branchNo (fieldRa p), y.branchNo (fieldRd p)])
      (Mod.fork c (x.branchNo (fieldRd p)) (x.branchNo (fieldRa p)) (x.regN (fieldRb p))) m

/-! ## Kill and prune -/

/-- Children of a branch: branches that are not free and name it as parent. -/
def Ctx.childrenOf (c : Ctx) (b : Nat) : List Nat :=
  (c.branches.filter fun r => r.2.state != 0 && r.2.parent == b).map (·.1)

/-- A branch and those descended from it, children before parents (R195). -/
def Ctx.subtree (c : Ctx) : Nat → Nat → List Nat
  | 0, b => [b]
  | fuel + 1, b => (c.childrenOf b).flatMap (c.subtree fuel) ++ [b]

/-- The branches a kill or prune removes. -/
def Ctx.removed (c : Ctx) (prune : Bool) (b : Nat) : List Nat := if prune then c.subtree 4096 b else [b]

/-- Empty a list, dropping its references. -/
def Mod.emptyList (m : Mod) (ctx key : Nat) : Mod :=
  match Mod.ctx m ctx with
  | none => m
  | some c =>
    let l := c.list key
    Mod.onEntries Mod.dropRef (Mod.setList m ctx key { l with length := 0, entries := [] }) l.entries

/-- Kill one branch (R195). -/
def Mod.killBranch (ctx : Nat) (m : Mod) (b : Nat) : Mod :=
  match Mod.ctx m ctx with
  | none => m
  | some c =>
    let r := c.branch b
    let m1 := (c.listsOf r.listBlock).foldl (fun x key => Mod.emptyList x ctx key) m
    let m2 := (c.childrenOf b).foldl (fun x d => Mod.modBranch x ctx d fun y => { y with parent := 0xFFFF }) m1
    let m3 := if r.parent = 0xFFFF then m2
      else Mod.modBranch m2 ctx r.parent fun y => { y with children := y.children - 1 }
    Mod.modBranch m3 ctx b fun y => { y with state := 0, children := 0, pending := 0 }

/-- The jobs a kill waits for (R198): started ones, other than the issuing one, that name a branch it removes. -/
def Mod.killJobs (m : Mod) (ctx job : Nat) (bs : List Nat) : List Nat :=
  (m.host.flights.filter fun f => f.runsJob && f.id != job && descCtx f.raw == ctx
    && (Mod.jobBranches m f).any bs.contains).map (·.id)

/-- Kill or prune a branch (R195, R196, R198). -/
def Mod.killOp (core b : Nat) (prune : Bool) (c : Ctx) (m : Mod) : Mod :=
  let ctx := Mod.ctxOf m core
  if c.branchState b = 0 then Mod.kill m core .branch .controlUnit 0 0
  else
    let bs := c.removed prune b
    let job := (Mod.core m core).job
    let js := Mod.killJobs m ctx job bs
    if js.isEmpty then bs.foldl (Mod.killBranch ctx) m
    else
      let m1 := Mod.modCtx m ctx fun x => { x with kills := x.kills ++ [⟨b, prune, core, job, bs, js⟩] }
      Mod.modCore m1 core fun x => { x with wait := .kill b }

/-- `BKILL` (R195, R311). -/
def execBkill (c : CoreId) (p : PvisWords) (s : State) : Out :=
  coreCmd "BKILL" 0x74 c p s id fun m =>
    let b := (Mod.core m c).branchNo (fieldRd p)
    Mod.branchOp c p (fun _ => [b]) (Mod.killOp c b false) m

/-- `BPRUNE` (R195, R311). -/
def execBprune (c : CoreId) (p : PvisWords) (s : State) : Out :=
  coreCmd "BPRUNE" 0x75 c p s id fun m =>
    let b := (Mod.core m c).branchNo (fieldRd p)
    Mod.branchOp c p (fun _ => [b]) (Mod.killOp c b true) m

/-- KILL_WAIT_DONE on the module (R198): the jobs have ended; the kill applies and its core goes on. -/
def Mod.killWaitDone (m : Mod) (ctx b : Nat) : Mod :=
  match Mod.ctx m ctx with
  | none => m
  | some c =>
    match (Mod.waitingKills m c).find? fun w => w.branch == b with
    | none => m
    | some w =>
      if w.jobs.any (fun j => (Mod.flight m j).isSome) || (Mod.core m w.core).wait != .kill b
          || (Mod.core m w.core).job != w.job then m
      else
        let m1 := w.removes.foldl (Mod.killBranch ctx) m
        let m2 := Mod.modCtx m1 ctx fun x => { x with kills := x.kills.filter (· != w) }
        Mod.modCore m2 w.core fun x => { x with wait := .none }

/-- `KILL_WAIT_DONE` (R198). -/
def execKillWaitDone (ctx : Fin 16) (branch : Nat) (s : State) : Out :=
  .next (s.onMod fun m => Mod.killWaitDone m ctx branch)

/-! ## Commit -/

/-- Set the last entry's count so that it ends at `top`; an entry that ends before a gap keeps its count (R180). -/
def cutLast (top : Nat) (es : List ListEntry) : List ListEntry :=
  match es.getLast? with
  | some e => es.dropLast ++ [{ e with count := min e.count (top - e.firstPosition) }]
  | none => []

/-- Commit one list to length `top` (R204): the module, and whether the list stays over its budget. -/
def Mod.commitList (m : Mod) (ctx top key : Nat) : Mod × Bool :=
  match Mod.ctx m ctx with
  | none => (m, false)
  | some c =>
    let l := c.list key
    if l.length ≤ top then (m, false)
    else
      let keep := l.entries.filter fun e => decide (e.firstPosition < top)
      let gone := l.entries.filter fun e => decide (top ≤ e.firstPosition)
      let m1 := Mod.setList m ctx key { l with entries := cutLast top keep, length := top }
      Mod.evict (Mod.onEntries Mod.dropRef m1 gone) ctx key (keep.length + 1)

/-- Commit a verification (R196, R204). -/
def Mod.commit (core b a : Nat) (c : Ctx) (m : Mod) : Mod :=
  let ctx := Mod.ctxOf m core
  let r := c.branch b
  if c.branchState b != 2 || decide (r.pending < a) then Mod.kill m core .branch .controlUnit 0 0
  else
    let top := r.verifyBase + a
    let x := (c.listsOf r.listBlock).foldl (fun (y : Mod × Bool) key =>
      let z := Mod.commitList y.1 ctx top key; (z.1, y.2 || z.2)) (m, false)
    Mod.attnCond (Mod.modBranch x.1 ctx b fun y => { y with state := 1, pending := 0, length := top }) core false x.2 false

/-- `BCOMMIT` (R204, R311). -/
def execBcommit (c : CoreId) (p : PvisWords) (s : State) : Out :=
  coreCmd "BCOMMIT" 0x76 c p s id fun m =>
    let x := Mod.core m c
    Mod.branchOp c p (fun y => [y.branchNo (fieldRd p)])
      (Mod.commit c (x.branchNo (fieldRd p)) (x.regN (fieldRa p))) m

end Sys2Proof.Machine
end

