-- ==== Sys2Proof/Machine/Packets.lean ====
section
/-!
DEFINITION. Packets that arrive (R411 to R413): remote writes and reads, acknowledgements, entries of channels, flag changes.
-/
namespace Sys2Proof.Machine

open Sys2Proof

/-! ## Requests of the module that serve no job -/

/-- What a write of a buddy push is tracked for, in place of a job (R437). -/
def pushJob : Nat := 2 ^ 64

/-- What a write of a continuous export is tracked for (R438). -/
def exportJob : Nat := 2 ^ 64 + 1

/-- A push that has had its last acknowledgement is complete (R437, R448). -/
def Mod.pushSettle (m : Mod) : Mod :=
  if m.rcv.pushing && !m.fab.reqs.any fun r => r.job == pushJob then
    let n := m.rcv.copySeq + 1
    Mod.event { m with rcv := { m.rcv with pushing := false, copySeq := n } } .buddyPushDone 0xFF 0 n
  else m

/-! ## Writes -/

/-- The address of a write names lines of a core's scratchpad, by `Mod.linesPacket`. -/
def isLines (p : Packet) : Bool := p.context != 0xFF && bitAt p.address 47

/-- Acknowledge a write or a row request. -/
def Mod.ack (m : Mod) (p : Packet) : Mod :=
  Mod.sendPacket m { ptype := 0x08, dest := p.src, src := Mod.memberHere m, tag := p.tag, lc := p.lc } none

/-- A remote write of lines (R15, R22, R388): it waits while the consumer core does not run the context; lines outside its
regions end the context. -/
def Mod.writeLines (m : Mod) (p : Packet) : Mod :=
  let line := p.address % 2 ^ 47 / 65536
  match Mod.heldCore m p.context (p.address % 65536) with
  | none => m
  | some t =>
    if (Mod.core m t).ctx != some p.context then Mod.putBack m p
    else
      let m1 := Mod.takeIn m p
      if !Mod.linesOk m1 t line (ceilDiv p.data.length 32) true then Mod.regionKill m1 t line
      else Mod.ack (Mod.spadWrite m1 t (line * 32) p.data p.poison) p

/-- WRITE_PACKET on the module (R412): translated with this module's tables and applied, and acknowledged; a fault is raised
here, and the packet waits on its record. -/
def Mod.writePacket (m : Mod) (p : Packet) : Mod :=
  if p.ptype ≠ 0x01 then m
  else if isLines p then Mod.writeLines m p
  else
    match Mod.vaWrite m (brimTlbOf p.address) p.context p.address p.data p.poison with
    | (m1, some (f, d)) =>
      (Mod.raiseAcc (Mod.takeIn m1 p) f .linkSupervisor p.context 0 0 d true (some (.packet p))).1
    | (m1, none) => Mod.ack (Mod.takeIn m1 p) p

/-- `WRITE_PACKET` (R412). -/
def execWritePacket (pkt : Packet) (s : State) : Out := .next (s.onMod fun m => Mod.writePacket m pkt)

/-! ## Reads -/

/-- READ_REQUEST_PACKET on the module (R411). DESIGN CHOICE: the request's data is the length in 4 bytes. -/
def Mod.readPacket (m : Mod) (p : Packet) : Mod :=
  if p.ptype ≠ 0x02 then m
  else
    let m1 := Mod.takeIn m p
    match Mod.vaRead m1 (brimTlbOf p.address) p.context p.address (min 4096 (leNat (p.data.take 4))) with
    | .inl f => (Mod.raiseAcc m1 f .linkSupervisor p.context 0 0 0 true (some (.packet p))).1
    | .inr (bs, po) =>
      Mod.sendPacket m1 { ptype := 0x03, dest := p.src, src := Mod.memberHere m1, tag := p.tag, lc := p.lc
                          poison := po, data := bs } none

/-- `READ_REQUEST_PACKET` (R411). -/
def execReadRequestPacket (pkt : Packet) (s : State) : Out := .next (s.onMod fun m => Mod.readPacket m pkt)

/-- READ_RESPONSE_PACKET on the module (R411): the data goes where the request wants it. -/
def Mod.readResponse (m : Mod) (p : Packet) : Mod :=
  if p.ptype ≠ 0x03 then m
  else
    let m1 := Mod.takeIn m p
    match m1.fab.reqs.find? fun r => r.tag == p.tag && r.ptype == 0x02 with
    | none => m1
    | some q =>
      match Mod.vaWrite m1 (brimTlbOf q.va) q.ctx q.va p.data p.poison with
      | (m2, some (f, d)) =>
        (Mod.raiseAcc m2 f .linkSupervisor q.ctx 0 (Mod.tagOf m2 q.job) d true (some (.packet p))).1
      | (m2, none) => Mod.dropReq m2 q.tag

/-- `READ_RESPONSE_PACKET` (R411). -/
def execReadResponsePacket (pkt : Packet) (s : State) : Out := .next (s.onMod fun m => Mod.readResponse m pkt)

/-! ## Acknowledgements -/

/-- The cores of a job. -/
def Mod.jobCores (m : Mod) (job : Nat) : List Nat :=
  (m.cores.filter fun p => p.2.running && p.2.job == job).map (·.1)

/-- Fences and flag ops that waited for a job's writes go on (R308, R339, R412). -/
def Mod.ackedJob (m : Mod) (job : Nat) : Mod :=
  (Mod.jobCores m job).foldl (fun x c => Mod.pump (Mod.settle x c) c 5) m

/-- WRITE_ACKNOWLEDGEMENT on the module (R412, R413): of a tracked request; with a data byte, the credits of a channel. -/
def Mod.writeAck (m : Mod) (p : Packet) : Mod :=
  if p.ptype ≠ 0x08 then m
  else
    let m1 := Mod.takeIn m p
    if !p.data.isEmpty then
      let x := Mod.chan m1 p.context p.address
      Mod.setChan m1 p.context p.address { x with used := x.used - (nth 0 p.data 0).toNat }
    else match m1.fab.reqs.find? fun r => r.tag == p.tag && r.ptype != 0x02 && r.ptype != 0x06 with
      | none => m1
      | some q =>
        let m2 := Mod.dropReq m1 q.tag
        if q.job = pushJob then Mod.pushSettle m2
        else if q.ptype = 0x01 then Mod.ackedJob m2 q.job
        else Mod.rowAcked m2 q

/-- `WRITE_ACKNOWLEDGEMENT` (R412). -/
def execWriteAcknowledgement (pkt : Packet) (s : State) : Out := .next (s.onMod fun m => Mod.writeAck m pkt)

/-! ## Channels and flags -/

/-- The entry of a queue push. -/
def entryOf (p : Packet) : QEntry :=
  { data := BitVec.ofNat 512 (leNat ((p.data.drop 2).take 32))
    side := BitVec.ofNat 9 (leNat (p.data.take 2) % 256 + 256 * b2n (p.poison || bitAt (leNat (p.data.take 2)) 8)) }

/-- REMOTE_QUEUE_PUSH on the module (R413): the entry is held and moves in as slots free. -/
def Mod.queuePush (m : Mod) (p : Packet) : Mod :=
  if p.ptype ≠ 0x04 then m
  else
    let x := Mod.chan m p.context p.address
    if 16 ≤ x.held.length then Mod.putBack m p
    else
      let m1 := Mod.takeIn m p
      if (Mod.ctx m1 p.context).isNone then m1
      else Mod.drainHeld (Mod.setChan m1 p.context p.address { x with held := x.held ++ [entryOf p], src := p.src })
        p.context p.address 16

/-- `REMOTE_QUEUE_PUSH` (R413). -/
def execRemoteQueuePush (pkt : Packet) (s : State) : Out := .next (s.onMod fun m => Mod.queuePush m pkt)

/-- The cluster that holds the copy of a cluster flag that another module changes (R325): the first of the role of the
mirror pair that this module places. -/
def Mod.flagHome (m : Mod) (k v : Nat) : Option Nat :=
  match Mod.ctx m k with
  | none => none
  | some c =>
    match Ctx.mirrorChan c v with
    | none => none
    | some ch => match Mod.chanDecl m k ch with
      | none => none
      | some (d : ChanDecl) =>
        let mine := if d.remote.isSome then d.producerRole else d.consumerRole
        (Image.roleClusters c.image mine).head?

/-- FLAG_CHANGE_PACKET on the module (R325, R411). -/
def Mod.flagPacket (m : Mod) (p : Packet) : Mod :=
  if p.ptype ≠ 0x05 then m
  else
    let m1 := Mod.takeIn m p
    match Mod.ctx m1 p.context with
    | none => m1
    | some c =>
      let val := bitAt (nth 0 p.data 0).toNat 0
      match Ctx.flagClass c p.address with
      | .cluster => (match Mod.flagHome m1 p.context p.address with
        | some l => Mod.changeFlag m1 p.context l p.address val
        | none => m1)
      | _ => Mod.changeFlag m1 p.context 0 p.address val

/-- `FLAG_CHANGE_PACKET` (R411). -/
def execFlagChangePacket (pkt : Packet) (s : State) : Out := .next (s.onMod fun m => Mod.flagPacket m pkt)

end Sys2Proof.Machine
end

