-- ==== Sys2Proof/Machine/Collectives.lean ====
section
/-!
DEFINITION. Collective groups: their declaration (R368, R418, R419), the start and end of an operation (R420), the data and
grants that arrive (R421 to R424), and the watchdog (R426).
-/
namespace Sys2Proof.Machine

open Sys2Proof

/-! ## Declaration -/

/-- Dimensions a descriptor spans. -/
def dimCount (d : CollDesc) : Nat := ((List.range 3).filter fun k => bitAt d.dims k).length

/-- The largest bucket of a descriptor's operations (R418, R419). -/
def largestBucket (d : CollDesc) : Nat := d.ops.foldl (fun a (o : CollOp) => max a (min o.bytes (o.bucketMib * 2 ^ 20))) 0

/-- An operation entry is well-formed (R419). -/
def opOk (d : CollDesc) (o : CollOp) : Bool :=
  1 ≤ o.op && o.op ≤ 4 && o.root < collMembers d && o.bytes % (128 * collMembers d) == 0
    && 4 ≤ o.bucketMib && o.bucketMib ≤ 1024 && o.trigger < 4096 && o.done < 4096

/-- A collective descriptor is well-formed for this module (R418, R419): its shape, its members within the torus with this
module among them, its context, its entries, its staging. -/
def Mod.collOk (m : Mod) (d : CollDesc) : Bool :=
  let e := Mod.extents m
  let inTorus (k : Nat) : Bool :=
    1 ≤ Xyz.dim d.extent k && Xyz.dim d.origin k + Xyz.dim d.extent k ≤ Xyz.dim e k
      && (bitAt d.dims k || Xyz.dim d.extent k == 1)
  d.reservedClear && d.group ≤ 63 && d.shape ≤ 3 && d.dims < 8 && d.ops.length ≤ 255
    && dimCount d == (if d.shape = 0 then 1 else if d.shape = 3 then 3 else 2)
    && (List.range 3).all inTorus
    && isMember d (Mod.memberHere m)
    && (Mod.ctx m d.context).isSome
    && d.ops.all (opOk d)
    && 2 * largestBucket d * dimCount d ≤ d.stagingBytes

/-- Grants a member gives before anything has been sent: two slots per inbound direction per dimension (R421). -/
def Mod.firstGrants (m : Mod) (n : Nat) (g : Group) : Mod :=
  ((ringsOf g.d).filter fun r => 1 < ringSizeOf g.d r).foldl (fun x r =>
    Mod.collGrant (Mod.collGrant (Mod.collGrant (Mod.collGrant x n g r 0) n g r 0) n g r 1) n g r 1) m

/-- COLLECTIVE_GROUP on the module (R419). -/
def Mod.declareGroup (m : Mod) (id : Nat) (d : CollDesc) : Mod :=
  match Mod.ready m id 0x0C with
  | none => m
  | some fl =>
    if bitAt (descFld fl.raw 0x10 31 0) 16 then m
    else if d.group ≠ descFld fl.raw 0x10 15 0 || !Mod.collOk m d || (Mod.group m d.group).isSome then
      Mod.endFlight m id .descriptorInvalid 0 0
    else if !Config.reduction m.sys.grade && d.ops.any fun (o : CollOp) => o.op ≤ 2 then
      Mod.endFlight m id .gradeUnsupported 0 0
    else
      let g : Group := { d := d }
      Mod.endFlight (Mod.firstGrants (Mod.setGroup m d.group g) d.group g) id .ok 0 0

/-- `COLLECTIVE_GROUP` (R419). -/
def execCollectiveGroup (id : Nat) (d : CollDesc) (s : State) : Out := .next (s.onMod fun m => Mod.declareGroup m id d)

/-- COLLECTIVE_GROUP with dissolve on the module (R368); a group that is not declared is an invalid number. -/
def Mod.dissolveGroup (m : Mod) (id : Nat) : Mod :=
  match Mod.ready m id 0x0C with
  | none => m
  | some fl =>
    let n := descFld fl.raw 0x10 15 0
    if !bitAt (descFld fl.raw 0x10 31 0) 16 then m
    else if (Mod.group m n).isNone then Mod.endFlight m id .descriptorInvalid 0 0
    else
      let m1 := Mod.dropOps m fun o => match o with | .coll k => k == n | _ => false
      Mod.endFlight { m1 with coll := sset none m1.coll n none } id .ok 0 0

/-- `COLLECTIVE_GROUP_DISSOLVE` (R368). -/
def execCollectiveGroupDissolve (id : Nat) (s : State) : Out := .next (s.onMod fun m => Mod.dissolveGroup m id)

/-! ## Operations -/

/-- The oldest running job of a context. -/
def Mod.runningJob (m : Mod) (k : Nat) : Option Flight :=
  (Mod.jobs m).find? fun f => descCtx f.raw == k && f.started && f.phase != .ending

/-- The device flag of a context is set (R323). -/
def Mod.deviceFlagSet (m : Mod) (k v : Nat) : Bool :=
  match Mod.ctx m k with
  | some c => Ctx.flagClass c v == .device && Mod.flagValue m k 0 v
  | none => false

/-- COLLECTIVE_TRIGGER on the module (R420): the operation whose turn has come starts once its trigger is set; the trigger is
cleared. -/
def Mod.trigger (m : Mod) (n : Nat) : Mod :=
  match Mod.group m n with
  | none => m
  | some g =>
    if g.running || g.failed || g.d.ops.isEmpty || !Mod.deviceFlagSet m g.d.context g.cur.trigger then m
    else
      let job := match Mod.runningJob m g.d.context with | some f => f.id + 1 | none => 0
      let m1 := Mod.setGroup m n (Group.clear { g with running := true, job := job })
      Mod.collRun n collBound (Mod.changeFlag m1 g.d.context 0 g.cur.trigger false)

/-- `COLLECTIVE_TRIGGER` (R420). -/
def execCollectiveTrigger (group : Fin 64) (s : State) : Out := .next (s.onMod fun m => Mod.trigger m group)

/-- COLLECTIVE_OPERATION_DONE on the module (R420): the done flag is set, and the next operation's turn comes. -/
def Mod.operationDone (m : Mod) (n : Nat) : Mod :=
  match Mod.group m n with
  | none => m
  | some g =>
    if !g.opDone then m
    else
      let turn := if g.turn + 1 < g.d.ops.length then g.turn + 1 else 0
      Mod.changeFlag (Mod.setGroup m n (Group.clear { g with running := false, turn := turn, job := 0 }))
        g.d.context 0 g.cur.done true

/-- `COLLECTIVE_OPERATION_DONE` (R420). -/
def execCollectiveOperationDone (group : Fin 64) (s : State) : Out := .next (s.onMod fun m => Mod.operationDone m group)

/-- COLLECTIVE_DATA on the module (R421, R424): data of a stage that the member has reached is taken; other data waits in
staging. -/
def Mod.collData (m : Mod) (p : Packet) : Mod :=
  let n := p.address / 2 ^ 42
  if p.ptype ≠ 0x10 then m
  else
    let m1 := Mod.takeIn m p
    match Mod.group m1 n with
    | none => m1
    | some g =>
      if g.failed then m1
      else Mod.collRun n collBound (Mod.setGroup m1 n { g with staged := g.staged ++ [p] })

/-- `COLLECTIVE_DATA` (R424). -/
def execCollectiveData (pkt : Packet) (s : State) : Out := .next (s.onMod fun m => Mod.collData m pkt)

/-- COLLECTIVE_GRANT on the module (R421): data that waited for it is sent. -/
def Mod.takeGrant (m : Mod) (p : Packet) : Mod :=
  let n := p.address / 2 ^ 42
  if p.ptype ≠ 0x11 then m
  else
    let m1 := Mod.takeIn m p
    match Mod.group m1 n with
    | none => m1
    | some g =>
      let k := (nth 0 p.data 0).toNat * 2 + (nth 0 p.data 1).toNat
      let m2 := Mod.setGroup m1 n { g with grants := smod 0 g.grants k (· + 1), waiting := [] }
      g.waiting.foldl (fun x w => Mod.collSend x n w.1 w.2.1 w.2.2.1 w.2.2.2) m2

/-- `COLLECTIVE_GRANT` (R421). -/
def execCollectiveGrant (pkt : Packet) (s : State) : Out := .next (s.onMod fun m => Mod.takeGrant m pkt)

/-! ## The watchdog -/

/-- The peers that a group's buckets wait for: the member whose data is to come, and the member whose grant is. -/
def Mod.stalledOn (m : Mod) (g : Group) : List Xyz :=
  let here := Mod.memberHere m
  let at_ (r dir : Nat) : Xyz := ringMember g.d here r (nextPlace (ringSizeOf g.d r) (ringPlace g.d here r) dir)
  let data := (List.range (CollOp.buckets g.cur)).flatMap fun b =>
    let st := sget 0 g.stage b - 1
    match (stagesOf g.d g.cur)[st]? with
    | some s => if sget 0 g.stage b = 0 then [] else
        ((List.range 2).filter fun dir => sget 0 g.got (collKey b st dir) < expected g.d g.cur here b s dir).map fun dir =>
          at_ s.2 (1 - dir)
    | none => []
  data ++ g.waiting.map fun w => at_ w.2.1 w.2.2.1

/-- COLLECTIVE_WATCHDOG on the module (R426, R445): no progress for the watchdog's time, with no stalled peer that has
announced itself slow. -/
def Mod.watchdog (m : Mod) (n : Nat) : Mod :=
  match Mod.group m n with
  | none => m
  | some g =>
    if !g.running || g.opDone || (Mod.stalledOn m g).any m.fab.slow.contains then m
    else Mod.collFail m n g .collectiveTimeout

/-- `COLLECTIVE_WATCHDOG` (R426). -/
def execCollectiveWatchdog (group : Fin 64) (s : State) : Out := .next (s.onMod fun m => Mod.watchdog m group)

end Sys2Proof.Machine
end

