-- ==== Sys2Proof/Machine/Descriptors.lean ====
section
/-!
DEFINITION. The small descriptors: COPY, SIGNAL, WAIT, FENCE (R226, R330, R367) and QUERY (R369).
-/
namespace Sys2Proof.Machine

open Sys2Proof

/-! ## COPY -/

/-- Bytes that can be moved before either side passes a 64 KiB page, when it is a device virtual address. -/
def copyStep (left src dst : Nat) (sva dva : Bool) : Nat :=
  let a := if sva then 0x1_0000 - src % 0x1_0000 else left
  let b := if dva then 0x1_0000 - dst % 0x1_0000 else left
  min left (min a b)

/-- What a copy came to: all bytes, or a fault with the bytes done. -/
structure Copied where
  mod : Mod
  done : Nat
  poison : Bool
  fault : Option AccFault

/-- Copy `left` bytes from `src` to `dst`, piece by piece (R367). -/
def Mod.copyBytes (m : Mod) (ctx : Nat) (sva dva : Bool) : Nat → Nat → Nat → Nat → Nat → Bool → Copied
  | 0, _, _, done, _, po => ⟨m, done, po, none⟩
  | fuel + 1, src, dst, done, left, po =>
    if left = 0 then ⟨m, done, po, none⟩
    else
      let k := copyStep left src dst sva dva
      match Mod.blobRead m ctx sva src k with
      | .inl f => ⟨m, done, po, some f⟩
      | .inr (bs, p) =>
        match Mod.blobWrite m ctx dva dst bs p with
        | (m1, some (f, j)) => ⟨m1, done + j, po || p, some f⟩
        | (m1, none) => Mod.copyBytes m1 ctx sva dva fuel (src + k) (dst + k) (done + k) (left - k) (po || p)

/-- COPY on the module: it goes on from the bytes done where an earlier run of it parked (R229). -/
def Mod.copy (m : Mod) (id : Nat) : Mod :=
  match Mod.ready m id 0x04 with
  | none => m
  | some fl =>
    let n := descFld fl.raw 0x18 47 0
    let fl := if fl.started then fl else { fl with progress := 0 }
    let src := descFld fl.raw 0x08 63 0 + fl.progress
    let dst := descFld fl.raw 0x10 63 0 + fl.progress
    let r := Mod.copyBytes (Mod.startFlight m id) (descCtx fl.raw) (descFld fl.raw 0x1E 0 0 == 1)
      (descFld fl.raw 0x1E 1 1 == 1) (2 * (n / 0x1_0000) + 4) src dst fl.progress (n - fl.progress) fl.poisoned
    match r.fault with
    | some f =>
      Mod.parkFlight (Mod.modFlight r.mod id fun x => { x with poisoned := r.poison }) fl f .bookkeeping r.done
    | none => Mod.endFlight r.mod id (if r.poison then .poisonedData else .ok) r.done 0

/-- `COPY` (R367). -/
def execCopy (id : Nat) (s : State) : Out := .next (s.onMod fun m => Mod.copy m id)

/-! ## SIGNAL and WAIT -/

/-- SIGNAL on the module (R330). -/
def Mod.signal (m : Mod) (id : Nat) : Mod :=
  match Mod.ready m id 0x05 with
  | none => m
  | some fl =>
    let m1 := Mod.changeFlag m (descCtx fl.raw) 0 (descFld fl.raw 8 11 0) (descFld fl.raw 8 12 12 == 1)
    Mod.endFlight m1 id .ok 0 0

/-- `SIGNAL` (R330). -/
def execSignal (id : Nat) (s : State) : Out := .next (s.onMod fun m => Mod.signal m id)

/-- WAIT on the module (R330): a flag that has the value already satisfies it at once (R327). -/
def Mod.wait (m : Mod) (id : Nat) : Mod :=
  match Mod.ready m id 0x06 with
  | none => m
  | some fl =>
    if fl.started then m
    else if Mod.flagValue m (descCtx fl.raw) 0 (descFld fl.raw 8 11 0) == (descFld fl.raw 8 12 12 == 1) then
      Mod.endFlight m id .ok 0 0
    else Mod.startFlight m id

/-- `WAIT` (R330). -/
def execWait (id : Nat) (s : State) : Out := .next (s.onMod fun m => Mod.wait m id)

/-- WAIT_SATISFIED on the module: a value that matched has been held since the WAIT was registered (R327). -/
def Mod.waitSatisfied (m : Mod) (id : Nat) : Mod :=
  match Mod.flight m id with
  | none => m
  | some fl =>
    if descKind fl.raw == 0x06 && fl.started && fl.endStatus == some .ok then Mod.endFlight m id .ok 0 0 else m

/-- `WAIT_SATISFIED` (R330). -/
def execWaitSatisfied (id : Nat) (s : State) : Out := .next (s.onCrown fun m => Mod.waitSatisfied m id)

/-! ## FENCE -/

/-- A FENCE with or without the invalidate option. -/
def fenceInv (fl : Flight) : Bool := descFld fl.raw 8 0 0 == 1

/-- A write to another module of a job that has completed is not yet acknowledged (R342, R412). -/
def Mod.lateWrites (m : Mod) : Bool :=
  m.fab.reqs.any fun r => r.ptype == 0x01 && decide (r.job < 2 ^ 64) && (Mod.flight m r.job).isNone

/-- A FENCE without invalidate (R340, R367): every write of this model is visible when its step ends, but for those to
other modules, which it waits for. -/
def Mod.fenceDesc (m : Mod) (id : Nat) : Mod :=
  match Mod.ready m id 0x07 with
  | none => m
  | some fl => if fenceInv fl || Mod.lateWrites m then m else Mod.endFlight m id .ok 0 0

/-- `FENCE_DESCRIPTOR` (R367). -/
def execFenceDescriptor (id : Nat) (s : State) : Out := .next (s.onMod fun m => Mod.fenceDesc m id)

/-- A TLB entry that an invalidation drops (R226). -/
def invHits (model : Bool) (ctx : Nat) (whole : Bool) (start n : Nat) (e : TlbEntry) : Bool :=
  let size := if e.large then 0x20_0000 else 0x1_0000
  e.model == model && (model || e.ctx == ctx)
    && (whole || (decide (e.page * size < start + n) && decide (start < (e.page + 1) * size)))

/-- Drop the TLB entries of an invalidation everywhere. -/
def Mod.invalidate (m : Mod) (p : TlbEntry → Bool) : Mod :=
  { m with mem := { m.mem with
      tlbs := (m.mem.tlbs.map fun (q : Nat × List TlbEntry) => (q.1, q.2.filter fun e => !p e)).filter
        fun (q : Nat × List TlbEntry) => !q.2.isEmpty } }

/-- FENCE_INVALIDATE on the module (R226). -/
def Mod.fenceInvalidate (m : Mod) (id : Nat) : Mod :=
  match Mod.ready m id 0x07 with
  | none => m
  | some fl =>
    if fenceInv fl then
      Mod.endFlight (Mod.invalidate m (invHits (descFld fl.raw 8 1 1 == 1) (descCtx fl.raw) (descFld fl.raw 8 2 2 == 1)
        (descFld fl.raw 0x10 47 0) (descFld fl.raw 0x18 47 0))) id .ok 0 0
    else m

/-- `FENCE_INVALIDATE` (R226). -/
def execFenceInvalidate (id : Nat) (s : State) : Out := .next (s.onMod fun m => Mod.fenceInvalidate m id)

/-! ## QUERY -/

/-- A bit per index below `n` that passes a test. -/
def bitMap (n : Nat) (p : Nat → Bool) : Nat :=
  ((List.range n).map fun i => if p i then 2 ^ i else 0).foldl (· + ·) 0

/-- State of a site as QUERY item 1 and GDS_SITE_n report it (R369). -/
def Mod.siteState (m : Mod) (n : Nat) : Nat :=
  if Config.sites m.sys.grade ≤ n then 5 else (Mod.site m n).state

/-- State of a flash port (R369, FLP_PORT_n): absent where the grade has no such port. -/
def Mod.driveState (m : Mod) (n : Nat) : Nat :=
  if Config.flashPorts m.sys.grade ≤ n then 0 else (sget ({} : Drive) m.flash.drives n).state

/-- A fabric port's state value for active (R403). -/
def portActive : Nat := 6

/-- The resident model's hash, zero without one. -/
def Mod.modelHash (m : Mod) : BitVec 384 := match m.model with | some md => md.image.hash | none => 0

/-- QUERY item 0 (R369). -/
def Mod.queryDevice (m : Mod) (patch : Word) : List Byte :=
  leBytes 4 (Config.gradeBit m.sys.grade) ++ leBytes 4 Config.romVersion.toNat ++ leBytes 4 patch.toNat
    ++ leBytes 2 (Config.clusters m.sys.grade)
    ++ leBytes 2 (bitMap (Config.ports m.sys.grade) fun p => (sget ({} : Port) m.fab.ports p).state == portActive)
    ++ leBytes 1 (bitMap 4 fun n => Mod.driveState m n == 1) ++ leBytes 1 0
    ++ leBytes 2 (bitMap 16 fun n => decide (Mod.siteState m n < 4)) ++ leBytes 4 0
    ++ leBytes 8 (if m.model.isSome then Mod.saveBytes m else 0) ++ leBytes 48 (Mod.modelHash m).toNat

/-- QUERY item 1 (R369). -/
def Mod.querySites (m : Mod) : List Byte :=
  (List.range 16).flatMap fun n =>
    leBytes 1 (Mod.siteState m n) ++ leBytes 1 (Mod.site m n).rate ++ leBytes 1 (Mod.site m n).temp ++ leBytes 5 0
      ++ leBytes 8 (if Mod.siteState m n = 5 then 0 else usableBytes n)

/-- QUERY item 2 (R369): a drive that is coming up reads as absent. -/
def Mod.queryDrives (m : Mod) : List Byte :=
  (List.range 4).flatMap fun n =>
    leBytes 1 (if Mod.driveState m n = 3 then 0 else Mod.driveState m n) ++ leBytes 7 0
      ++ leBytes 8 (sget ({} : Drive) m.flash.drives n).lbas

/-- The state of a context (R381). -/
def Mod.ctxState (m : Mod) (k : Nat) : Nat :=
  match Mod.ctx m k with
  | none => 0
  | some c =>
    if !c.saves.isEmpty then 2
    else if m.host.flights.any fun f => descCtx f.raw == k && f.held then 3
    else 1

/-- QUERY item 3 (R369). -/
def Mod.queryContexts (m : Mod) : List Byte :=
  (List.range 16).flatMap fun k =>
    let c := Mod.ctx m k
    leBytes 1 (Mod.ctxState m k) ++ leBytes 1 (b2n (match c with | some x => x.lc | none => false))
      ++ leBytes 1 (b2n (match c with | some x => x.exclusive | none => false)) ++ leBytes 1 0
      ++ leBytes 4 (m.host.flights.filter fun f => descCtx f.raw == k && f.runsJob).length ++ leBytes 8 0

/-- The value of a phase in QUERY item 4 (R369). -/
def Phase.code : Phase → Nat
  | .fetched => 1 | .waiting => 2 | .running => 3 | .parked => 4 | .ending => 3

/-- QUERY item 4 (R369). -/
def Mod.queryJob (m : Mod) (ring tag : Nat) : List Byte :=
  match m.host.flights.find? fun f => f.ring == ring && descTag f.raw == tag with
  | some f => leBytes 1 f.phase.code ++ leBytes 7 0 ++ leBytes 8 (Flight.progressField f)
  | none => leBytes 16 0

/-- QUERY of an item: write the result, truncated to the buffer, and complete with the bytes the item needs. -/
def Mod.query (m : Mod) (id item : Nat) (bytes : List Byte) : Mod :=
  match Mod.ready m id 0x0E with
  | none => m
  | some fl =>
    if descFld fl.raw 8 7 0 ≠ item then m
    else
      let m1 := Mod.hostWrite m (descFld fl.raw 0x10 63 0) (bytes.take (descFld fl.raw 0x18 31 0)) false
      Mod.endFlight m1 id .ok bytes.length 0

/-- Firmware patch level: of the slot that booted. -/
def State.patchLevel (s : State) : Word :=
  Config.patchLevel (if s.mgt.booted = 0 then s.mgt.slotA.hash else if s.mgt.booted = 1 then s.mgt.slotB.hash else 0)

/-- `QUERY_DEVICE` (R369). -/
def execQueryDevice (id : Nat) (s : State) : Out :=
  .next (s.onMod fun m => Mod.query m id 0 (Mod.queryDevice m s.patchLevel))

/-- `QUERY_SITES` (R369). -/
def execQuerySites (id : Nat) (s : State) : Out := .next (s.onMod fun m => Mod.query m id 1 (Mod.querySites m))

/-- `QUERY_DRIVES` (R369). -/
def execQueryDrives (id : Nat) (s : State) : Out := .next (s.onMod fun m => Mod.query m id 2 (Mod.queryDrives m))

/-- `QUERY_CONTEXTS` (R369). -/
def execQueryContexts (id : Nat) (s : State) : Out := .next (s.onMod fun m => Mod.query m id 3 (Mod.queryContexts m))

/-- QUERY item 4 with the ring and tag of the descriptor itself. -/
def Mod.queryJobOf (m : Mod) (id : Nat) : List Byte :=
  match Mod.flight m id with
  | some fl => Mod.queryJob m (descFld fl.raw 8 15 8) (descFld fl.raw 0x0C 31 0)
  | none => []

/-- `QUERY_JOB` (R369). -/
def execQueryJob (id : Nat) (s : State) : Out := .next (s.onMod fun m => Mod.query m id 4 (Mod.queryJobOf m id))

end Sys2Proof.Machine
end

