-- ==== Sys2Proof/Machine/EngineCmds.lean ====
section
/-!
DEFINITION. The instructions that are commands of one engine: queue (R297), array (R298, R299), gate (R300, R301), vector
(R302, R303), convolution (R304 to R306) and DMA (R307, R308), the rows that resume them (R29, R31), and the null
engine (R50).
-/
namespace Sys2Proof.Machine

open Sys2Proof

/-! ## Queues -/

/-- `QTOK` (R297): issued to the engine that pushes the end. -/
def execQtok (c : CoreId) (p : PvisWords) (s : State) : Out :=
  engineCmd "QTOK" 0x10 ((pusherOf (PvisWords.f p 3 0)).getD 0) c p s

/-- `QSKIP` (R297): issued to the popper of the end. -/
def execQskip (c : CoreId) (p : PvisWords) (s : State) : Out :=
  engineCmd "QSKIP" 0x11 ((popperOf (PvisWords.f p 3 0)).getD 0) c p s

/-- The level compares true with a QWAIT's value. -/
def levelHolds (cmp level value : Nat) : Bool := if cmp = 0 then value ≤ level else level ≤ value

/-- QWAIT on a core that has fetched it. -/
def Mod.qwait (c : Nat) (p : PvisWords) (m : Mod) : Mod :=
  let e := PvisWords.f p 3 0
  let cmp := PvisWords.f p 7 4
  let v := PvisWords.f p 12 8
  if levelHolds cmp ((Mod.core m c).level e) v then m else Mod.modCore m c fun x => { x with wait := .level e cmp v }

/-- `QWAIT` (R297). -/
def execQwait (c : CoreId) (p : PvisWords) (s : State) : Out := coreCmd "QWAIT" 0x12 c p s id (Mod.qwait c p)

/-- QWAIT_SATISFIED on the module. -/
def Mod.qwaitDone (m : Mod) (c : Nat) : Mod :=
  match (Mod.core m c).wait with
  | .level e cmp v =>
    if levelHolds cmp ((Mod.core m c).level e) v then Mod.modCore m c fun x => { x with wait := .none } else m
  | _ => m

/-- `QWAIT_SATISFIED` (R297). -/
def execQwaitSatisfied (c : CoreId) (s : State) : Out := .next (s.onMod fun m => Mod.qwaitDone m c)

/-- `QUEUE_PUSH_RESUME` (R29): a command that waits to push into the end goes on. -/
def execQueuePushResume (c : CoreId) (e : Fin 12) (s : State) : Out :=
  .next (s.onMod fun m => Mod.pumpThat m c (pushesInto e))

/-- `QUEUE_POP_RESUME` (R29): a command that waits to pop the end goes on. -/
def execQueuePopResume (c : CoreId) (e : Fin 12) (s : State) : Out :=
  .next (s.onMod fun m => Mod.pumpThat m c (popsFrom e))

/-- `TOKEN_ARRIVAL` (R31): the command that waits for a token on the end starts, or ends its context. -/
def execTokenArrival (c : CoreId) (e : Fin 12) (s : State) : Out :=
  .next (s.onMod fun m => Mod.pumpThat m c (awaitsOn e))

/-! ## Array -/

/-- `MMA` (R298). -/
def execMma (c : CoreId) (p : PvisWords) (s : State) : Out := engineCmd "MMA" 0x20 0 c p s

/-- `COMBINE` (R299). -/
def execCombine (c : CoreId) (p : PvisWords) (s : State) : Out := engineCmd "COMBINE" 0x21 0 c p s

/-- `DRAIN` (R299). -/
def execDrain (c : CoreId) (p : PvisWords) (s : State) : Out := engineCmd "DRAIN" 0x22 0 c p s

/-! ## Gate pipeline -/

/-- `GATE` (R300). -/
def execGate (c : CoreId) (p : PvisWords) (s : State) : Out := engineCmd "GATE" 0x30 1 c p s

/-- `GLSTM` (R105). -/
def execGlstm (c : CoreId) (p : PvisWords) (s : State) : Out := engineCmd "GLSTM" 0x31 1 c p s

/-- `GGRU` (R106). -/
def execGgru (c : CoreId) (p : PvisWords) (s : State) : Out := engineCmd "GGRU" 0x32 1 c p s

/-- `GCACC` (R108). -/
def execGcacc (c : CoreId) (p : PvisWords) (s : State) : Out := engineCmd "GCACC" 0x33 1 c p s

/-! ## Vector engine -/

/-- `VADD` (R302). -/
def execVadd (c : CoreId) (p : PvisWords) (s : State) : Out := engineCmd "VADD" 0x40 2 c p s

/-- `VMUL` (R302). -/
def execVmul (c : CoreId) (p : PvisWords) (s : State) : Out := engineCmd "VMUL" 0x41 2 c p s

/-- `VFMA` (R302). -/
def execVfma (c : CoreId) (p : PvisWords) (s : State) : Out := engineCmd "VFMA" 0x42 2 c p s

/-- `VCMP` (R302). -/
def execVcmp (c : CoreId) (p : PvisWords) (s : State) : Out := engineCmd "VCMP" 0x43 2 c p s

/-- `VSEL` (R302). -/
def execVsel (c : CoreId) (p : PvisWords) (s : State) : Out := engineCmd "VSEL" 0x44 2 c p s

/-- `VMIN` (R302). -/
def execVmin (c : CoreId) (p : PvisWords) (s : State) : Out := engineCmd "VMIN" 0x45 2 c p s

/-- `VMAX` (R302). -/
def execVmax (c : CoreId) (p : PvisWords) (s : State) : Out := engineCmd "VMAX" 0x46 2 c p s

/-- `VLD` (R303). -/
def execVld (c : CoreId) (p : PvisWords) (s : State) : Out := engineCmd "VLD" 0x48 3 c p s

/-- `VST` (R303). -/
def execVst (c : CoreId) (p : PvisWords) (s : State) : Out := engineCmd "VST" 0x49 3 c p s

/-- `VBC` (R303). -/
def execVbc (c : CoreId) (p : PvisWords) (s : State) : Out := engineCmd "VBC" 0x4A 2 c p s

/-! ## Convolution -/

/-- `LBDECL` (R304). -/
def execLbdecl (c : CoreId) (p : PvisWords) (s : State) : Out := coreCmd "LBDECL" 0x50 c p s (Mod.zeroOut c) (Mod.lbdecl c p)

/-- `CONV` (R305): DMA, window, array, gate and vector engines. -/
def execConv (c : CoreId) (p : PvisWords) (s : State) : Out := macroCmd "CONV" 0x51 0x3F c p s (Mod.conv c p)

/-- `HSEND` (R306). -/
def execHsend (c : CoreId) (p : PvisWords) (s : State) : Out := macroCmd "HSEND" 0x53 0x20 c p s fun _ => Mod.haloRun c p

/-- `HRECV` (R306). -/
def execHrecv (c : CoreId) (p : PvisWords) (s : State) : Out := macroCmd "HRECV" 0x54 0x20 c p s fun _ => Mod.haloRun c p

/-! ## DMA -/

/-- `DMARD` (R307). -/
def execDmard (c : CoreId) (p : PvisWords) (s : State) : Out := engineCmd "DMARD" 0x60 5 c p s

/-- `DMAWR` (R307). -/
def execDmawr (c : CoreId) (p : PvisWords) (s : State) : Out := engineCmd "DMAWR" 0x61 5 c p s

/-! ## The null engine -/

/-- A role of a context's image has a raw section (R276): expert raw mode. -/
def Mod.rawRole (m : Mod) (c : Nat) : Bool :=
  let x := Mod.core m c
  match Mod.ctx m (x.ctx.getD 0xFF) with
  | some k => k.image.sections.any fun (t : Section) => t.type == 10 && t.role == x.role % 65536
  | none => false

/-- Push the null engine's poisoned token into one end (R50): at once, or behind a full queue by the engine that pushes
the end, so that the null engine never stalls. -/
def Mod.nullPush (c k : Nat) (m : Mod) (e : Nat) : Mod :=
  let q := tokenEntry k true 0
  match Mod.pushEnd m c e q with
  | some m1 => m1
  | none =>
    match pusherOf e with
    | some g => Mod.modCore m c fun y =>
        y.setCmds g (y.cmds g ++ [{ op := 0x10, started := true, finished := true, seq := y.issued, out := [(e, q)] }])
    | none => m

/-- NULL_ENGINE_COMMAND on the module: only a grade that lacks an engine has one that is fused off. -/
def Mod.nullEngine (m : Mod) (c : Nat) (ends : List (Fin 12)) (tok : Option (BitVec 6)) : Mod :=
  if Mod.canIssue m c && m.sys.grade == .s64 && Mod.rawRole m c then
    let k := match tok with | some t => t.toNat | none => 0
    Mod.markAbsent ((ends.map (·.val)).foldl (Mod.nullPush c k) m) (Mod.core m c).job
  else m

/-- `NULL_ENGINE_COMMAND` (R50). -/
def execNullEngineCommand (c : CoreId) (ends : List (Fin 12)) (tok : Option (BitVec 6)) (s : State) : Out :=
  .next (s.onMod fun m => Mod.nullEngine m c ends tok)

end Sys2Proof.Machine
end

