-- ==== Sys2Proof/Machine/Paths.lean ====
section
/-!
DEFINITION. The steps of work between preemption points (R272, R273): the step count of each command by the chapter
that owns its engine, with extents at their maxima, and the longest path from each point of a role.
-/
namespace Sys2Proof.Machine

open Sys2Proof

/-! ## Step counts -/

/-- Steps of work, and the largest drain of a tile in it, which a chain of tiles pays once (R57). -/
structure Work where
  steps : Nat := 0
  tail : Nat := 0
  deriving DecidableEq, Repr, Inhabited

/-- One work after another. -/
def Work.after (a b : Work) : Work := ⟨a.steps + b.steps, max a.tail b.tail⟩

/-- A bound of both. -/
def Work.either (a b : Work) : Work := ⟨max a.steps b.steps, max a.tail b.tail⟩

/-- The same work n times. -/
def Work.times (n : Nat) (a : Work) : Work := ⟨n * a.steps, a.tail⟩

/-- The bound of a path: its steps and one drain. -/
def Work.bound (a : Work) : Nat := a.steps + a.tail

/-- An extent at its maximum: the immediate, or `top` where a register supplies it (R273, R286). -/
def extentMax (x top : Nat) : Nat := if bitAt x 15 then top else x % 32768 + 1

/-- A val16 value at its maximum. -/
def valueMax (x top : Nat) : Nat := if bitAt x 15 then top else x % 32768

/-- The attention layer an image declares. -/
def attnIn (os : List ObjDecl) (layer : Nat) : Option AttnDecl :=
  os.findSome? fun (o : ObjDecl) => match o.kind with
    | .attention d => if d.layer = layer then some d else none
    | _ => none

/-- The stationary operand at a line is a tensor in mitten layout (R64, R65, R267). -/
def mittenIn (os : List ObjDecl) (weightLines line : Nat) : Bool :=
  let placed := placeLines 0 (os.filter fun (o : ObjDecl) => o.space == 2)
    ++ placeLines weightLines (os.filter fun (o : ObjDecl) => o.space == 3)
  placed.any fun p => decide (p.2 ≤ line ∧ line < p.2 + objLines (spadObjBytes p.1)) && p.1.layout == 2

/-- A dimension of a declared tensor, counted from the last (0), or `d`. -/
def dimIn (os : List ObjDecl) (obj i d : Nat) : Nat :=
  match os.find? fun (o : ObjDecl) => o.number == obj with
  | some o => match o.kind with
    | .tensor ds => let r := ds.reverse; if nth 0 r i = 0 then d else nth 0 r i
    | _ => d
  | none => d

/-- The format of a declared object, or FP32. -/
def formatIn (os : List ObjDecl) (obj : Nat) : Nat :=
  match os.find? fun (o : ObjDecl) => o.number == obj with | some o => o.format | none => 0

/-- Stationary tiles of a depth, by the slower operand (R53, R72). -/
def tilesOf (sf mf k : Nat) : Nat := ceilDiv k (if sf = 0x9 ∧ mf = 0x9 then 16 else 8)

/-- Steps a stationary tile is held (R53). -/
def holdOf (sf : Nat) : Nat := if elemBits sf = 16 then 16 else 8

/-- Array-port reads of a glove tile command on a tensor in mitten layout (R70). -/
def gatherReads (sf mf k : Nat) : Nat :=
  let s := tilesOf sf mf k
  8 * s + (if elemBits mf = 16 then 2 else 1) * s + (if isMx sf then ceilDiv k 32 else 0)

/-- Steps of a tile command (R57, R62, R65, R67, R70) and its drain. -/
def mmaWork (os : List ObjDecl) (weightLines : Nat) (p : PvisWords) : Work :=
  let f := PvisWords.f p
  let sf := f 30 27
  let mf := f 26 23
  let sline := PvisWords.x1 p 63 48
  let onMitten := bitAt sline 15 || mittenIn os weightLines (sline % 32768)
  let depth := extentMax (PvisWords.x2 p 31 16) 65536
  let rows := extentMax (PvisWords.x2 p 63 48) 8
  let held := tilesOf sf mf depth * holdOf sf
  let glove : Work := ⟨if onMitten then max held (gatherReads sf mf depth) else held, 2 * holdOf sf⟩
  let mitten : Work := ⟨rows * (statBytes true sf depth / 64 + ceilDiv (ceilDiv (depth * elemBits mf) 8) 64
    + (if isMx sf then ceilDiv depth 32 else 0) + (if isMx mf then ceilDiv depth 2048 else 0)), 9⟩
  if f 43 42 = 3 then ⟨4 * held, 0⟩
  else if f 43 42 = 1 ∨ f 41 41 = 1 then glove
  else if f 43 42 = 2 then mitten
  else if bitAt sline 15 then glove.either mitten
  else if onMitten then mitten else glove

/-- Steps of a vector command (R93, R96): its entries, or a whole tile where it runs until tile end. -/
def vectorSteps (p : PvisWords) : Nat :=
  let lanes := if PvisWords.f p 43 40 = 0x1 ∨ PvisWords.f p 43 40 = 0x2 then 16 else 8
  if PvisWords.x1 p 63 63 = 1 then 64 / lanes
  else if PvisWords.x1 p 62 62 = 1 then 2 ^ 20 / lanes
  else ceilDiv (PvisWords.x1 p 56 37 + 1) lanes

/-- Steps of a DMA command: 32 bytes a step on the shared port (R20). -/
def dmaSteps (p : PvisWords) : Nat :=
  let n := extentMax (PvisWords.x2 p 47 32) 32768
  let f := PvisWords.f p 26 23
  if PvisWords.f p 35 33 = 1 then skewLines f n
  else extentMax (PvisWords.x2 p 63 48) 32768 * ceilDiv (n * elemBits f) 256

/-- Window reads of one filter row and block, kw taps of one pass (R119); the first column's place in its line pair is
not known. -/
def windowReads (kw dw sw : Nat) : Nat :=
  let span := 7 * sw + (kw - 1) * dw + 1
  if span ≤ 16 then span / 2 + 1 else kw * (if sw = 1 then 5 else 8)

/-- Steps of one filter row and block of valid channels cb (R120). -/
def filterRowSteps (fi ff kw dw sw cb : Nat) : Nat :=
  let t := ceilDiv cb 8
  max (kw * t * holdOf fi) (windowReads kw dw sw + kw * t * (if elemBits ff = 16 then 2 else 1)
    + (if isMx ff then ceilDiv (kw * 8) 64 else 0) + b2n (isMx fi))

/-- Steps of a CONV (R112, R120, R123): its tiles, its gate stage, its fills and its stores. -/
def convWork (os : List ObjDecl) (gated : Bool) (p : PvisWords) : Work :=
  let a := convShape {} p
  let inW := valueMax (PvisWords.x2 p 47 32) (dimIn os a.inObj 1 32767)
  let inH := valueMax (PvisWords.x2 p 63 48) (dimIn os a.inObj 2 32767)
  let cin := extentMax (PvisWords.x2 p 31 16) (dimIn os a.inObj 0 32768)
  let cout := extentMax (PvisWords.x2 p 15 0) (dimIn os a.outObj 0 32768)
  let outW := outSize inW a.plw a.phw a.dw a.kw a.sw
  let tiles := a.rows * ceilDiv outW 8 * ceilDiv cout 8
  let B := blockB a.fi
  let blocks := ceilDiv cin B
  let row (kw : Nat) : Nat := ((List.range blocks).map fun b =>
    filterRowSteps a.fi a.ff kw a.dw a.sw (min B (cin - b * B))).foldl (· + ·) 0
  let rows := a.kh * ((List.range (ceilDiv a.kw 7)).map fun i => row (min 7 (a.kw - 7 * i))).foldl (· + ·) 0
  let fills := min inH ((a.rows - 1) * a.sh + a.dh * (a.kh - 1) + 1) * blocks * inW
  let stores := a.rows * ceilDiv (outW * cout * elemBits (formatIn os a.outObj)) 256
  ⟨tiles * (rows + (if gated then 8 else 0)) + fills + stores, 2 * holdOf a.fi⟩

/-- Steps of one key block of one query tile (R175, R178): scores, the round trip served, values and the row of ones. -/
def attnWork (os : List ObjDecl) (p : PvisWords) : Work :=
  match attnIn os (PvisWords.f p 43 32) with
  | some d =>
    let x := if 2 ≤ d.format then 2 else 1
    ⟨8 * d.hd * x + 130 + d.hd / 8 * 64 * x + 64 * x, 0⟩
  | none => {}

/-- The work of an instruction: its array, vector, gate, window and DMA commands. Waits, the control unit's own
instructions and brim requests count nothing. What no rule counts is the free value `Config.commandSteps`. -/
def workOf (os : List ObjDecl) (weightLines : Nat) (is : List (Nat × PvisWords)) (i : Nat) (p : PvisWords) : Work :=
  let op := PvisWords.op p
  let f := PvisWords.f p
  if op = 0x10 then ⟨1, 0⟩
  else if op = 0x11 then ⟨if f 35 16 = 0 then 8 else f 35 16, 0⟩
  else if op = 0x20 then mmaWork os weightLines p
  else if op = 0x21 then ⟨8 * (f 35 28 + 1), 0⟩
  else if op = 0x22 then ⟨f 23 20 + 1, 0⟩
  else if op = 0x30 then
    (if is.any (fun x => x.1 + 4 == i && PvisWords.op x.2 == 0x51) then {} else ⟨8 * (f 34 24 + 1), 0⟩)
  else if op = 0x31 ∨ op = 0x32 then ⟨32 * (f 34 24 + 1), 0⟩
  else if op = 0x33 then ⟨8 * (f 34 24 + 1), 0⟩
  else if 0x40 ≤ op ∧ op ≤ 0x46 then ⟨vectorSteps p, 0⟩
  else if op = 0x48 ∨ op = 0x49 then ⟨extentMax (PvisWords.x1 p 47 32) 1024, 0⟩
  else if op = 0x4A then ⟨1, 0⟩
  else if op = 0x51 then
    convWork os (is.any fun x => x.1 == i + 4 && PvisWords.op x.2 == 0x30) p
  else if op = 0x60 ∨ op = 0x61 then ⟨dmaSteps p, 0⟩
  else if op = 0x70 then attnWork os p
  else if op = 0x50 ∨ op = 0x53 ∨ op = 0x54 ∨ op = 0x71 ∨ op = 0x77 ∨ op = 0x78 ∨ op = 0x80 ∨ op = 0x81 ∨ op = 0x82 then
    ⟨Config.commandSteps [p.w, p.e1, p.e2, p.e3], 0⟩
  else {}

/-! ## Paths -/

/-- The ways out of a stretch of words and the most work of each: to a point or the role's end (`none`), or to a word
outside the stretch. -/
abbrev Ways := List (Option Nat × Work)

/-- One more way. -/
def Ways.add (x : Option Nat × Work) : Ways → Ways
  | [] => [x]
  | y :: ys => if y.1 = x.1 then (y.1, y.2.either x.2) :: ys else y :: Ways.add x ys

/-- The ways of either list. -/
def Ways.join (a b : Ways) : Ways := b.foldr Ways.add a

/-- The ways after a work. -/
def Ways.after (w : Work) (a : Ways) : Ways := a.map fun x => (x.1, w.after x.2)

/-- A loop whose trip count is bounded: its LOOP word, its trips, and the ways of one round from its target. -/
structure LoopBody where
  word : Nat
  trips : Nat
  round : Ways
  deriving DecidableEq, Repr, Inhabited

/-- What the path bound of a role needs: its instructions, its listed points, and their work. -/
structure PathView where
  instrs : List (Nat × PvisWords)
  listed : List Nat
  work : Nat → PvisWords → Work

/-- A wait on a flag, a hatband line or a queue level (R272). -/
def isWait (p : PvisWords) : Bool :=
  let op := PvisWords.op p
  op == 0x12 || op == 0xA2 || op == 0xA3 || op == 0xA5

/-- A path that goes on to word `k` of a stretch whose later words have the ways `tab`: it ends at a point, and at an
ATTN after one key block (R273). -/
def PathView.enter (v : PathView) (tab : List (Nat × Ways)) (k : Nat) : Ways :=
  match v.instrs.find? (·.1 == k) with
  | none => [(none, {})]
  | some x =>
    if PvisWords.op x.2 = 0x70 then [(none, v.work k x.2)]
    else if isWait x.2 || v.listed.contains k then [(none, {})]
    else match tab.find? (·.1 == k) with
      | some e => e.2
      | none => [(some k, {})]

/-- Trips of the LOOP at word `i` (R296): the value its LI loads, and 2^32 for 0, because LOOP counts down first. -/
def loopTrips (is : List (Nat × PvisWords)) (i : Nat) (p : PvisWords) : Option Nat :=
  if PvisWords.op p = 0x07 && loopBounded is i p then
    match branchTarget i p with
    | none => none
    | some t =>
      ((is.filter fun x => x.1 < t && (regsWritten x.2).contains (PvisWords.f p 36 32)).getLast?).map fun x =>
        if PvisWords.f x.2 31 0 = 0 then 2 ^ 32 else PvisWords.f x.2 31 0
  else none

/-- The ways from a LOOP whose trips are bounded: out after the rounds that are left, or to another end within one. -/
def PathView.rounds (v : PathView) (tab : List (Nat × Ways)) (b : LoopBody) (out : Ways) : Ways :=
  let whole := (b.round.find? (·.1 == some b.word)).map (·.2)
  let left (n : Nat) : Work := match whole with | some w => w.times n | none => {}
  let others := (b.round.filter fun x => x.1 != some b.word).flatMap fun x =>
    Ways.after ((left (b.trips - 2)).after x.2) (match x.1 with | none => [(none, {})] | some k => v.enter tab k)
  Ways.join (Ways.after (left (b.trips - 1)) out) (if b.trips ≤ 1 then [] else others)

/-- The ways from the instruction at word `i`, itself included. -/
def PathView.ways (v : PathView) (loops : List LoopBody) (tab : List (Nat × Ways)) (x : Nat × PvisWords) : Ways :=
  let op := PvisWords.op x.2
  let on := v.enter tab (x.1 + pvisLen x.2)
  let jump : Ways := match branchTarget x.1 x.2 with
    | none => []
    | some t => if t ≤ x.1 then [(none, {})] else v.enter tab t
  if op = 0x0A ∨ op = 0x0B then [(none, {})]
  else if op = 0x06 then (if PvisWords.f x.2 42 40 = 6 then jump else Ways.join on jump)
  else if op = 0x07 then
    match loops.find? (·.word == x.1) with
    | some b => v.rounds tab b on
    | none => Ways.join on jump
  else Ways.after (v.work x.1 x.2) on

/-- The ways from every word of the stretch [lo, hi). -/
def PathView.table (v : PathView) (loops : List LoopBody) (lo hi : Nat) : List (Nat × Ways) :=
  (v.instrs.filter fun x => decide (lo ≤ x.1 ∧ x.1 < hi)).foldr
    (fun x tab => (x.1, v.ways loops tab x) :: tab) []

/-- The bounded loops of the role, inner ones before the loops that hold them. -/
def PathView.loops (v : PathView) : List LoopBody :=
  v.instrs.foldl (fun bs x =>
    match loopTrips v.instrs x.1 x.2, branchTarget x.1 x.2 with
    | some n, some t => bs ++ [{ word := x.1, trips := n, round := v.enter (v.table bs t x.1) t }]
    | _, _ => bs) []

/-- Where paths start (R272): the role's entry, its waits, ATTNs and listed points, and the targets of back-edges whose
trip count is not bounded. -/
def PathView.starts (v : PathView) : List Nat :=
  let backs := v.instrs.filterMap fun x => match branchTarget x.1 x.2 with
    | some t => if t ≤ x.1 ∧ (loopTrips v.instrs x.1 x.2).isNone then some t else none
    | none => none
  (v.instrs.filter fun x => x.1 == 0 || isWait x.2 || PvisWords.op x.2 == 0x70 || v.listed.contains x.1
    || backs.contains x.1).map (·.1)

/-- The bound of the longest path from each start (R273). -/
def PathView.bounds (v : PathView) : List (Nat × Nat) :=
  let tab := v.table v.loops 0 (v.instrs.foldl (fun n x => max n (x.1 + 1)) 0)
  v.starts.map fun s => (s, match tab.find? (·.1 == s) with
    | some e => (e.2.map fun x => x.2.bound).foldl max 0
    | none => 0)

end Sys2Proof.Machine
end

