-- ==== Sys2Proof/Machine/Translate.lean ====
section
/-!
DEFINITION. What the translator checks (R262 to R279, R293, R529): the diagnostics of each phase of R277.
-/
namespace Sys2Proof.Machine

open Sys2Proof

/-- A diagnostic record (R278). -/
structure Diag where
  code : Nat
  status : Status := .imageRejected
  role : Nat := 0
  sect : Nat := 0
  off : Nat := 0
  detail : Nat := 0
  off2 : Nat := 0
  deriving DecidableEq, Repr, Inhabited

/-- The 32 bytes of a diagnostic record. -/
def diagBytes (d : Diag) : List Byte :=
  leBytes 2 d.code ++ leBytes 1 d.status.code ++ leBytes 1 0 ++ leBytes 2 d.role ++ leBytes 1 d.sect ++ leBytes 1 0
    ++ leBytes 8 d.off ++ leBytes 8 d.detail ++ leBytes 8 d.off2

/-- A diagnostic when a condition holds. -/
def diagIf (c : Bool) (d : Diag) : List Diag := if c then [d] else []

/-! ## Phase 2: header and section table -/

/-- Sections of a type. -/
def sectsOf (img : Image) (t : Nat) : List Section := img.sections.filter (·.type == t)

/-- Every section starts on a 64-byte boundary after the table, lies within image_bytes and overlaps no other. -/
def sectionsPlaced (img : Image) : Bool :=
  img.sections.all (fun s => s.offset % 64 == 0 && decide (128 + 16 * img.sections.length ≤ s.offset)
      && decide (s.offset + s.size ≤ img.imageBytes))
    && img.sections.Pairwise fun a b => a.offset + a.size ≤ b.offset ∨ b.offset + b.size ≤ a.offset

/-- R529: sections missing, repeated or not allowed in the kind of image, and the place of the signature. -/
def sectionsAllowed (img : Image) : Bool :=
  ((List.range 9).all fun t => decide ((sectsOf img (t + 1)).length ≤ 1))
    && ((sectsOf img 10).map (·.role)).Nodup
    && [1, 2, 3, 4, 6].all (fun t => !(sectsOf img t).isEmpty)
    && (if img.model then !(sectsOf img 5).isEmpty && !(sectsOf img 8).isEmpty
        else (sectsOf img 5).isEmpty && (sectsOf img 8).isEmpty)
    && (sectsOf img 9).isEmpty != img.signed
    && (match img.sections.findIdx? (·.type == 9) with | some i => i + 1 == img.sections.length | none => true)
    && !img.sections.any (·.type == 0)

/-- The header is in its format (R262); `bytes` is the length the descriptor gives. -/
def headerOk (img : Image) (bytes : Nat) : Bool :=
  img.magic == 0x4D49_5050 && img.imageBytes == bytes
    && decide (1 ≤ img.sections.length) && decide (img.sections.length ≤ 64)
    && decide (1 ≤ img.roles.length) && decide (img.roles.length ≤ 4096) && img.reservedClear
    && (if img.model then img.modelHash == 0 && img.weightLines % 32 == 0 else img.weightLines == 0)

/-- Versions are supported (R528, R529). -/
def versionOk (img : Image) : Bool :=
  img.imageMajor == 1 && img.pvisVersion == 0x0100
    && !img.sections.any fun s => s.required && decide (11 ≤ s.type) && s.type != 128

/-- Phase 2. -/
def headerDiags (img : Image) (bytes : Nat) : List Diag :=
  diagIf (!(headerOk img bytes && sectionsPlaced img && sectionsAllowed img)) { code := 0x0001 }
    ++ diagIf (!versionOk img) { code := 0x0002 }

/-! ## Phases 3 to 5 -/

/-- What the SEC block holds for the translator: policy, enrolled key hashes by slot, revoked slots. -/
structure SecView where
  policy : Word
  keys : SMap (BitVec 384)
  revoked : Nat

/-- A key slot is enrolled and not revoked. -/
def SecView.slotOk (v : SecView) (n : Nat) : Bool := sget 0 v.keys n != 0 && !bitAt v.revoked n

/-- The signature section is good (R275). -/
def signatureOk (v : SecView) (img : Image) : Bool :=
  match img.signature with
  | some g => g.size == 128 && g.zerosOk && decide (g.slot < 4) && v.slotOk g.slot
      && Config.ecdsaVerifies img.hash (sget 0 v.keys g.slot) g.value
  | none => false

/-- Phase 3: the signature (R275) and raw sections (R276). -/
def signatureDiags (v : SecView) (img : Image) : List Diag :=
  diagIf (if img.signed then !signatureOk v img else bitAt v.policy.toNat 0)
      { code := 0x0010, status := .imageSignatureBad, sect := 9 }
    ++ diagIf (!(sectsOf img 10).isEmpty && !(img.signed && bitAt v.policy.toNat 1)) { code := 0x0011, sect := 10 }

/-- Phase 4: the model (R13, R277). `asModel` says which descriptor carries the image. -/
def modelDiags (m : Mod) (img : Image) (asModel anyContext : Bool) : List Diag :=
  let hash := match m.model with | some md => md.image.hash | none => 0
  if img.model != asModel || (!asModel && (m.model.isNone || img.modelHash != hash)) then [{ code := 0x0018 }]
  else diagIf (asModel && anyContext) { code := 0x0019 }

/-- The set bits of a mask from `from_` up, below 16. -/
def highBits (mask from_ : Nat) : List Nat := (List.range 16).filter fun i => decide (from_ ≤ i) && bitAt mask i

/-- A grade diagnostic (R278): what kind of resource, and its number. -/
def gradeDiag (kind n : Nat) : Diag := { code := 0x0020, status := .gradeUnsupported, detail := kind + n * 65536 }

/-- Phase 5: every resource named is present in the grade (R2, R4). -/
def gradeDiags (g : Grade) (img : Image) : List Diag :=
  let top := max img.clusters ((img.placement.map fun (e : PlaceEntry) => e.first + e.count).foldl max 0)
  let sites := img.objects.filterMap fun (o : ObjDecl) =>
    if o.site ≠ 0xFF && Config.sites g ≤ o.site then some o.site else none
  diagIf (Config.clusters g < top) (gradeDiag 1 (top - 1))
    ++ (highBits img.ports (Config.ports g)).map (gradeDiag 2)
    ++ (highBits img.flash (Config.flashPorts g)).map (gradeDiag 3)
    ++ (highBits img.sites (Config.sites g)).map (gradeDiag 4) ++ sites.map (gradeDiag 4)
    ++ diagIf (img.reduction && !Config.reduction g) (gradeDiag 5 0)

/-! ## Phase 7: instructions -/

/-- The context the checks of a role need: the image and the model image that backs it. -/
structure TransView where
  img : Image
  /-- objects the image may use: its own and the model's -/
  objects : List ObjDecl
  weightLines : Nat

/-- An object is declared. -/
def TransView.has (v : TransView) (n : Nat) : Bool := v.objects.any fun (o : ObjDecl) => o.number == n

/-- An object of a kind is declared. -/
def TransView.hasKind (v : TransView) (n : Nat) (p : ObjKind → Bool) : Bool :=
  v.objects.any fun (o : ObjDecl) => o.number == n && p o.kind

/-- A flag is declared (R322). -/
def TransView.hasFlag (v : TransView) (n : Nat) : Bool := v.img.flags.any fun (d : FlagDecl) => d.number == n

/-- A channel is declared. -/
def TransView.hasChan (v : TransView) (n : Nat) : Bool := v.img.channels.any fun (d : ChanDecl) => d.number == n

/-- The attention layer an instruction names. -/
def TransView.attn (v : TransView) (layer : Nat) : Option AttnDecl :=
  v.objects.findSome? fun (o : ObjDecl) => match o.kind with
    | .attention d => if d.layer = layer then some d else none
    | _ => none

/-- Objects an instruction names (R305 to R315, R320). -/
def objectsUsed (p : PvisWords) : List Nat :=
  let op := PvisWords.op p
  let x1 := PvisWords.x1 p
  let x2 := PvisWords.x2 p
  if op = 0x51 then [x1 15 0, PvisWords.x3 p 63 48, PvisWords.x3 p 47 32]
  else if op = 0x53 ∨ op = 0x54 then [x1 63 48]
  else if op = 0x60 then (if PvisWords.f p 43 42 = 0 then [x1 63 48] else [])
  else if op = 0x61 then (if PvisWords.f p 41 40 = 0 then [x1 63 48] else [])
  else if op = 0x70 then [x1 63 48, x1 15 0, x2 63 48]
  else if op = 0x71 then [x1 63 48, x2 63 48, x2 47 32]
  else if op = 0x72 ∨ op = 0x77 then [x1 63 48]
  else if op = 0x78 then [x1 63 48, x2 63 48] ++ (if PvisWords.f p 43 43 = 1 then [x2 42 27] else [])
  else if 0x80 ≤ op ∧ op ≤ 0x82 then [x1 63 48, x2 47 32]
  else if op = 0x84 then [x1 63 48]
  else if op = 0x90 ∨ op = 0x91 then [x1 63 48]
  else if op = 0x92 then [x1 63 48, x2 63 48]
  else if op = 0xC1 then [PvisWords.f p 31 16]
  else []

/-- Channels an instruction names (R307, R315). -/
def channelsUsed (p : PvisWords) : List Nat :=
  if PvisWords.op p = 0x61 ∧ PvisWords.f p 41 40 ≠ 0 then [PvisWords.x1 p 63 48]
  else if PvisWords.op p = 0x90 then [PvisWords.x1 p 15 0]
  else []

/-- Flags an instruction names (R307, R316). -/
def flagsUsed (p : PvisWords) : List Nat :=
  let op := PvisWords.op p
  if 0xA0 ≤ op ∧ op ≤ 0xA3 then [PvisWords.f p 11 0]
  else if (op = 0x60 ∨ op = 0x61) ∧ PvisWords.f p 20 19 ≠ 0 then [PvisWords.f p 18 7]
  else []

/-- A flag is waited on by cores and is a host flag (R324). -/
def TransView.hostWaited (v : TransView) (p : PvisWords) : Bool :=
  let op := PvisWords.op p
  (op == 0xA2 || op == 0xA3) && v.img.flags.any fun (d : FlagDecl) =>
    d.number == PvisWords.f p 11 0 && !d.hostSets && (d.hostWaits || d.cls == 2)

/-- Key heads of an ATTN or KVAPP lie in the layer's declared range (R293); a layer that is not declared is an object
diagnostic. -/
def TransView.headsOk (v : TransView) (p : PvisWords) : Bool :=
  let op := PvisWords.op p
  let f := PvisWords.f p
  if op = 0x70 ∨ op = 0x71 then
    let first := if op = 0x70 then f 31 24 else f 23 16
    let n := if op = 0x70 then f 23 16 else f 15 8
    match v.attn (f 43 32) with
    | some d => decide (1 ≤ n) && decide (first + n ≤ d.keyHeads)
    | none => true
  else true

/-- The layer an instruction names is declared. -/
def TransView.layerOk (v : TransView) (p : PvisWords) : Bool :=
  let op := PvisWords.op p
  if op = 0x70 ∨ op = 0x71 then (v.attn (PvisWords.f p 43 32)).isSome
  else if op = 0x72 then (v.attn (PvisWords.f p 31 20)).isSome
  else if 0x80 ≤ op ∧ op ≤ 0x82 then
    v.hasKind (PvisWords.x1 p 63 48) fun k => match k with | .stream _ => true | _ => false
  else if op = 0x53 ∨ op = 0x54 then
    v.hasKind (PvisWords.x1 p 63 48) fun k => match k with | .halo .. => true | _ => false
  else true

/-- The operand formats may pair (R72, R113). -/
def formatsPair (p : PvisWords) : Bool :=
  let op := PvisWords.op p
  let f := PvisWords.f p
  if op = 0x20 then pairOk (f 30 27) (f 26 23)
  else if op = 0x51 then f 13 10 != 0x9 && f 13 10 != 0xC && pairOk (f 9 6) (f 13 10)
  else true

/-- A tile pinned to mitten has no mitten-layout tensor to run on (R65), or takes its moving operand from qc_win
(R63). -/
def TransView.pinBad (v : TransView) (p : PvisWords) : Bool :=
  let f := PvisWords.f p
  PvisWords.op p == 0x20 && f 43 42 == 2
    && (f 41 41 == 1 || !v.objects.any fun (o : ObjDecl) => o.space == 2 && o.layout == 2)

/-- Lines of a slot of a line buffer (R116). -/
def slotLines (pixels blocks : Nat) (scale : Bool) : Nat := blocks * (pixels + b2n scale * ceilDiv pixels 32)

/-- A line-buffer declaration that passes the working region (R116). -/
def TransView.lineBufBad (v : TransView) (p : PvisWords) : Bool :=
  let f := PvisWords.f p
  PvisWords.op p == 0x50
    && (decide (f 41 32 < v.weightLines)
      || decide (1024 < f 41 32 + f 31 25 * slotLines (f 24 16 + 1) (f 14 9 + 1) (f 8 8 == 1)))

/-- Byte offset of word `i` of role `r` in the image: the roles section holds a 16-byte record per role and then the
roles' words. -/
def wordOffset (img : Image) (r i : Nat) : Nat :=
  let base := match (sectsOf img 1).head? with | some s => s.offset | none => 0
  let before := (img.roles.takeWhile fun (c : RoleCode) => c.role != r).map fun (c : RoleCode) => c.words.length
  base + 16 * img.roles.length + 8 * (before.foldl (· + ·) 0 + i)

/-- The diagnostics of one instruction of a role. -/
def instrDiags (v : TransView) (r : Nat) (starts : List Nat) (x : Nat × PvisWords) : List Diag :=
  let p := x.2
  let d (c : Nat) : Diag := { code := c, role := r, sect := 1, off := wordOffset v.img r x.1 }
  let target := match branchTarget x.1 p with | some t => starts.contains t | none => !isBranch p
  diagIf (!pvisOk p || !target || !v.headsOk p) (d 0x0030)
    ++ diagIf (!formatsPair p) (d 0x0035)
    ++ diagIf (v.pinBad p) (d 0x0036)
    ++ diagIf (PvisWords.op p == 0x51 && (decide (63 < PvisWords.f p 41 36) || decide (63 < PvisWords.f p 35 30))) (d 0x0037)
    ++ diagIf (v.lineBufBad p) (d 0x0038)
    ++ diagIf ((objectsUsed p).any (fun n => !v.has n) || (channelsUsed p).any (fun n => !v.hasChan n)
        || (flagsUsed p).any (fun n => !v.hasFlag n) || v.hostWaited p || !v.layerOk p) (d 0x003B)

/-- The diagnostics of one role: its instructions, the word the scan stopped at, and its size (R266). -/
def roleDiags (v : TransView) (c : RoleCode) : List Diag :=
  let s := scanWords c.words c.words.length 0
  let starts := s.1.map (·.1)
  (s.1.flatMap (instrDiags v c.role starts))
    ++ (match s.2 with
        | some i => [{ code := 0x0030, role := c.role, sect := 1, off := wordOffset v.img c.role i }]
        | none => [])
    ++ diagIf (4096 < Config.nativeWords c.words) { code := 0x003A, role := c.role, sect := 1 }

/-- A role replaced by raw native code (R276). -/
def isRaw (img : Image) (r : Nat) : Bool := (sectsOf img 10).any (·.role == r)

/-- Phase 7. -/
def translateDiags (v : TransView) : List Diag :=
  (v.img.roles.filter fun (c : RoleCode) => !isRaw v.img c.role).flatMap (roleDiags v)

/-! ## Phase 8: whole-image checks -/

/-- A channel that stays on the ring of a cluster: its producer's qx_out feeds the consumer's qx_in. -/
def chanEdges (img : Image) : List (Nat × Nat) :=
  img.channels.filterMap fun (d : ChanDecl) =>
    if d.remote.isSome then none
    else some ((d.producerRole * 16 + d.producerCore) * 16 + (if d.consumerEnd = 10 then 11 else 15),
               (d.consumerRole * 16 + d.consumerCore) * 16 + d.consumerEnd)

/-- The loops of a role: pairs of target and branch word. -/
def loopsOf (is : List (Nat × PvisWords)) : List (Nat × Nat) :=
  is.filterMap fun x => match branchTarget x.1 x.2 with
    | some t => if t ≤ x.1 then some (t, x.1) else none
    | none => none

/-- Edges between queue ends inside one role on one core: from each end an instruction of a loop pops to each end it
pushes. Code 15 stands for the channels it sends into. -/
def roleEdges (c : RoleCode) : List (Nat × Nat) :=
  let is := roleInstrs c.words
  let ls := loopsOf is
  (is.filter fun x => ls.any fun l => decide (l.1 ≤ x.1 ∧ x.1 ≤ l.2)).flatMap fun x =>
    let outs := (outEnds x.2).map fun e => if e = chanEnd then 15 else e
    (inEnds x.2).flatMap fun a => outs.map fun b => (a, b)

/-- The edges of the whole image, node (role × 16 + core) × 16 + end. -/
def imageEdges (img : Image) : List (Nat × Nat) :=
  chanEdges img ++ img.roles.flatMap fun (c : RoleCode) =>
    let es := (roleEdges c).eraseDups
    (List.range 16).flatMap fun k => es.map fun e => ((c.role * 16 + k) * 16 + e.1, (c.role * 16 + k) * 16 + e.2)

/-- Nodes reachable from a set, within `fuel` rounds. -/
def reach (es : List (Nat × Nat)) : Nat → List Nat → List Nat
  | 0, s => s
  | k + 1, s =>
    let n := ((es.filter fun e => s.contains e.1).map (·.2)).filter fun x => !s.contains x
    if n.isEmpty then s else reach es k (s ++ n.eraseDups)

/-- A node on a cycle. -/
def onCycle (es : List (Nat × Nat)) (n : Nat) : Bool :=
  (reach es es.length ((es.filter fun e => e.1 == n).map (·.2))).contains n

/-- A vector command that pushes more entries into qv_out than it holds, for a later arithmetic command (R96). -/
def longVectorChain (is : List (Nat × PvisWords)) : Option (Nat × Nat) :=
  let arith (p : PvisWords) : Bool := decide (0x40 ≤ PvisWords.op p ∧ PvisWords.op p ≤ 0x46)
  is.findSome? fun x =>
    if arith x.2 && (outEnds x.2).contains 6 && PvisWords.x1 x.2 63 62 == 0 && decide (16 ≤ PvisWords.x1 x.2 56 37) then
      ((is.filter fun y => decide (x.1 < y.1)).find? fun y => (inEnds y.2).contains 6 && arith y.2).map fun y => (x.1, y.1)
    else none

/-- The queue_cycle diagnostics (R96, R278). -/
def queueDiags (img : Image) : List Diag :=
  let es := imageEdges img
  (match (es.map (·.1)).find? (onCycle es) with
    | some n => [{ code := 0x0031, role := n / 256, sect := 1 }]
    | none => [])
    ++ img.roles.flatMap fun (c : RoleCode) =>
      match longVectorChain (roleInstrs c.words) with
      | some (a, b) => [{ code := 0x0031, role := c.role, sect := 1, off := wordOffset img c.role a,
                          off2 := wordOffset img c.role b }]
      | none => []

/-- Flags that an instruction sets (`v` true) or clears, by itself or with a halo slot pair. -/
def flagsChanged (vw : TransView) (v : Bool) (p : PvisWords) : List Nat :=
  let op := PvisWords.op p
  let pair (n : Nat) := vw.objects.flatMap fun (o : ObjDecl) =>
    match o.kind with | .halo _ _ _ a b => if o.number = n then [a, b] else [] | _ => []
  if op = (if v then 0xA0 else 0xA1) then [PvisWords.f p 11 0]
  else if (op = 0x60 ∨ op = 0x61) ∧ PvisWords.f p 20 19 = (if v then 1 else 2) then [PvisWords.f p 18 7]
  else if op = (if v then 0x53 else 0x54) then pair (PvisWords.x1 p 63 48)
  else []

/-- The flag_never_set diagnostics (R278). -/
def flagDiags (v : TransView) : List Diag :=
  let all := v.img.roles.flatMap fun (c : RoleCode) => (roleInstrs c.words).map fun x => (c.role, x)
  let sets := all.flatMap fun x => flagsChanged v true x.2.2
  let clears := all.flatMap fun x => flagsChanged v false x.2.2
  let host (n : Nat) := v.img.flags.any fun (d : FlagDecl) => d.number == n && d.hostSets
  all.flatMap fun x =>
    let p := x.2.2
    let n := PvisWords.f p 11 0
    diagIf ((PvisWords.op p == 0xA2 && !host n && !sets.contains n)
        || (PvisWords.op p == 0xA3 && !host n && !clears.contains n))
      { code := 0x0032, role := x.1, sect := 1, off := wordOffset v.img x.1 x.2.1 }

/-- Virtual lines a role is enrolled on (R268). -/
def enrolledLines (img : Image) (r : Nat) : List Nat :=
  ((img.hatbands.filter fun (h : HatDecl) => decide (h.firstRole ≤ r ∧ r ≤ h.lastRole)).map
    fun (h : HatDecl) => h.line).eraseDups

/-- Lines a role arrives on, in the order of its first HBARR on each. -/
def arrivals (c : RoleCode) : List Nat :=
  (((roleInstrs c.words).filter fun x => PvisWords.op x.2 == 0xA4).map fun x => PvisWords.f x.2 3 0).eraseDups

/-- Two lists pass two common members in opposite orders. -/
def opposite (a b : List Nat) : Bool :=
  let common := a.filter b.contains
  let other := b.filter a.contains
  common != other

/-- The hatband_enrolment diagnostics (R278). -/
def hatbandDiags (img : Image) : List Diag :=
  let rs := img.roles.map fun (c : RoleCode) => (c.role, arrivals c)
  (rs.flatMap fun x => diagIf (x.2.any (fun l => !(enrolledLines img x.1).contains l)
      || (enrolledLines img x.1).any fun l => !x.2.contains l) { code := 0x0033, role := x.1, sect := 4 })
    ++ diagIf (rs.any fun x => rs.any fun y => opposite x.2 y.2) { code := 0x0033, sect := 4 }

/-- The preempt_gap diagnostics (R273): a path between points longer than 80,000 steps, with its start and its bound. -/
def gapDiags (v : TransView) : List Diag :=
  (v.img.roles.filter fun (c : RoleCode) => !isRaw v.img c.role).flatMap fun (c : RoleCode) =>
    let is := roleInstrs c.words
    let pv : PathView :=
      { instrs := is
        listed := (v.img.points.filter fun (p : PreemptPoint) => p.role == c.role).map fun (p : PreemptPoint) => p.offset
        work := workOf v.objects v.weightLines is }
    (pv.bounds.filter fun g => decide (80000 < g.2)).map fun g =>
      { code := 0x0034, role := c.role, sect := 1, off := wordOffset v.img c.role g.1, detail := g.2 }

/-- Lines per core that the staging buffers of a layer take (R270): two, for its largest GDDR weight object. -/
def stagingLines (img : Image) (l : LayerOrder) : Nat :=
  let bytes := (img.objects.map fun (o : ObjDecl) =>
    if l.weights.contains o.number && o.space == 0 then o.bytes else 0).foldl max 0
  let cores := 16 * ((img.placement.filter fun (e : PlaceEntry) => e.layerSet == l.layerSet).map
    fun (e : PlaceEntry) => e.count).foldl (· + ·) 0
  if cores = 0 then 0 else 2 * ceilDiv (ceilDiv bytes cores) 32

/-- The region_space diagnostics (R270, R278): the weight region, the working region and the weight lines. -/
def regionDiags (v : TransView) : List Diag :=
  let staging := (v.img.layers.map (stagingLines v.img)).foldl max 0
  let mine := (v.img.objects.map fun (o : ObjDecl) => if o.space = 3 then ceilDiv o.bytes 32 else 0).foldl (· + ·) 0
  diagIf (decide (896 < v.weightLines) || decide (1024 - v.weightLines < staging + mine)
      || v.img.weights.any fun (w : WeightLine) => decide (v.weightLines ≤ w.line)) { code := 0x0039 }

/-- Cluster flags of an image (R332). -/
def clusterFlags (img : Image) : Nat :=
  (img.flags.filter fun (d : FlagDecl) => !d.hostSets && !d.hostWaits && d.cls == 0).length

/-- The object diagnostics of the whole image (R263, R278, R324, R332). -/
def objectDiags (v : TransView) : List Diag :=
  let bad (o : ObjDecl) : Bool :=
    (match o.kind with
      | .stream d => !v.img.model || !activationFmtOk d.inputFormat
      | _ => false)
    || (!v.img.model && (o.space == 0 || o.space == 2))
  (v.img.objects.flatMap fun (o : ObjDecl) => diagIf (bad o) { code := 0x003B, sect := 3, detail := o.number })
    ++ diagIf (v.img.flags.any (fun (d : FlagDecl) => d.hostSets && d.hostWaits) || decide (64 < clusterFlags v.img))
      { code := 0x003B, sect := 4 }
where
  /-- Packed MXFP6 and INT4 and what is no format are not activation formats (R142). -/
  activationFmtOk (f : Nat) : Bool := decide (f ≤ 0xB)

/-- Phase 8. -/
def wholeDiags (v : TransView) : List Diag :=
  (if (sectsOf v.img 10).isEmpty then queueDiags v.img ++ flagDiags v ++ hatbandDiags v.img else [])
    ++ gapDiags v ++ regionDiags v ++ objectDiags v

/-- What a translation came to. -/
inductive Translated where
  | rejected (ds : List Diag)
  | hit
  | ok
  deriving DecidableEq, Repr, Inhabited

/-- The first list that is not empty. -/
def firstDiags : List (List Diag) → List Diag
  | [] => []
  | d :: ds => if d.isEmpty then firstDiags ds else d

/-- A cache entry may be used (R280): its image is unsigned or its key slot is still enrolled. -/
def cacheUsable (v : SecView) (e : TransEntry) : Bool := e.keySlot == 0xFF || v.slotOk e.keySlot

/-- The phases of R277 up to 8: the first phase that finds a fault ends the load with its diagnostics. -/
def Mod.checkImage (m : Mod) (v : SecView) (img : Image) (bytes : Nat) (asModel anyContext : Bool) : Translated :=
  let early := firstDiags [headerDiags img bytes, signatureDiags v img, modelDiags m img asModel anyContext,
    gradeDiags m.sys.grade img]
  if !early.isEmpty then .rejected early
  else if m.trans.any fun e => e.hash == img.hash && cacheUsable v e then .hit
  else
    let base := match m.model with | some md => if img.model then [] else md.image.objects | none => []
    let wl := if img.model then img.weightLines else Mod.weightLines m
    let tv : TransView := { img := img, objects := img.objects ++ base, weightLines := wl }
    let late := firstDiags [translateDiags tv, wholeDiags tv]
    if late.isEmpty then .ok else .rejected late

end Sys2Proof.Machine
end

