-- ==== Sys2Proof/Machine/Loads.lean ====
section
/-!
DEFINITION. LOAD_MODEL and LOAD_PROGRAM (R13, R14, R37, R39, R262 to R281, R362 to R364), bank loads, and the creation
and end of contexts (R44, R235, R323 to R336, R380).
-/
namespace Sys2Proof.Machine

open Sys2Proof

/-- What the translator sees of the SEC block for a load: the policy as it stood at the fetch (SEC_POLICY). -/
def State.secView (s : State) (id : Nat) : SecView :=
  { policy := match Mod.flight s.mod id with | some f => f.policy | none => s.mgt.policy
    keys := s.mgt.imageKeys
    revoked := s.mgt.keyRevoked }

/-- Write the diagnostics of a rejected load to its buffer and end it with the status of the first (R277, R278). -/
def Mod.rejectLoad (m : Mod) (fl : Flight) (ds : List Diag) : Mod :=
  let kept := ds.take (descFld fl.raw 0x30 15 0)
  let m1 := Mod.hostWrite m (descFld fl.raw 0x28 63 0) (kept.flatMap diagBytes) false
  Mod.endFlight m1 fl.id (match ds.head? with | some d => d.status | none => .imageRejected) 0 kept.length

/-! ## The translation cache (R280) -/

/-- Words an entry takes: those of every role. -/
def imageWords (img : Image) : Nat := (img.roles.map fun (c : RoleCode) => Config.nativeWords c.words).foldl (· + ·) 0

/-- The cache holds 512 MiB of native words. -/
def transCap : Nat := 512 * 1024 * 1024 / 8

/-- Drop least recently loaded entries, other than the resident model's, until the rest fits; entries stand in the
order of their last load, the latest first. -/
def trimCache (keep : BitVec 384) : List TransEntry → Nat → List TransEntry
  | [], _ => []
  | e :: es, used =>
    if e.hash = keep || used + e.words ≤ transCap then e :: trimCache keep es (used + e.words)
    else trimCache keep es used

/-- A load of an image makes its entry the most recently loaded one. -/
def Mod.cacheLoad (m : Mod) (img : Image) : Mod :=
  let slot := match img.signature with | some g => if img.signed then g.slot else 0xFF | none => 0xFF
  let e : TransEntry := { hash := img.hash, keySlot := slot, words := imageWords img }
  let keep := match m.model with | some md => md.image.hash | none => 0
  { m with trans := trimCache keep (e :: m.trans.filter fun x => x.hash != img.hash) 0 }

/-! ## Banks (R36 to R39) -/

/-- The bank a load is aimed at: one that is not active, an empty one first and bank 1 before bank 0; when both are
active, the one with fewer fetching cores. -/
def Cluster.loadTarget (c : Cluster) : Nat :=
  if c.bank1.state = 0 then 1 else if c.bank0.state = 0 then 0
  else if c.bank1.state ≠ 3 then 1 else if c.bank0.state ≠ 3 then 0
  else if c.bank0.fetch ≤ c.bank1.fetch then 0 else 1

/-- A bank with a role's words in it, ready (R36). -/
def Bank.loaded (b : Bank) (ctx : Option Nat) (role : Nat) (words : List DWord) : Bank :=
  { b with state := 2, fetch := 0, ctx := ctx, role := role, words := words, waitLoad := none }

/-- A forced load of an active bank (R39): the cluster's cores halt and the contexts running there end. -/
def Mod.forceCluster (m : Mod) (l : Nat) : Mod :=
  match (Mod.cluster m l).ctx with
  | some k => Mod.endContext m k true fun _ => .programReplaced
  | none => Mod.stopCluster m true l

/-- Load one cluster's bank: at once when the bank is not active or the load is forced, else the load waits (R37). -/
def Mod.loadBank (m : Mod) (id : Nat) (ctx : Option Nat) (force : Bool) (role : Nat) (words : List DWord) (l : Nat) :
    Mod :=
  let b := (Mod.cluster m l).loadTarget
  let put (x : Mod) := Mod.modFlight (Mod.modCluster x l fun c =>
    c.setBank b ((c.bank b).loaded ctx role words)) id fun f => { f with progress := f.progress + 1 }
  if ((Mod.cluster m l).bank b).state ≠ 3 then put m
  else if force then put (Mod.forceCluster m l)
  else Mod.modCluster m l fun c => c.setBank b { c.bank b with waitLoad := some (id, ctx, role, words) }

/-- A bank load of the descriptor still waits somewhere. -/
def Mod.loadsWait (m : Mod) (id : Nat) : Bool :=
  let mine (b : Bank) : Bool := match b.waitLoad with | some w => w.1 == id | none => false
  m.clusters.any fun p => mine p.2.bank0 || mine p.2.bank1

/-- A load to the cluster waits already: the Crown serialises loads to one cluster (R37). -/
def Mod.clusterBusy (m : Mod) (l : Nat) : Bool :=
  let c := Mod.cluster m l
  c.bank0.waitLoad.isSome || c.bank1.waitLoad.isSome

/-- End a load whose banks are all written. -/
def Mod.endLoad (m : Mod) (id : Nat) : Mod := if Mod.loadsWait m id then m else Mod.endFlight m id .ok 0 0

/-- Load the banks of every cluster an image names. -/
def Mod.loadBanks (m : Mod) (id : Nat) (ctx : Option Nat) (force : Bool) (img : Image) : Mod :=
  (Image.clusterList img).foldl (fun x l =>
    let r := (Image.roleAt img l).getD 0
    Mod.loadBank x id ctx force r (Image.roleWords img r) l) m

/-- Write one bank whose load waited, its fetch count now zero. -/
def Mod.takeWaitLoad (m : Mod) (l b : Nat) : Mod :=
  let x := (Mod.cluster m l).bank b
  match x.waitLoad with
  | some (id, ctx, role, words) =>
    if x.fetch = 0 then
      let m1 := Mod.modCluster m l fun c => c.setBank b ((c.bank b).loaded ctx role words)
      Mod.endLoad (Mod.modFlight m1 id fun f => { f with progress := f.progress + 1 }) id
    else m
  | none => m

/-- `BANK_LOAD` (R37). -/
def execBankLoad (cl : ClusterId) (s : State) : Out :=
  .next (s.onMod fun m => Mod.takeWaitLoad (Mod.takeWaitLoad m cl 0) cl 1)

/-! ## LOAD_MODEL -/

/-- Write one weight line into its core's scratchpad. -/
def Mod.writeWeight (m : Mod) (w : WeightLine) : Mod :=
  let c := w.cluster * 16 + w.core
  let put (s : SMap Nat) (i : Nat) := sset 0 s (w.line * 32 + i) (fld w.data.toNat (8 * i + 7) (8 * i) + 1)
  Mod.modCore m c fun x => { x with
    spad := (List.range 32).foldl put x.spad
    spadPoison := x.spadPoison.filter fun p => p.1 / 4 != w.line
    tags := sset 0 x.tags w.line 0 }

/-- Write the weight regions: every scratchpad's old contents are gone (R14). -/
def Mod.writeWeights (m : Mod) (ws : List WeightLine) : Mod :=
  let cs := m.cores.map fun (p : Nat × Core) =>
    (p.1, { p.2 with spad := [], spadPoison := [], tags := [], epoch := m.free + 1 })
  let m0 := Mod.bumpFree { m with cores := cs.filter fun (p : Nat × Core) => p.2 != (default : Core) }
  ws.foldl Mod.writeWeight m0

/-- Write the initial contents of GDDR weight objects; the first fault. -/
def Mod.writeObjects (m : Mod) (blk : ModelBlock) : List (Nat × Nat × List Byte) → Mod × Option AccFault
  | [] => (m, none)
  | (n, off, bs) :: os =>
    match (blk.places.find? fun (p : ObjPlace) => p.object == n) with
    | none => Mod.writeObjects m blk os
    | some p =>
      let va := p.address + off
      match Mod.vaWrite m (brimTlbOf va) 0xFF va bs false with
      | (m1, some (f, _)) => (m1, some f)
      | (m1, none) => Mod.writeObjects m1 blk os

/-- The model placement block is in its format (R363). -/
def modelBlockOk (b : ModelBlock) : Bool :=
  b.reservedClear && decide (1 ≤ b.tableCacheUnits) && decide (b.tableCacheUnits ≤ 1024)
    && decide (b.updateCacheUnits ≤ 256) && b.places.all fun (p : ObjPlace) => vaFieldOk 0xFF p.address

/-- The model is the resident one again with its table areas in place: the table cache is kept (R252). -/
def Mod.sameTables (m : Mod) (img : Image) (blk : ModelBlock) : Bool :=
  match m.model with
  | some md => md.image.hash == img.hash && md.blk.tableCacheVa == blk.tableCacheVa
      && md.blk.tableCacheUnits == blk.tableCacheUnits && md.blk.updateCacheUnits == blk.updateCacheUnits
  | none => false

/-- Make a model resident but for its weights: page pool, stream pool, caches, banks (R13, R165, R168). -/
def Mod.installModel (m : Mod) (id : Nat) (img : Image) (blk : ModelBlock) : Mod :=
  let slot := match img.signature with | some g => if img.signed then g.slot else 0xFF | none => 0xFF
  let m1 := { m with
    model := some { image := img, blk := blk, keySlot := slot }
    kv := { pages := blk.poolPages, free := List.range blk.poolPages }
    tab := if Mod.sameTables m img blk then m.tab else {}
    clusters := (m.clusters.map fun (p : Nat × Cluster) => (p.1, { p.2 with bank0 := {}, bank1 := {}, resident := [] })).filter
      fun (p : Nat × Cluster) => p.2 != (default : Cluster) }
  Mod.loadBanks (Mod.cacheLoad m1 img) id none false img

/-- LOAD_MODEL on the module (R277), with the weights of the image; true when it completed OK. -/
def Mod.loadModel (m : Mod) (v : SecView) (id : Nat) (img : Image) (blk : ModelBlock) (ws : List WeightLine)
    (objs : List (Nat × Nat × List Byte)) : Mod × Bool :=
  match Mod.ready m id 0x01 with
  | none => (m, false)
  | some fl =>
    if !modelBlockOk blk then (Mod.endFlight m id .descriptorInvalid 0 0, false)
    else match Mod.checkImage m v img (descFld fl.raw 0x18 63 0) true (Mod.liveContexts m != 0) with
      | .rejected ds => (Mod.rejectLoad m fl ds, false)
      | _ =>
        let m1 := Mod.installModel (Mod.startFlight m id) id img blk
        match Mod.writeObjects (Mod.writeWeights m1 ws) blk objs with
        | (m2, some f) => (Mod.parkFlight m2 fl f .translator 0, false)
        | (m2, none) => (Mod.endFlight m2 id .ok 0 0, true)

/-! ## LOAD_PROGRAM op 0 -/

/-- A role of an image loaded over another keeps its number apart (R265). -/
def overRole (k r : Nat) : Nat := r + 65536 * k

/-- The clusters of placement entries, one entry each, but for those another image names. -/
def splitPlacement (ps : List PlaceEntry) (named : List Nat) : List PlaceEntry :=
  ps.flatMap fun (e : PlaceEntry) =>
    ((List.range e.count).filter fun i => !named.contains (e.first + i)).map fun i =>
      { e with first := e.first + i, count := 1 }

/-- A context's image after a later load of roles (R265): the new roles replace those of the clusters they name. -/
def overlay (old new : Image) : Image :=
  let k := 1 + (old.roles.map fun (c : RoleCode) => c.role / 65536).foldl max 0
  { old with
    placement := splitPlacement old.placement (Image.clusterList new)
      ++ new.placement.map fun (e : PlaceEntry) => { e with role := overRole k e.role }
    roles := old.roles ++ new.roles.map fun (c : RoleCode) => { c with role := overRole k c.role }
    points := old.points ++ new.points.map fun (p : PreemptPoint) => { p with role := overRole k p.role }
    objects := new.objects ++ old.objects
    channels := (new.channels.map fun (c : ChanDecl) =>
      { c with producerRole := overRole k c.producerRole, consumerRole := overRole k c.consumerRole }) ++ old.channels
    flags := old.flags ++ new.flags.filter fun (d : FlagDecl) => !old.flags.any fun (x : FlagDecl) => x.number == d.number }

/-- The image whose roles go into the banks of a load for a context: its role numbers as the context holds them. -/
def renumbered (old new : Image) : Image :=
  let k := 1 + (old.roles.map fun (c : RoleCode) => c.role / 65536).foldl max 0
  { new with
    placement := new.placement.map fun (e : PlaceEntry) => { e with role := overRole k e.role }
    roles := new.roles.map fun (c : RoleCode) => { c with role := overRole k c.role } }

/-- LOAD_PROGRAM op 0 on the module (R37, R39, R265, R277). -/
def Mod.loadRoles (m : Mod) (v : SecView) (id : Nat) (img : Image) : Mod :=
  match Mod.ready m id 0x02 with
  | none => m
  | some fl =>
    if descFld fl.raw 8 1 0 ≠ 0 ∨ fl.started then m
    else match Mod.checkImage m v img (descFld fl.raw 0x18 63 0) false false with
      | .rejected ds => Mod.rejectLoad m fl ds
      | _ =>
        if (Image.clusterList img).any (Mod.clusterBusy m) then Mod.modFlight m id fun x => { x with phase := .waiting }
        else
          let k := descCtx fl.raw
          let m1 := Mod.cacheLoad (Mod.startFlight m id) img
          let force := bitAt (descFld fl.raw 8 4 0) 2
          match Mod.ctx m1 k with
          | some c =>
            let m2 := Mod.loadBanks m1 id (some k) force (renumbered c.image img)
            Mod.endLoad (Mod.modCtx m2 k fun x => { x with image := overlay x.image img }) id
          | none => Mod.endLoad (Mod.loadBanks m1 id none force img) id

/-- `LOAD_PROGRAM_LOAD_ROLES` (R362). -/
def execLoadProgramLoadRoles (id : Nat) (img : Image) (s : State) : Out :=
  .next (s.onMod fun m => Mod.loadRoles m (s.secView id) id img)

/-! ## Creating a context -/

/-- The context block is in its format (R361, R364). -/
def Mod.ctxBlockOk (m : Mod) (b : CtxBlock) : Bool :=
  b.reservedClear && decide (b.streamEntries ≤ 65536) && b.spillBytes % 0x1_0000 == 0
    && decide (Mod.saveBytes m ≤ b.saveBytes)
    && [b.streamTable, b.branchTable, b.saveArea, b.saveBytes, b.swapArea, b.spillArea, b.spillBytes].all (· < 2 ^ 48)
    && b.places.all fun (p : ObjPlace) => decide (p.address < 2 ^ 47)

/-- Numbers of an image's flags of a class. -/
def flagsOf (img : Image) (c : FlagClass) : List Nat :=
  (img.flags.filter fun (d : FlagDecl) => Image.flagClass img d.number == c).map fun (d : FlagDecl) => d.number

/-- The lowest `n` numbers below `top` that a map does not hold. -/
def freeOnes (owner : SMap Nat) (top n : Nat) : List Nat :=
  ((List.range top).filter fun i => sget 0 owner i == 0).take n

/-- Device counters an image needs: the sum of the counts of its kind-4 objects (R44). -/
def countersNeeded (img : Image) : Nat :=
  (img.counters.map fun n =>
    match (img.objects.find? fun (o : ObjDecl) => o.number == n) with
    | some o => (match o.kind with | .counter c => c | _ => 0)
    | none => 0).foldl (· + ·) 0

/-- Virtual lines an image enrols (R268, R336). -/
def linesNeeded (img : Image) : List Nat := (img.hatbands.map fun (h : HatDecl) => h.line).eraseDups

/-- Clusters enrolled on a virtual line. -/
def enrolledClusters (img : Image) (line : Nat) : List Nat :=
  (Image.clusterList img).filter fun l =>
    match Image.roleAt img l with | some r => (enrolledLines img (r % 65536)).contains line | none => false

/-- Bind a context's device flags, counters and hatband lines (R44, R323, R336); none when a pool is too small. -/
def Mod.bindDevice (m : Mod) (k : Nat) (c : Ctx) : Option (Mod × Ctx) :=
  let vf := flagsOf c.image .device
  let vl := linesNeeded c.image
  let nc := countersNeeded c.image
  let pf := freeOnes m.dev.flagOwner 1024 vf.length
  let pl := freeOnes m.dev.lineOwner 16 vl.length
  let pc := freeOnes m.dev.ctrOwner 256 nc
  if pf.length < vf.length || pl.length < vl.length || pc.length < nc then none
  else
    let d := m.dev
    let d := { d with
      flagOwner := (pf.zip vf).foldl (fun o x => sset 0 o x.1 (1 + k * 4096 + x.2)) d.flagOwner
      flags := d.flags.filter fun p => !pf.contains p.1
      ctrOwner := pc.foldl (fun o x => sset 0 o x (k + 1)) d.ctrOwner
      counters := d.counters.filter fun p => !pc.contains p.1
      lineOwner := pl.foldl (fun o x => sset 0 o x (k + 1)) d.lineOwner
      release := d.release.filter fun p => !pl.contains p.1
      enrolled := (pl.zip vl).foldl (fun o x => sset [] o x.1 (enrolledClusters c.image x.2)) d.enrolled }
    some ({ m with dev := d }, { c with
      devFlags := (vf.zip pf).foldl (fun o x => sset 0 o x.1 (x.2 + 1)) c.devFlags
      devCtrs := pc
      lines := (vl.zip pl).foldl (fun o x => sset 0 o x.1 (x.2 + 1)) c.lines })

/-- Write the host flag words of a new context as zero (R329). -/
def Mod.zeroHostFlags (m : Mod) (c : Ctx) : Mod :=
  (flagsOf c.image .host).foldl (fun x v => Mod.hostWrite x (c.blk.flagArea + 8 * v) (leBytes 8 0) false) m

/-- The tables the host has written before the first job (R140, R170, R193). -/
def Ctx.withTables (c : Ctx) (b : CtxBlock) : Ctx :=
  { c with
    streams := b.streams.foldl (fun t x => sset {} t x.1 x.2) []
    branches := b.branches.foldl (fun t x => sset {} t x.1 x.2) []
    lists := b.lists.foldl (fun t x => sset {} t x.1 x.2) [] }

/-- The save and swap areas of a new context are pinned (R235). -/
def Mod.areasPinned (m : Mod) (k : Nat) (b : CtxBlock) : Bool :=
  Mod.pinned m k b.saveArea b.saveBytes && Mod.pinned m k b.swapArea (b.streamEntries * Mod.slotBytes m)

/-- Create the context (R44, R235, R322 to R336, R364, R380): the status of the creation. -/
def Mod.makeContext (m : Mod) (fl : Flight) (img : Image) (blk : CtxBlock) : Mod × Status :=
  let k := descCtx fl.raw
  let f := descFld fl.raw 8 4 0
  let slot := match img.signature with | some g => if img.signed then g.slot else 0xFF | none => 0xFF
  let c : Ctx := { lc := bitAt f 3, exclusive := bitAt f 4, image := img, blk := blk, keySlot := slot }
  let c := Ctx.withTables c blk
  if Mod.hasCtx m k || (c.exclusive && Mod.exclusiveExists m) || !Mod.ctxBlockOk m blk then (m, .descriptorInvalid)
  else match Mod.bindDevice m k c with
    | none => (m, .imageRejected)
    | some (m1, c1) =>
      let m2 := { m1 with ctxs := sset none m1.ctxs k (some c1) }
      if Mod.areasPinned m2 k blk then (Mod.zeroHostFlags m2 c1, .ok) else (m, .saveFault)

/-- LOAD_PROGRAM op 1 on the module. -/
def Mod.createContext (m : Mod) (v : SecView) (id : Nat) (img : Option Image) (blk : CtxBlock) : Mod :=
  match Mod.ready m id 0x02 with
  | none => m
  | some fl =>
    if descFld fl.raw 8 1 0 ≠ 1 ∨ fl.started then m
    else
      let k := descCtx fl.raw
      match img, m.model with
      | none, none => Mod.rejectLoad m fl [{ code := 0x0018 }]
      | none, some md =>
        match Mod.makeContext m fl md.image blk with
        | (m1, st) => Mod.endFlight m1 id st 0 0
      | some i, _ =>
        match Mod.checkImage m v i (descFld fl.raw 0x18 63 0) false false with
        | .rejected ds => Mod.rejectLoad m fl ds
        | _ =>
          if (Image.clusterList i).any (Mod.clusterBusy m) then Mod.modFlight m id fun x => { x with phase := .waiting }
          else match Mod.makeContext m fl i blk with
            | (m1, .ok) =>
              Mod.endLoad (Mod.loadBanks (Mod.cacheLoad (Mod.startFlight m1 id) i) id (some k) false i) id
            | (m1, st) => Mod.endFlight m1 id st 0 0

/-- `LOAD_PROGRAM_CREATE_CONTEXT` (R364). -/
def execLoadProgramCreateContext (id : Nat) (img : Option Image) (blk : CtxBlock) (s : State) : Out :=
  .next (s.onMod fun m => Mod.createContext m (s.secView id) id img blk)

/-- LOAD_PROGRAM op 2 on the module (R362). -/
def Mod.endProgram (m : Mod) (id : Nat) : Mod :=
  match Mod.ready m id 0x02 with
  | none => m
  | some fl =>
    if descFld fl.raw 8 1 0 ≠ 2 then m
    else Mod.endFlight (Mod.endContext m (descCtx fl.raw) true fun _ => .contextKilled) id .ok 0 0

/-- `LOAD_PROGRAM_END_CONTEXT` (R362). -/
def execLoadProgramEndContext (id : Nat) (s : State) : Out := .next (s.onMod fun m => Mod.endProgram m id)

end Sys2Proof.Machine
end

