-- ==== Sys2Proof/Machine/Recovery.lean ====
section
/-!
DEFINITION. The buddy area and its push (R435 to R437), the end of a job with its continuous export (R342, R438), LOAD_MODEL
(R277), and a takeover on a spare (R439, R440).
-/
namespace Sys2Proof.Machine

open Sys2Proof

/-! ## The buddy area -/

/-- The mode of LNK_BUDDY_CTRL: 0 none, 1 copy, 2 replica; 3 counts as 0 (R435). -/
def Mod.buddyMode (m : Mod) : Nat := let v := fld m.rcv.buddyCtrl.toNat 1 0; if v = 3 then 0 else v

/-- n of the continuous export interval 2^n. -/
def Mod.exportLog2 (m : Mod) : Nat :=
  let v := fld m.rcv.buddyCtrl.toNat 7 4
  if v = 0 then 12 else if v < 8 then 8 else v

/-- The address of the area in the buddy's model space. -/
def Mod.areaVa (m : Mod) : Nat := fld m.rcv.buddyArea.toNat 47 0

/-- The buddy (R435): none in a ring of one, and none of a spare. -/
def Mod.buddy (m : Mod) : Option Xyz :=
  let d := (Mod.extents m).1
  let h := Mod.memberHere m
  if d = 1 || Mod.isSpare m then none else some (stepCoord h.1 d true, h.2)

/-- Bytes of a weight region copy: every core's weight lines (R436). -/
def regionBytes (weightLines : Nat) : Nat := 81920 * 32 * weightLines

/-- Where the weight objects start in an area with weight regions (R436). -/
def objectsAt (weightLines : Nat) : Nat := roundUp (0x1_0000 + regionBytes weightLines) 0x1_0000

/-- Where the blob slots start (R436): of an area in copy mode with the weights' sizes, and of one without. -/
def slotsAt (mode weightLines objectBytes : Nat) : Nat :=
  if mode = 1 then roundUp (objectsAt weightLines + objectBytes) 0x20_0000 else 0x20_0000

/-- The weight objects of the resident model, in object-number order: number, bytes, offset from the first (R436). -/
def Mod.weightObjects (m : Mod) : List (Nat × Nat × Nat) :=
  match m.model with
  | none => []
  | some md =>
    let mine := md.image.objects.filter fun (o : ObjDecl) =>
      o.space == 0 && md.image.objectBytes.any fun (x : Nat × Nat × List Byte) => x.1 == o.number
    let sorted := mine.mergeSort fun (a b : ObjDecl) => decide (a.number ≤ b.number)
    (sorted.foldl (fun (acc : Nat × List (Nat × Nat × Nat)) (o : ObjDecl) =>
      (acc.1 + roundUp o.bytes 0x1_0000, acc.2 ++ [(o.number, o.bytes, acc.1)])) (0, [])).2

/-- Bytes the weight objects take in the area. -/
def Mod.objectBytes (m : Mod) : Nat :=
  (Mod.weightObjects m).foldl (fun a o => a + roundUp o.2.1 0x1_0000) 0

/-- The header of the module's area (R436); bytes not listed are zero. -/
def Mod.areaHeader (m : Mod) (valid : Bool) (seq : Nat) : List Byte :=
  let h := Mod.memberHere m
  let hash := match m.model with | some md => md.image.hash.toNat | none => 0
  let bs := leBytes 4 0x5944_4442 ++ leBytes 4 (b2n valid + 2 * Mod.buddyMode m) ++ leBytes 8 seq
    ++ leBytes 8 (Mod.weightLines m) ++ leBytes 8 (Mod.objectBytes m) ++ leBytes 48 hash
    ++ leBytes 1 h.1 ++ leBytes 1 h.2.1 ++ leBytes 1 h.2.2
  bs ++ List.replicate (4096 - bs.length) 0

/-- Write bytes into the buddy's area, in packets of up to 4,096 bytes, as best-effort traffic (R437). -/
def Mod.toBuddy (m : Mod) (dest : Xyz) (off job : Nat) (bs : List Byte) (po : Bool) : Mod :=
  (List.range (ceilDiv bs.length 4096)).foldl (fun x i =>
    (Mod.sendRequest x { ptype := 0x01, dest := dest, src := Mod.memberHere x, poison := po
                         address := Mod.areaVa x + off + 4096 * i, data := (bs.drop (4096 * i)).take 4096 } job 0xFF 0).1) m

/-- Send one core's weight lines, a line a packet's part. -/
def Mod.pushRegions (m : Mod) (dest : Xyz) : Mod :=
  let n := 32 * Mod.weightLines m
  (List.range (16 * Config.clusters m.sys.grade)).foldl (fun x c =>
    Mod.toBuddy x dest (0x1_0000 + c * n) pushJob (Mod.spadRead x c 0 n) (Mod.spadPoisoned x c 0 n)) m

/-- Send the weight objects; a fault of a read ends the push. -/
def Mod.pushObjects (m : Mod) (dest : Xyz) (base : Nat) : List (Nat × Nat × Nat) → Mod × Option AccFault
  | [] => (m, none)
  | (n, bytes, off) :: os =>
    let va := (Mod.objVa m 0xFF n)
    match Mod.vaRead m (brimTlbOf va) 0xFF va bytes with
    | .inl f => (m, some f)
    | .inr (bs, po) => Mod.pushObjects (Mod.toBuddy m dest (base + off) pushJob bs po) dest base os

/-- Push the buddy area (R437): a push under way starts again. In replica mode the second header is valid when the buddy's
resident model is the same one, which is no state of this module: a free bit. -/
def Mod.push_ (m : Mod) : Mod :=
  match Mod.buddy m, m.model with
  | some dest, some _ =>
    let mode := Mod.buddyMode m
    if mode = 0 then m
    else
      let m1 := { m with
        fab := { m.fab with reqs := m.fab.reqs.filter fun r => r.job != pushJob }
        rcv := { m.rcv with pushing := true, weightsWritten := false } }
      let m2 := Mod.toBuddy m1 dest 0 pushJob (Mod.areaHeader m1 false m1.rcv.copySeq) false
      let r := if mode = 1 then
          Mod.pushObjects (Mod.pushRegions m2 dest) dest (objectsAt (Mod.weightLines m2)) (Mod.weightObjects m2)
        else (m2, none)
      match r with
      | (m3, some f) =>
        let m4 := (Mod.raiseAcc m3 f .mover 0xFF 0 0 0 false none).1
        { m4 with rcv := { m4.rcv with pushing := false } }
      | (m3, none) =>
        let same := mode = 1 || Config.freeBit m3.free
        let m4 := if mode = 1 then m3 else Mod.bumpFree m3
        Mod.toBuddy m4 dest 0 pushJob (Mod.areaHeader m4 same (m4.rcv.copySeq + 1)) false
  | _, _ => m

/-- The bits LNK_BUDDY_CTRL keeps. -/
def buddyCtrlMask : DWord := 0x0000_00FF_FFFF_FFF3

/-- Write LNK_BUDDY_CTRL (R435): only while no context exists. -/
def Mod.writeBuddyCtrl (m : Mod) (v : DWord) : Mod :=
  if m.ctxs.any fun p => p.2.isSome then m else { m with rcv := { m.rcv with buddyCtrl := v &&& buddyCtrlMask } }

/-- `LNK_BUDDY_CTRL_WRITE` (R435). -/
def execLnkBuddyCtrlWrite (v : DWord) (s : State) : Out := .next (s.onReg fun m => Mod.writeBuddyCtrl m v)

/-- Write LNK_BUDDY_AREA (R437): the push restarts, and later exports go to the new area. -/
def Mod.writeBuddyArea (m : Mod) (v : DWord) : Mod := Mod.push_ { m with rcv := { m.rcv with buddyArea := v } }

/-- `LNK_BUDDY_AREA_WRITE` (R437). -/
def execLnkBuddyAreaWrite (v : DWord) (s : State) : Out := .next (s.onReg fun m => Mod.writeBuddyArea m v)

/-! ## Continuous export -/

/-- Rank of a context among those exported. -/
def exportRank (mask k : Nat) : Nat := ((List.range k).filter fun i => bitAt mask i).length

/-- Export one stream to its buddy slot (R438): the blob goes to the slot of its own export_seq. -/
def Mod.exportOne (m : Mod) (k n : Nat) : Mod :=
  match Mod.buddy m, Mod.ctx m k with
  | some dest, some c =>
    let e := Ctx.stream c n
    match Mod.blobBody m k n e with
    | .inl f => (Mod.raiseAcc m f .streamCopy k 0 0 0 false none).1
    | .inr (body, po) =>
      let per := fld m.rcv.buddyCtrl.toNat 39 24 + 1
      let seq := (e.exportSeq + 1) % 2 ^ 32
      let pair := exportRank (fld m.rcv.buddyCtrl.toNat 23 8) k * per + n
      let slot := Mod.slotBytes m + 4096
      let off := slotsAt (Mod.buddyMode m) (Mod.weightLines m) (Mod.objectBytes m) + (2 * pair + seq % 2) * slot
      let m1 := Mod.toBuddy m dest off exportJob (body ++ blobTrailer body) po
      Mod.bumpFree (Mod.modStream m1 k n fun x => { x with exportSeq := seq })
  | _, _ => m

/-- After a job's end: export its streams whose step_count has passed a multiple of the interval (R157, R438). -/
def Mod.exportAfter (m : Mod) (k : Nat) (refs : List StreamRef) (before : Nat → Nat) : Mod :=
  let n := 2 ^ Mod.exportLog2 m
  let ctl := m.rcv.buddyCtrl.toNat
  if Mod.buddyMode m = 0 || !bitAt (fld ctl 23 8) k then m
  else refs.foldl (fun x r =>
    match Mod.ctx x k with
    | some c =>
      if r.stream ≤ fld ctl 39 24 && before r.stream / n < (Ctx.stream c r.stream).stepCount / n then
        Mod.exportOne x k r.stream
      else x
    | none => x) m

/-! ## The end of a job -/

/-- What follows the end of a job whose writes have been made: exports, and a push after an exclusive job that wrote
weights (R437, R438). -/
def Mod.afterJob (m : Mod) (fl : Flight) (before : Nat → Nat) : Mod :=
  if (Mod.flight m fl.id).isSome then m
  else
    let k := descCtx fl.raw
    let m1 := Mod.exportAfter m k fl.streams before
    if Mod.isExclusive m1 k && m1.rcv.weightsWritten then Mod.push_ m1 else m1

/-- The step counts of a context's streams. -/
def Mod.stepCounts (m : Mod) (k : Nat) : Nat → Nat := fun n =>
  match Mod.ctx m k with | some c => (Ctx.stream c n).stepCount | none => 0

/-- Every command of a job has ended, and, unless its descriptor asks for early completion, every write of it is
acknowledged (R342). -/
def Mod.jobSettled (m : Mod) (fl : Flight) : Bool :=
  (m.cores.all fun p => p.2.job != fl.id || p.2.ctx.isNone || p.2.engines.all fun e => e.2.isEmpty)
    && !m.tab.bags.any (fun b => b.job == fl.id)
    && (bitAt fl.raw.toNat 10 || !m.fab.reqs.any fun r => r.job == fl.id)

/-- JOB_COMPLETION on the module (R141, R342, R375). -/
def Mod.jobCompletion (m : Mod) (id : Nat) : Mod :=
  match Mod.flight m id with
  | none => m
  | some fl =>
    if descKind fl.raw != 0x03 || !fl.allEnded || fl.phase == .ending || !Mod.jobSettled m fl then m
    else Mod.afterJob (Mod.finishJob m id fl.ranStatus) fl (Mod.stepCounts m (descCtx fl.raw))

/-- `JOB_COMPLETION` (R342). -/
def execJobCompletion (id : Nat) (s : State) : Out := .next (s.onCrown fun m => Mod.jobCompletion m id)

/-! ## Loading a model -/

/-- A takeover is active on the spare (R439, R440). -/
def Mod.takeoverOn (m : Mod) : Bool :=
  Mod.isSpare m && (match m.rcv.takeover with | some t => t.begun | none => false)

/-- LOAD_MODEL on the module, and the push that follows (R437). -/
def Mod.loadModelCmd (m : Mod) (v : SecView) (id : Nat) (img : Image) (blk : ModelBlock) : Mod :=
  if Mod.takeoverOn m then m
  else
    let r := Mod.loadModel m v id img blk img.weights img.objectBytes
    if r.2 then Mod.push_ r.1 else r.1

/-- `LOAD_MODEL` (R277). -/
def execLoadModel (id : Nat) (img : Image) (blk : ModelBlock) (s : State) : Out :=
  .next (s.onMod fun m => Mod.loadModelCmd m (s.secView id) id img blk)

/-- TAKEOVER_BEGIN on the module (R439): the header and the blob slots have come from L's buddy area; they stand in the
spare's staging area at the same offsets. -/
def Mod.beginTakeover (m : Mod) (header slots : List Byte) : Mod :=
  match m.rcv.takeover with
  | none => m
  | some t =>
    if !Mod.isSpare m || t.begun then m
    else
      let w := at_ header 4 4
      let mode := fld w 2 1
      let hash := BitVec.ofNat 384 (at_ header 0x20 48)
      let off := slotsAt mode (at_ header 0x10 2) (at_ header 0x18 8)
      let put (x : Mod) (a : Nat) (bs : List Byte) : Mod :=
        match Mod.vaWrite x (brimTlbOf a) 0xFF a bs false with | (y, none) => y | (_, some _) => x
      let m1 := put (put m (Mod.areaVa m) header) (Mod.areaVa m + off) slots
      Mod.event { m1 with rcv := { m1.rcv with
          takeover := some { t with begun := true, valid := bitAt w 0, mode := mode, hash := hash, blobs := slots } } }
        .takeoverBegin 0xFF t.x 0

/-- `TAKEOVER_BEGIN` (R439). -/
def execTakeoverBegin (header slots : List Byte) (s : State) : Out :=
  .next (s.onMod fun m => Mod.beginTakeover m header slots)

/-- The source of a takeover's weights (R440): 1 the buddy area, 2 the buddy's own weights, 3 the image. -/
def Takeover.source (t : Takeover) (img : Image) (buddyHash : BitVec 384) : Nat :=
  if t.valid && t.mode == 1 && t.hash == img.hash then 1
  else if t.valid && t.mode == 2 && buddyHash == img.hash then 2
  else 3

/-- TAKEOVER_LOAD_MODEL on the module (R440): `ws` and `objs` are what the buddy has sent. -/
def Mod.takeoverLoad (m : Mod) (v : SecView) (id : Nat) (img : Image) (blk : ModelBlock) (buddyHash : BitVec 384)
    (ws : List WeightLine) (objs : List (Nat × Nat × List Byte)) : Mod :=
  match m.rcv.takeover with
  | none => m
  | some t =>
    if !Mod.takeoverOn m then m
    else
      let src := Takeover.source t img buddyHash
      let r := if src = 3 then Mod.loadModel m v id img blk img.weights img.objectBytes
        else Mod.loadModel m v id img blk ws objs
      if r.2 then
        let m1 := { r.1 with rcv := { r.1.rcv with takeover := some { t with ready := true } } }
        let xyz := (t.x, (Mod.here m1).2)
        let m2 := Mod.superviseAll m1 4 xyz t.reason
        Mod.event { m2 with fab := { m2.fab with ready := m2.fab.ready.filter (· != xyz) ++ [xyz] } } .takeoverReady 0xFF t.x src
      else r.1

/-- `TAKEOVER_LOAD_MODEL` (R440). -/
def execTakeoverLoadModel (id : Nat) (img : Image) (blk : ModelBlock) (buddyHash : BitVec 384) (ws : List WeightLine)
    (objs : List (Nat × Nat × List Byte)) (s : State) : Out :=
  .next (s.onMod fun m => Mod.takeoverLoad m (s.secView id) id img blk buddyHash ws objs)

end Sys2Proof.Machine
end

