-- ==== Sys2Proof/Machine/Faults.lean ====
section
/-!
DEFINITION. The fault ring's answers (R230 to R233, R525): what each parked operation does on a retry and on an abandon; the
collector's buffer (R232); the service time; and the TLB's walks (R225).
-/
namespace Sys2Proof.Machine

open Sys2Proof

/-! ## Retry -/

/-- A parked descriptor may be run again. -/
def Mod.retryFlight (m : Mod) (id : Nat) : Mod :=
  Mod.modFlight m id fun f =>
    if f.phase != .parked then f
    else if f.started then { f with phase := .running }
    else if descKind f.raw = 0x03 && descFld f.raw 0x0E 15 0 != 0 && f.streams.isEmpty then { f with phase := .fetched }
    else { f with phase := .waiting }

/-- A macro that parked is issued again (R229). -/
def Mod.retryCore (m : Mod) (c seq : Nat) : Mod :=
  Mod.modCore m c fun x => match x.wait with
    | .parked s _ _ => if s = seq then { x with wait := .none } else x
    | _ => x

/-- Walk again for one operation (R230). -/
def Mod.retryOp (m : Mod) (seq : Nat) : ParkedOp → Mod
  | .dma c _ => Mod.pump (Mod.modCore m c fun x => { x with parked := sset 0 x.parked 5 0 }) c 5
  | .core c _ => Mod.retryCore m c seq
  | .flight id => Mod.retryFlight m id
  | .bag b => Mod.startBag (Mod.modBag m b fun x => { x with parked := false }) b
  | .read id => (match m.flash.reads.find? fun r => r.id == id with | some r => Mod.lookup m r | none => m)
  | .fill k => let w := Mod.way m k; if w.filling then Mod.issueFill m w.table w.copy w.page w.lcUse true else m
  | .packet p =>
    if p.ptype = 0x01 then Mod.writePacket m p else if p.ptype = 0x02 then Mod.readPacket m p else Mod.readResponse m p
  | .coll g => Mod.collRun g collBound m
  | .spill p => Mod.spillCopyDone m p
  | .fetch p => Mod.pageFetchDone m p true
  | .bookkeeping id =>
    match Mod.flight m id with
    | some f => Mod.afterJob (Mod.finishWrites m f (f.endStatus.getD .ok)) f (Mod.stepCounts m (descCtx f.raw))
    | none => m

/-! ## Abandon -/

/-- End a descriptor whose access was not resolved (R230). -/
def Mod.abandonFlight (m : Mod) (id : Nat) : Mod :=
  match Mod.flight m id with
  | none => m
  | some f =>
    let k := descKind f.raw
    if k = 0x03 then Mod.finishJob m id .mmuFaultUnresolved
    else if k = 0x08 ∨ k = 0x09 then Mod.endFlight (Mod.copyFailed m f) id .mmuFaultUnresolved (Flight.progressField f) 0
    else Mod.endFlight (Mod.dropLoads m id) id .mmuFaultUnresolved (Flight.progressField f) 0

/-- The jobs whose passes wait for a page. -/
def Mod.pageJobs (m : Mod) (page : Nat) : List Nat :=
  distinct ((m.cores.filter fun x => x.2.wait == .page page).map fun x => x.2.job)

/-- End one operation whose record was abandoned, or never answered (R188, R230, R525). -/
def Mod.abandonOp (m : Mod) : ParkedOp → Mod
  | .dma _ j => Mod.finishJob m j .mmuFaultUnresolved
  | .core _ j => Mod.finishJob m j .mmuFaultUnresolved
  | .flight id => Mod.abandonFlight m id
  | .bag b => (match Mod.bagOf m b with
    | some x => Mod.finishJob { m with tab := { m.tab with bags := m.tab.bags.filter fun y => y.id != b } } x.job .mmuFaultUnresolved
    | none => m)
  | .read id => (match m.flash.reads.find? fun r => r.id == id with | some r => Mod.poisonRead m r | none => m)
  | .fill k =>
    let w := Mod.way m k
    if !w.filling then m
    else
      let jobs := distinct ((Mod.readsOf m w.table w.copy w.page).filterMap fun r => match r.bag with
        | some b => (Mod.bagOf m b).map (·.job)
        | none => none)
      jobs.foldl (fun x j => Mod.finishJob x j .mmuFaultUnresolved) (Mod.giveUpPage m w.table w.copy w.page)
  | .packet _ => m
  | .coll n => (match Mod.group m n with | some g => Mod.collFail m n g .mmuFaultUnresolved | none => m)
  | .spill p =>
    if (Mod.page m p).tier = 2 then
      Mod.tryRelease (Mod.modPage (Mod.freeSpillSlot m (Mod.page m p)) p fun d =>
        { d with tier := 1, spillAddr := 0, flash := false }) p
    else m
  | .fetch p =>
    let d := Mod.page m p
    if d.tier ≠ 5 then m
    else
      let m1 := Mod.modPage { m with kv := { m.kv with free := d.frame :: m.kv.free } } p fun x =>
        { x with tier := if d.flash then 4 else 3, frame := 0 }
      (Mod.pageJobs m1 p).foldl (fun x j => Mod.finishJob x j .mmuFaultUnresolved) m1
  | .bookkeeping id =>
    match Mod.flight m id with
    | some f => Mod.endContext m (descCtx f.raw) true fun g => if g.id = id then .mmuFaultUnresolved else .contextKilled
    | none => m

/-! ## Records -/

/-- The operation stands in a core that runs the job now. -/
def Mod.opLive (m : Mod) : ParkedOp → Bool
  | .dma c j => (Mod.core m c).running && (Mod.core m c).job == j
  | .core c j => (Mod.core m c).running && (Mod.core m c).job == j
  | _ => true

/-- The records of a save of a core's cluster hold the job. -/
def Mod.savedCore (m : Mod) (c j : Nat) : Bool :=
  match Mod.flight m j with
  | some f => (match Mod.ctx m (descCtx f.raw) with
    | some x => (let s : SavedCluster := sget default x.saves (c / 16); s != default && s.job == j)
    | none => false)
  | none => false

/-- The operation stands in a saved core (R233). -/
def Mod.opSaved (m : Mod) : ParkedOp → Bool
  | .dma c j => Mod.savedCore m c j
  | .core c j => Mod.savedCore m c j
  | _ => false

/-- Give a record its response (R230): its operations walk again, or end; those of a saved context keep it (R233). -/
def Mod.answer (m : Mod) (r : FaultRec) (retry : Bool) : Mod :=
  let saved := r.ops.filter (Mod.opSaved m)
  let live := r.ops.filter fun o => !Mod.opSaved m o && Mod.opLive m o
  let recs := m.flt.recs.filter fun x => x.seq != r.seq
  let kept : List FaultRec := if saved.isEmpty then [] else [{ r with ops := saved, answer := if retry then 1 else 2 }]
  let m1 := { m with flt := { m.flt with recs := recs ++ kept } }
  live.foldl (fun x o => if retry then Mod.retryOp x r.seq o else Mod.abandonOp x o) m1

/-- The response of the record at a place of the ring (R230): 1 retry, 2 abandon; any other value counts as none. -/
def Mod.respond (m : Mod) (index : Nat) (resp : Nat) : Mod :=
  match m.flt.recs.find? fun r => r.index == index && !r.orphan && r.answer == 0 && !r.unanswered with
  | none => m
  | some r =>
    if resp = 1 then Mod.answer m r true
    else if resp = 2 then Mod.answer m r false
    else { m with flt := { m.flt with recs := m.flt.recs.map fun x => if x.seq = r.seq then { x with unanswered := true } else x } }

/-- FAULT_RESPONSE_READ on the module (R230, R520, R524): the responses of the records that the head has passed, in ring
order; records that waited are written as there is room. -/
def Mod.responseRead (m : Mod) (head : Nat) (resps : List Byte) : Mod :=
  let q := m.flt
  let last := q.head.toNat
  if !q.enabled || !headTakes last (q.index % 2 ^ 32) head then m
  else
    let n := ahead32 head last
    -- the place of the first record not yet read, counted since the ring was enabled
    let base := q.index - ahead32 (q.index % 2 ^ 32) last
    let m1 := { m with flt := { q with head := BitVec.ofNat 32 head } }
    let m2 := (List.range n).foldl (fun x i => Mod.respond x (base + i) (nth 0 resps i).toNat) m1
    Mod.drainFaults m2 (m2.flt.buffered.length)

/-- `FAULT_RESPONSE_READ` (R230). -/
def execFaultResponseRead (head : Word) (resps : List Byte) (s : State) : Out :=
  .next (s.onMod fun m => Mod.responseRead m head.toNat resps)

/-- `FAULT_SERVICE_TIMEOUT` (R230): no response within the service time, which counts from the record's writing. -/
def execFaultServiceTimeout (seq : Nat) (s : State) : Out :=
  .next (s.onMod fun m => match m.flt.recs.find? fun r => r.seq == seq && r.answer == 0 with
    | some r => Mod.answer m r false
    | none => m)

/-- `FAULT_RECORD_DRAIN` (R232): one record. -/
def execFaultRecordDrain (s : State) : Out := .next (s.onMod fun m => Mod.drainFaults m 1)

/-- `CLUSTER_RESTORE` (R233, R392): kept responses of restored operations are applied. -/
def execClusterRestore (cl : ClusterId) (s : State) : Out :=
  .next (s.onCrown fun m =>
    let m1 := Mod.clusterRestore m cl
    (m1.flt.recs.filter fun r => r.answer != 0).foldl (fun x r => Mod.answer x r (r.answer == 1)) m1)

/-! ## The TLB -/

/-- The number a TLB has in the state. -/
def tlbKey : TlbId → Nat
  | .cluster c => c
  | .brim d => brimTlb d

/-- Entries of a TLB (R224). -/
def tlbRoom : TlbId → Nat
  | .cluster _ => 64
  | .brim _ => 256

/-- TLB_MISS_WALK on the module (R225): a walk whose leaf is valid fills the TLB; an invalid entry is never cached. -/
def Mod.missWalk (m : Mod) (t : TlbId) (ctx va : Nat) : Mod :=
  let es := sget [] m.mem.tlbs (tlbKey t)
  if es.any (tlbHit ctx va) then m
  else
    let m1 := Mod.visorBrim m (fld va 22 21) ctx 0x49 1
    match Mod.walk m1 (Mod.root m1 ctx va) va with
    | .fault _ _ _ => m1
    | .leaf e large =>
      let x : TlbEntry := { model := bitAt va 47, ctx := if bitAt va 47 then 0xFF else ctx
                            page := if large then va / 0x20_0000 else va / 0x1_0000
                            large := large, leaf := BitVec.ofNat 64 e }
      { m1 with mem := { m1.mem with tlbs := sset [] m1.mem.tlbs (tlbKey t) ((x :: es).take (tlbRoom t)) } }

/-- `TLB_MISS_WALK` (R225). The access that missed raises its own fault. -/
def execTlbMissWalk (tlb : TlbId) (ctx : Nat) (va : BitVec 48) (_write : Bool) (s : State) : Out :=
  .next (s.onMod fun m => Mod.missWalk m tlb ctx va.toNat)

end Sys2Proof.Machine
end

