-- ==== Sys2Proof/Machine/Recurrent.lean ====
section
/-!
DEFINITION. The stream instructions SMODAL, SSCAN, SCELL, SRESET and SANCHOR (R143, R148 to R154, R314). The manual does
not say where a layer's poles, gains and cell weights lie, so what they enter with is a free value: which elements
change, the recurrence, its rounding and where results go are as the rules say.
-/
namespace Sys2Proof.Machine

open Sys2Proof

/-! ## Streams of an instruction -/

/-- The stream numbers an instruction names (R314). -/
def streamsOf (x : Core) (p : PvisWords) : List Nat :=
  (List.range (PvisWords.f p 31 24)).map (x.regN (PvisWords.f p 36 32) + ·)

/-- The job's RUN names every stream of a list. -/
def Mod.jobNames (m : Mod) (core : Nat) (ns : List Nat) : Bool :=
  match Mod.flight m (Mod.core m core).job with
  | some f => ns.all fun n => f.streams.any (·.stream == n)
  | none => false

/-- A stream instruction on a core that has fetched it: a stream the job does not name ends the job (R314); an entry that
cannot be read parks (R525), a poisoned one ends the context (R526). -/
def Mod.streamOp (core : Nat) (p : PvisWords) (run : Ctx → List Nat → Mod → Mod) (m : Mod) : Mod :=
  let k := Mod.ctxOf m core
  let ns := streamsOf (Mod.core m core) p
  match Mod.ctx m k with
  | none => m
  | some c =>
    if !Mod.jobNames m core ns then Mod.finishJob m (Mod.core m core).job .streamAbsent
    else match Mod.entriesBad m k c (ns.map fun n => { stream := n }) with
      | some (.fault f) => Mod.parkCore m core p f .streamCopy 0
      | some (.poison va) => Mod.controlPoison m k (Mod.core m core).job core va
      | _ => run c ns m

/-- Count steps done by the job on a stream (R141). -/
def Mod.addSteps (m : Mod) (core n k : Nat) : Mod :=
  Mod.modFlight m (Mod.core m core).job fun f => { f with steps := smod 0 f.steps n (· + k) }

/-! ## The states of a tile -/

/-- A recurrence step on the elements of one stream: elements of the state in and out, with the words that go to the
layer output. -/
abbrev StateStep := StreamEntry → List (Word × Word) → List (Word × Word) × List Word

/-- What an update of several streams gives: the module, its output words, poison, or the first fault. -/
structure StateRun where
  m : Mod
  out : List Word := []
  poison : Bool := false
  fault : Option AccFault := none

/-- Read a stream's state from its pool slot, step it and write it back. -/
def StateRun.step (core ctx : Nat) (c : Ctx) (f : Nat → StateStep) (r : StateRun) (n : Nat) : StateRun :=
  if r.fault.isSome then r
  else match Mod.slotOf r.m ctx n with
    | none => r
    | some s =>
      let e := Ctx.stream c n
      let va := Mod.slotVa r.m s
      match Mod.dmaRead r.m core va e.stateSize with
      | .inl g => { r with fault := some g }
      | .inr (bs, po) =>
        let prec := streamPrec e
        let xs := (List.range (streamElems e)).map fun i => stateElem prec bs i
        let z := f n e xs
        -- stores convert to BF16 by R78
        let st := packState prec ((List.range z.1.length).map fun i =>
          let x := nth (0, 0) z.1 i
          if prec = 1 && x != nth (0, 0) xs i then ((convElem 2 1 x).1, 0) else x)
        let bytes := fitBytes e.stateSize (st ++ bs.drop st.length)
        match Mod.vaWrite r.m (clusterTlb core) ctx va bytes po with
        | (_, some (g, _)) => { r with fault := some g }
        | (m1, none) => { r with m := m1, out := r.out ++ z.2, poison := r.poison || po }

/-- First channel and channel count of SMODAL, SSCAN and SCELL. -/
def channelsOf (x : Core) (p : PvisWords) : Nat × Nat :=
  (x.regN (PvisWords.x1 p 47 43), extent16 x.regs (PvisWords.x1 p 31 16))

/-- Write output words to the output object at its offset, in the object's format (R78). DESIGN CHOICE: stream by stream,
within a stream in channel order. -/
def Mod.streamOutput (m : Mod) (core : Nat) (p : PvisWords) (per : Nat) (ws : List Word) (po : Bool) :
    Mod × Option AccFault × Bool :=
  let ctx := Mod.ctxOf m core
  let x := Mod.core m core
  let obj := val16 x.regs (PvisWords.x2 p 47 32)
  let b := outBytes (Mod.objFmt m ctx obj) (chunks per ws.length ws)
  if ws.isEmpty then (m, none, false)
  else match Mod.vaWrite m (clusterTlb core) ctx
      ((Mod.objVa m ctx obj) + x.regN (PvisWords.x2 p 31 27)) b.1 po with
    | (_, some (f, _)) => (m, some f, false)
    | (m1, none) => (m1, none, b.2)

/-- The layer's input lines in the scratchpad hold poison: `rows` rows of `n` elements in the layer's input format. -/
def Mod.inputPoison (m : Mod) (core : Nat) (p : PvisWords) (c : Ctx) (ns : List Nat) (n rows : Nat) : Bool :=
  let line := val16 (Mod.core m core).regs (PvisWords.x2 p 63 48)
  let f := match Mod.streamDecl m (Ctx.stream c (nth 0 ns 0)).layer with | some d => d.inputFormat | none => 0
  Mod.spadPoisoned m core (line * 32) (rows * rowLinesBytes f n)

/-- Finish an update of streams: the layer output, poison, condition bits and the count of steps (R141). A step of a
stream is counted by the instruction that updates its first channel. -/
def Mod.streamDone (m : Mod) (core : Nat) (p : PvisWords) (r : StateRun) (ns : List Nat) (per steps : Nat)
    (po : Bool) : Mod :=
  match r.fault with
  | some f => Mod.parkCore m core p f .coreDma 0
  | none =>
    let bad := po || r.poison
    match Mod.streamOutput r.m core p per r.out bad with
    | (_, some f, _) => Mod.parkCore m core p f .coreDma 0
    | (m1, none, sat) =>
      let m2 := ns.foldl (fun x n => if steps = 0 then x else Mod.addSteps x core n steps) m1
      let nan := r.out.any fun w => (f32 w).isNan
      Mod.orCond (Mod.macroPush (Mod.macroPoison m2 core bad) core p bad) core (condVec nan false sat false)

/-! ## Modal streams -/

/-- One per-step update of a modal stream (R148, R150): elements of channels [first, first + n) of every mode advance by
compensated accumulation in complex form; the output is the sum of the modes' real parts plus the direct term. -/
def modalStep (free first n : Nat) : StateStep := fun e xs =>
  let w (i : Nat) : Word := Config.freeWord (free + i)
  let inside (i : Nat) : Bool :=
    let c := i / 2 % max 1 e.channels
    decide (first ≤ c) && decide (c < first + n)
  let new (i : Nat) : Word × Word :=
    let j := i / 2 * 2
    let h := nth (0, 0) xs j
    let g := nth (0, 0) xs (j + 1)
    let lo (x : Word × Word) : Word := if streamPrec e = 3 then x.2 else 0
    let z := twinComplex (w (4 * i)) (w (4 * i + 1)) h.1 g.1 (lo h) (lo g) (w (4 * i + 2)) (w (4 * i + 3))
    if i % 2 = 0 then z.1 else z.2
  let ys := (List.range xs.length).map fun i => if inside i then new i else nth (0, 0) xs i
  let out := (List.range (min n (e.channels - first))).map fun k =>
    (List.range e.modes).foldl (fun acc q => fadd acc (nth (0, 0) ys ((q * e.channels + first + k) * 2)).1)
      (w (8 * xs.length + k))
  (ys, out)

/-- Free values an update of one stream takes at most. -/
def streamFree : Nat := 2 ^ 23

/-- The number of the first free value of stream `n` of an instruction. -/
def freeAt (m : Mod) (ns : List Nat) (n : Nat) : Nat := m.free + ns.findIdx (· == n) * streamFree

/-- SMODAL on a core that has fetched it. -/
def Mod.smodal (core : Nat) (p : PvisWords) (po : Bool) (c : Ctx) (ns : List Nat) (m : Mod) : Mod :=
  let ch := channelsOf (Mod.core m core) p
  let m0 := { m with free := m.free + ns.length * streamFree }
  let r := ns.foldl (StateRun.step core (Mod.ctxOf m core) c fun n => modalStep (freeAt m ns n) ch.1 ch.2) { m := m0 }
  Mod.streamDone m core p r ns ch.2 (if ch.1 = 0 then 1 else 0) (po || Mod.inputPoison m core p c ns ch.2 ns.length)

/-- `SMODAL` (R150). -/
def execSmodal (c : CoreId) (p : PvisWords) (s : State) : Out :=
  macroCmd "SMODAL" 0x80 0x7F c p s fun po => Mod.streamOp c p (Mod.smodal c p po)

/-- One phase of the chunked scan (R152). Where the parties of a scan keep their local states no rule states: the carried
state that phase 2 leaves and the outputs of phase 3 are free values; the backward pass carries no state (R155). -/
def scanStep (free first n : Nat) (carry out : Bool) (t : Nat) : StateStep := fun e xs =>
  let w (i : Nat) : Word := Config.freeWord (free + i)
  let inside (i : Nat) : Bool :=
    let c := i / 2 % max 1 e.channels
    decide (first ≤ c) && decide (c < first + n)
  let ys := (List.range xs.length).map fun i => if carry && inside i then (w (2 * i), w (2 * i + 1)) else nth (0, 0) xs i
  (ys, if out then (List.range (t * min n (e.channels - first))).map fun k => w (2 * xs.length + k) else [])

/-- SSCAN on a core that has fetched it. -/
def Mod.sscan (core : Nat) (p : PvisWords) (po : Bool) (c : Ctx) (ns : List Nat) (m : Mod) : Mod :=
  let ch := channelsOf (Mod.core m core) p
  let phase := PvisWords.f p 17 16
  let t := 2 ^ PvisWords.f p 15 12
  let back := PvisWords.f p 11 11 == 1
  let m0 := { m with free := m.free + ns.length * streamFree }
  let r := ns.foldl (StateRun.step core (Mod.ctxOf m core) c fun n =>
    scanStep (freeAt m ns n) ch.1 ch.2 (phase == 2 && !back) (phase == 3) t) { m := m0 }
  let steps := if phase = 3 && !back && ch.1 = 0 then t else 0
  Mod.streamDone m core p r ns ch.2 steps (po || Mod.inputPoison m core p c ns ch.2 (ns.length * t))

/-- `SSCAN` (R152). -/
def execSscan (c : CoreId) (p : PvisWords) (s : State) : Out :=
  macroCmd "SSCAN" 0x81 0x7F c p s fun po => Mod.streamOp c p (Mod.sscan c p po)

/-! ## Gated cells -/

/-- Sigmoid and tanh of the gate pipeline (R103). -/
def sigmoidOf (w : Word) : Word := (gateFn 1 w).1

/-- tanh. -/
def tanhOf (w : Word) : Word := (gateFn 2 w).1

/-- One LSTM step of a stream (R105, R154): h, then c, channel by channel. -/
def lstmStep (free first n : Nat) : StateStep := fun e xs =>
  let w (i : Nat) : Word := Config.freeWord (free + i)
  let chans := (List.range e.channels).map fun k =>
    let h := nth (0, 0) xs k
    let c := nth (0, 0) xs (e.channels + k)
    if first ≤ k ∧ k < first + n then
      let i := fmul (sigmoidOf (w (4 * k))) (tanhOf (w (4 * k + 1)))
      let c' := ffma (sigmoidOf (w (4 * k + 2))) c.1 i
      ((fmul (sigmoidOf (w (4 * k + 3))) (tanhOf c'), (0 : Word)), (c', (0 : Word)))
    else (h, c)
  let hs := chans.map (·.1)
  (hs ++ chans.map (·.2), ((hs.drop first).take n).map (·.1))

/-- One GRU step of a stream (R106, R154). -/
def gruStep (free first n : Nat) : StateStep := fun e xs =>
  let w (i : Nat) : Word := Config.freeWord (free + i)
  let hs := (List.range e.channels).map fun k =>
    let h := nth (0, 0) xs k
    if first ≤ k ∧ k < first + n then
      let a := fmul (sigmoidOf (w (4 * k))) (w (4 * k + 1))
      let z := sigmoidOf (w (4 * k + 2))
      let c := tanhOf (fadd (w (4 * k + 3)) a)
      (ffma z (fsub h.1 c) c, (0 : Word))
    else h
  (hs, ((hs.drop first).take n).map (·.1))

/-- SCELL on a core that has fetched it. -/
def Mod.scell (core : Nat) (p : PvisWords) (po : Bool) (c : Ctx) (ns : List Nat) (m : Mod) : Mod :=
  let ch := channelsOf (Mod.core m core) p
  let gru := PvisWords.f p 11 11 == 1
  let m0 := { m with free := m.free + ns.length * streamFree }
  let r := ns.foldl (StateRun.step core (Mod.ctxOf m core) c fun n =>
    let k := (Ctx.stream c n).kind
    if gru && k == 3 then gruStep (freeAt m ns n) ch.1 ch.2
    else if !gru && k == 2 then lstmStep (freeAt m ns n) ch.1 ch.2
    else fun _ xs => (xs, [])) { m := m0 }
  Mod.streamDone m core p r ns ch.2 (if ch.1 = 0 then 1 else 0) (po || Mod.inputPoison m core p c ns ch.2 ns.length)

/-- `SCELL` (R154). -/
def execScell (c : CoreId) (p : PvisWords) (s : State) : Out :=
  macroCmd "SCELL" 0x82 0x7F c p s fun po => Mod.streamOp c p (Mod.scell c p po)

/-! ## Reset and anchor -/

/-- Reset streams at this point of the program (R143): those with reset set are initialised, and the steps counted for
them so far go. -/
def Mod.resetNow (m : Mod) (core : Nat) (p : PvisWords) (ns : List Nat) : Mod :=
  let k := Mod.ctxOf m core
  match Mod.applyResets m k ns with
  | (m1, some f) => Mod.parkCore m1 core p f .streamCopy 0
  | (m1, none) => Mod.modFlight m1 (Mod.core m core).job fun f =>
      { f with steps := ns.foldl (fun t n => sset 0 t n 0) f.steps }

/-- `SRESET` (R143, R314). -/
def execSreset (c : CoreId) (p : PvisWords) (s : State) : Out :=
  macroCmd "SRESET" 0x83 0x7F c p s fun _ => Mod.streamOp c p fun _ ns m =>
    let k := Mod.ctxOf m c
    Mod.resetNow (ns.foldl (fun x n => Mod.modStream x k n fun e => { e with reset := true }) m) c p ns

/-- The anchors SANCHOR gives (R314): the object's address plus the offset plus i × the stride. -/
def Mod.anchorsOf (m : Mod) (core : Nat) (p : PvisWords) (ns : List Nat) : List (Nat × Nat) :=
  let x := Mod.core m core
  let base := (Mod.objVa m (Mod.ctxOf m core) (PvisWords.x1 p 63 48)) + x.regN (PvisWords.x1 p 47 43)
  (List.range ns.length).map fun i => (nth 0 ns i, (base + i * x.regN (PvisWords.x1 p 42 38)) % 2 ^ 48)

/-- `SANCHOR` (R314). -/
def execSanchor (c : CoreId) (p : PvisWords) (s : State) : Out :=
  macroCmd "SANCHOR" 0x84 0x7F c p s fun _ => Mod.streamOp c p fun _ ns m =>
    let k := Mod.ctxOf m c
    let as := Mod.anchorsOf m c p ns
    if as.any fun a => a.2 % 64 != 0 then Mod.kill m c .region .controlUnit 0 (Core.here ((Mod.core m c).unfetch p .none))
    else Mod.resetNow (as.foldl (fun x a => Mod.modStream x k a.1 fun e => { e with reset := true, anchorPtr := a.2 }) m)
      c p ns

end Sys2Proof.Machine
end

