-- ==== Sys2Proof/Machine/Sync.lean ====
section
/-!
DEFINITION. Synchronisation: flag instructions (R316, R322 to R328), hatband lines (R317, R333 to R335), work counters
(R40 to R44, R318), and FENCE (R319, R339).
-/
namespace Sys2Proof.Machine

open Sys2Proof

/-! ## Flags -/

/-- FSET or FCLR on a core that has fetched it: the flag changes once the masked engines have completed. -/
def Mod.flagInstr (c : Nat) (p : PvisWords) (val : Bool) (m : Mod) : Mod :=
  Mod.settle (Mod.modCore m c fun x => { x with wait := .flagOp (PvisWords.f p 11 0) val (PvisWords.f p 23 16) }) c

/-- `FSET` (R316). -/
def execFset (c : CoreId) (p : PvisWords) (s : State) : Out := coreCmd "FSET" 0xA0 c p s id (Mod.flagInstr c p true)

/-- `FCLR` (R316). -/
def execFclr (c : CoreId) (p : PvisWords) (s : State) : Out := coreCmd "FCLR" 0xA1 c p s id (Mod.flagInstr c p false)

/-- FWAITS or FWAITC on a core that has fetched it (R327): a flag that has the value already satisfies it at once. -/
def Mod.flagWait (c : Nat) (p : PvisWords) (val : Bool) (m : Mod) : Mod :=
  let v := PvisWords.f p 11 0
  if Mod.flagValue m (Mod.ctxOf m c) (c / 16) v = val then m
  else Mod.visor (Mod.modCore m c fun x => { x with wait := .flag v val false }) (c / 16) 0x12 1

/-- `FWAITS` (R316). -/
def execFwaits (c : CoreId) (p : PvisWords) (s : State) : Out := coreCmd "FWAITS" 0xA2 c p s id (Mod.flagWait c p true)

/-- `FWAITC` (R316). -/
def execFwaitc (c : CoreId) (p : PvisWords) (s : State) : Out := coreCmd "FWAITC" 0xA3 c p s id (Mod.flagWait c p false)

/-- FLAG_WAIT_SATISFIED on the module (R327): the home has held a value that matched since the wait was registered. A
halo instruction goes on once its own copy of the slot's flag has the value (R134, R325). -/
def Mod.flagDone (m : Mod) (c : Nat) : Mod :=
  match (Mod.core m c).wait with
  | .flag _ _ true => Mod.modCore m c fun x => { x with wait := .none }
  | .halo _ _ _ p => Mod.haloRun c p (Mod.modCore m c fun x => { x with wait := .none })
  | _ => m

/-- `FLAG_WAIT_SATISFIED` (R327). -/
def execFlagWaitSatisfied (c : CoreId) (s : State) : Out := .next (s.onMod fun m => Mod.flagDone m c)

/-! ## Hatband lines -/

/-- The physical line a context's virtual line is bound to (R336). -/
def Mod.lineOf (m : Mod) (k v : Nat) : Option Nat :=
  match Mod.ctx m k with
  | some c => (match sget 0 c.lines v with | 0 => none | n + 1 => some n)
  | none => none

/-- The release sense of a line. -/
def Mod.release (m : Mod) (n : Nat) : Bool := sget false m.dev.release n

/-- A core's recorded arrival on a virtual line is in a phase not yet released (R334, R335). -/
def Mod.unreleased (m : Mod) (c v n : Nat) : Bool :=
  let ph := sget 0 (Mod.core m c).phaseOf v
  ph != 0 && Mod.release m n != (ph == 2)

/-- Record a core's arrival on a line; the cluster's tap arrives with the last of its 16 cores (R317, R333). -/
def Mod.arrive (m : Mod) (c v n : Nat) : Mod :=
  let l := c / 16
  let k := Mod.cluster m l
  let a := !sget false k.taps n
  let bits := sget 0 k.arrivals n ||| 2 ^ (c % 16)
  let m1 := Mod.modCore m c fun x => { x with phaseOf := sset 0 x.phaseOf v (1 + b2n a), wait := .none }
  if bits = 2 ^ 16 - 1 then
    Mod.visor (Mod.modCluster m1 l fun x =>
      { x with taps := sset false x.taps n a, arrivals := sset 0 x.arrivals n 0 }) l 0x13 1
  else Mod.modCluster m1 l fun x => { x with arrivals := sset 0 x.arrivals n bits }

/-- HBARR on a core that has fetched it (R334). -/
def Mod.hbarr (c : Nat) (p : PvisWords) (m : Mod) : Mod :=
  let v := PvisWords.f p 3 0
  match Mod.lineOf m (Mod.ctxOf m c) v with
  | none => m
  | some n => if Mod.unreleased m c v n then Mod.modCore m c fun x => { x with wait := .arrive v } else Mod.arrive m c v n

/-- `HBARR` (R334). -/
def execHbarr (c : CoreId) (p : PvisWords) (s : State) : Out := coreCmd "HBARR" 0xA4 c p s id (Mod.hbarr c p)

/-- HBWAIT on a core that has fetched it (R334). -/
def Mod.hbwait (c : Nat) (p : PvisWords) (m : Mod) : Mod :=
  let v := PvisWords.f p 3 0
  match Mod.lineOf m (Mod.ctxOf m c) v with
  | none => m
  | some n =>
    if Mod.unreleased m c v n then
      Mod.modCore m c fun x => { x with wait := .release v (sget 0 x.phaseOf v == 2) }
    else m

/-- `HBWAIT` (R334). -/
def execHbwait (c : CoreId) (p : PvisWords) (s : State) : Out := coreCmd "HBWAIT" 0xA5 c p s id (Mod.hbwait c p)

/-- Every enrolled tap has arrived: its sense differs from the release sense (R333). -/
def Mod.allArrived (m : Mod) (n : Nat) : Bool :=
  let es := sget [] m.dev.enrolled n
  !es.isEmpty && es.all fun l => sget false (Mod.cluster m l).taps n != Mod.release m n

/-- Let a core that waits on a line go on, if its phase is released. -/
def Mod.resumeLine (n : Nat) (m : Mod) (c : Nat) : Mod :=
  let x := Mod.core m c
  match x.wait with
  | .release v _ =>
    if Mod.lineOf m (Mod.ctxOf m c) v == some n && !Mod.unreleased m c v n then
      Mod.modCore m c fun y => { y with wait := .none }
    else m
  | .arrive v =>
    if Mod.lineOf m (Mod.ctxOf m c) v == some n && !Mod.unreleased m c v n then Mod.arrive m c v n else m
  | _ => m

/-- HATBAND_RELEASE on the module (R333): the release sense inverts once every enrolled tap has arrived, and the waiting
cores of released phases go on; a core restored after its release goes on here too (R337). -/
def Mod.hatRelease (m : Mod) (n : Nat) : Mod :=
  let m1 := if Mod.allArrived m n then
    { m with dev := { m.dev with release := sset false m.dev.release n (!Mod.release m n) } } else m
  (m1.cores.map (·.1)).foldl (Mod.resumeLine n) m1

/-- `HATBAND_RELEASE` (R333). -/
def execHatbandRelease (line : Fin 16) (s : State) : Out := .next (s.onMod fun m => Mod.hatRelease m line)

/-! ## Work counters -/

/-- Where a counter is held. -/
inductive CtrPlace where
  | cluster (l key : Nat)
  | device (n : Nat)
  | none
  deriving DecidableEq, Repr, Inhabited

/-- The counter an instruction names (R44, R318). -/
def Mod.ctrPlace (m : Mod) (c : Nat) (p : PvisWords) : CtrPlace :=
  let k := Mod.ctxOf m c
  if PvisWords.f p 23 23 = 0 then .cluster (c / 16) (k * 4 + PvisWords.f p 18 17)
  else match Mod.ctx m k with
    | some x => (match x.devCtrs[PvisWords.f p 22 17]? with | some n => .device n | none => .none)
    | none => .none

/-- Read a counter. -/
def Mod.counter (m : Mod) : CtrPlace → Counter
  | .cluster l key => sget {} (Mod.cluster m l).counters key
  | .device n => sget {} m.dev.counters n
  | .none => {}

/-- Write a counter. -/
def Mod.setCounter (m : Mod) (w : CtrPlace) (x : Counter) : Mod :=
  match w with
  | .cluster l key => Mod.modCluster m l fun y => { y with counters := sset {} y.counters key x }
  | .device n => { m with dev := { m.dev with counters := sset {} m.dev.counters n x } }
  | .none => m

/-- A take (R40, R42): what it returns and the counter after it. -/
def Counter.take (x : Counter) (n : Nat) : (Nat × Nat × Bool) × Counter :=
  let w := decide (2 ^ 32 ≤ x.value + n)
  let e := if w then (x.epoch + 1) % 2 ^ 16 else x.epoch
  ((x.value, e, w), { value := (x.value + n) % 2 ^ 32, epoch := e, wrap := x.wrap || w })

/-- A set (R40). -/
def Counter.set (x : Counter) (v : Nat) : Counter := { value := v % 2 ^ 32, epoch := (x.epoch + 1) % 2 ^ 16, wrap := false }

/-- Give a counter's result to a register pair (R318). -/
def Mod.putCounter (m : Mod) (c rd : Nat) (r : Nat × Nat × Bool) : Mod :=
  Mod.putReg (Mod.putReg m c rd (BitVec.ofNat 32 r.1)) c (rd + 1) (BitVec.ofNat 32 (r.2.1 + 65536 * b2n r.2.2))

/-- CTAKE on a core that has fetched it. -/
def Mod.ctake (c : Nat) (p : PvisWords) (m : Mod) : Mod :=
  let w := Mod.ctrPlace m c p
  let r := (Mod.counter m w).take (val16 (Mod.core m c).regs (PvisWords.f p 15 0))
  Mod.visor (Mod.putCounter (Mod.setCounter m w r.2) c (fieldRd p) r.1) (c / 16) 0x14 1

/-- `CTAKE` (R40). -/
def execCtake (c : CoreId) (p : PvisWords) (s : State) : Out := coreCmd "CTAKE" 0xA6 c p s (Mod.zeroOut c) (Mod.ctake c p)

/-- CPEEK on a core that has fetched it. -/
def Mod.cpeek (c : Nat) (p : PvisWords) (m : Mod) : Mod :=
  let x := Mod.counter m (Mod.ctrPlace m c p)
  Mod.putCounter m c (fieldRd p) (x.value, x.epoch, x.wrap)

/-- `CPEEK` (R40). -/
def execCpeek (c : CoreId) (p : PvisWords) (s : State) : Out := coreCmd "CPEEK" 0xA7 c p s id (Mod.cpeek c p)

/-- CSET on a core that has fetched it. -/
def Mod.cset (c : Nat) (p : PvisWords) (m : Mod) : Mod :=
  let w := Mod.ctrPlace m c p
  Mod.setCounter m w ((Mod.counter m w).set ((Mod.core m c).reg (fieldRa p)).toNat)

/-- `CSET` (R40). -/
def execCset (c : CoreId) (p : PvisWords) (s : State) : Out := coreCmd "CSET" 0xA8 c p s id (Mod.cset c p)

/-! ## FENCE -/

/-- FENCE on a core that has fetched it. -/
def Mod.fenceInstr (c : Nat) (p : PvisWords) (m : Mod) : Mod :=
  Mod.settle (Mod.modCore m c fun x => { x with wait := .fence (PvisWords.f p 1 0) (PvisWords.f p 15 8) }) c

/-- `FENCE` (R319). -/
def execFence (c : CoreId) (p : PvisWords) (s : State) : Out := coreCmd "FENCE" 0xB0 c p s id (Mod.fenceInstr c p)

end Sys2Proof.Machine
end

