-- ==== Sys2Proof/Machine/Visor.lean ====
section
/-!
DEFINITION. The visor's registers and snapshots (R472 to R476), and the event instructions (R320).
-/
namespace Sys2Proof.Machine

open Sys2Proof

/-- The writable bits of VIS_CLSEL_c: bits [15:14] of each selector are reserved. -/
def clselMask : DWord := 0x3FFF_3FFF_3FFF_3FFF

/-- Write VIS_CLSEL_c (R472): it takes effect in each cluster at the context's next job start there. -/
def Mod.writeClsel (m : Mod) (c : Nat) (v : DWord) : Mod :=
  { m with vis := { m.vis with clsel := sset 0 m.vis.clsel c (v &&& clselMask) } }

/-- `VIS_CLSEL_WRITE` (R472). -/
def execVisClselWrite (ctx : Fin 16) (v : DWord) (s : State) : Out := .next (s.onReg fun m => Mod.writeClsel m ctx v)

/-- The writable bits of VIS_BRSEL_n. -/
def brselMask : Word := 0x00FF_3FFF

/-- Write VIS_BRSEL_n (R473): at once, and the counter is zeroed. -/
def Mod.writeBrsel (m : Mod) (n : Nat) (v : Word) : Mod :=
  { m with vis := { m.vis with
      brsel := sset 0 m.vis.brsel n ((v &&& brselMask) ^^^ 0x00FF_0000)
      brVals := sset {} m.vis.brVals n {} } }

/-- `VIS_BRSEL_WRITE` (R473). -/
def execVisBrselWrite (n : Fin 64) (v : Word) (s : State) : Out := .next (s.onReg fun m => Mod.writeBrsel m n v)

/-! ## Snapshots -/

/-- A counter word (R474). -/
def countWord (c : VCount) (sel : Nat) : List Byte :=
  leBytes 8 (c.value + b2n c.overflow * 2 ^ 48 + fld sel 7 0 * 2 ^ 56)

/-- The header of a snapshot (R474); reading and writing take no time in this model. -/
def snapHeader (kind ctx records seq time : Nat) : List Byte :=
  leBytes 4 0x5049_5356 ++ leBytes 1 kind ++ leBytes 1 ctx ++ leBytes 2 records ++ leBytes 4 seq ++ leBytes 4 0
    ++ leBytes 8 time ++ leBytes 8 time ++ leBytes 32 0

/-- The record of a cluster for a context (R474). -/
def Mod.clusterRecord (m : Mod) (k l : Nat) : List Byte :=
  let key := l * 16 + k
  let saved := match Mod.ctx m k with
    | some c => sget (default : SavedCluster) c.saves l != default
    | none => false
  let sel := (sget 0 m.vis.clInForce key).toNat
  leBytes 2 l ++ leBytes 1 (Mod.cluster m l).marker ++ leBytes 1 (b2n saved) ++ leBytes 4 0
    ++ ((List.range 4).flatMap fun i => countWord (sget {} m.vis.clVals (key * 4 + i)) (fld sel (16 * i + 15) (16 * i)))
    ++ leBytes 8 0

/-- The record of a brim die (R474). -/
def Mod.brimRecord (m : Mod) (d : Nat) : List Byte :=
  leBytes 1 d ++ leBytes 7 0
    ++ (List.range 16).flatMap fun i => countWord (sget {} m.vis.brVals (d * 16 + i)) (Mod.brsel m (d * 16 + i))

/-- A snapshot's bytes: the header counts it as the next one written since power-up. -/
def Mod.snapBytes (m : Mod) (kind ctx : Nat) (recs : List (List Byte)) : List Byte :=
  snapHeader kind ctx recs.length ((m.vis.snaps + 1) % 2 ^ 32) m.sys.timer.toNat ++ recs.flatMap id

/-- Clusters where a context has a role. -/
def Mod.ctxRoleClusters (m : Mod) (k : Nat) : List Nat :=
  match Mod.ctx m k with | some c => (Image.clusterList c.image).eraseDups | none => []

/-- A host snapshot (R475, R476): the records, the header, and the counters zeroed where the snapshot asks for it. -/
def Mod.hostSnap (m : Mod) (v : Word) : Mod :=
  let x := v.toNat
  if !bitAt x 0 || m.vis.busy then m
  else
    let k := fld x 7 4
    let brim := bitAt x 2
    let recs := if brim then (List.range 4).map (Mod.brimRecord m) else (Mod.ctxRoleClusters m k).map (Mod.clusterRecord m k)
    let bytes := if brim then Mod.snapBytes m 2 0xFF recs else Mod.snapBytes m 1 k recs
    let m1 := Mod.hostWrite m m.vis.snapAddr.toNat bytes false
    let vis := { m1.vis with snaps := m1.vis.snaps + 1 }
    { m1 with vis :=
        if !bitAt x 1 then vis
        else if brim then { vis with brVals := [] }
        else { vis with clVals := vis.clVals.filter fun p => p.1 / 4 % 16 != k } }

/-- `VIS_SNAP_GO` (R476). -/
def execVisSnapGo (v : Word) (s : State) : Out := .next (s.onReg fun m => Mod.hostSnap m v)

/-! ## Event instructions -/

/-- EVMARK on a core that has fetched it (R320, R474). -/
def Mod.evmark (c : Nat) (p : PvisWords) (m : Mod) : Mod :=
  Mod.visor (Mod.modCluster m (c / 16) fun l => { l with marker := PvisWords.f p 7 0 }) (c / 16) 0x23 1

/-- `EVMARK` (R320). -/
def execEvmark (c : CoreId) (p : PvisWords) (s : State) : Out := coreCmd "EVMARK" 0xC0 c p s id (Mod.evmark c p)

/-- EVSNAP on a core that has fetched it (R476): written through the DMA engine to an object; a fault parks it. -/
def Mod.evsnap (c : Nat) (p : PvisWords) (m : Mod) : Mod :=
  let k := Mod.ctxOf m c
  let va := (Mod.objVa m k (PvisWords.f p 31 16)) + ((Mod.core m c).reg (fieldRd p)).toNat
  match Mod.vaWrite m (clusterTlb c) k va (Mod.snapBytes m 0 k [Mod.clusterRecord m k (c / 16)]) false with
  | (m1, some (f, _)) => Mod.parkCore m1 c p f .coreDma 0
  | (m1, none) =>
    let m2 := Mod.countDma m1 c k va 112 true
    { m2 with vis := { m2.vis with snaps := m2.vis.snaps + 1 } }

/-- `EVSNAP` (R476). -/
def execEvsnap (c : CoreId) (p : PvisWords) (s : State) : Out := macroCmd "EVSNAP" 0xC1 0x20 c p s fun _ => Mod.evsnap c p

end Sys2Proof.Machine
end

