-- ==== Sys2Proof/Machine/Registers.lean ====
section
/-!
DEFINITION. The set-up registers (R511 to R523): the map of BAR0, what each register reads, what a write to it does, and
accesses in halves.
-/
namespace Sys2Proof.Machine

open Sys2Proof

/-- The registers of BAR0 (R516). -/
inductive Reg where
  | sqBase (n : Nat) | sqDoorbell (n : Nat) | sqCtrl (n : Nat) | sqFetch (n : Nat)
  | cqBase (n : Nat) | cqHead (n : Nat) | cqCtrl (n : Nat) | cqPosted (n : Nat)
  | hifCtrl | bar4Base | linkStatus
  | faultBase | faultHead | faultCtrl | faultStatus
  | site (n : Nat) | flpQueues (n : Nat) | flpPort (n : Nat)
  | coord | buddyCtrl | buddyArea | declare | portCtrl (p : Nat) | portStatus (p : Nat)
  | crnStatus | crnArb | crnMbox | crnTimer | crnPreempt
  | pwrCeiling | pwrStatus | pwrFloor (n : Nat) | pwrPin (n : Nat) | pwrIsland (n : Nat)
  | clsel (c : Nat) | brsel (n : Nat) | snapAddr | snapCtrl
  | secStatus | secPolicy | sideband
  | msix (w : Nat) | pba (w : Nat)
  deriving DecidableEq, Repr

/-- The registers of the HIF block's rings. -/
def ringRegAt (off : Nat) : Option Reg :=
  let n := off % 0x800 / 32
  let r := off % 32
  if off < 0x800 then
    (if r = 0 then some (.sqBase n) else if r = 8 then some (.sqDoorbell n) else if r = 0x10 then some (.sqCtrl n)
     else if r = 0x18 then some (.sqFetch n) else none)
  else
    (if r = 0 then some (.cqBase n) else if r = 8 then some (.cqHead n) else if r = 0x10 then some (.cqCtrl n)
     else if r = 0x18 then some (.cqPosted n) else none)

/-- An element of an array of `n` registers of `w` bytes from `base` on. -/
def elem (off base w n : Nat) : Option Nat :=
  if base ≤ off ∧ off < base + w * n ∧ (off - base) % w = 0 then some ((off - base) / w) else none

/-- The single registers. -/
def singleRegAt (off : Nat) : Option Reg :=
  if off = 0x1000 then some .hifCtrl else if off = 0x1008 then some .bar4Base else if off = 0x1018 then some .linkStatus
  else if off = 0x1400 then some .faultBase else if off = 0x1408 then some .faultHead
  else if off = 0x1410 then some .faultCtrl else if off = 0x1418 then some .faultStatus
  else if off = 0x2000 then some .coord else if off = 0x2040 then some .buddyCtrl
  else if off = 0x2048 then some .buddyArea else if off = 0x2050 then some .declare
  else if off = 0x3000 then some .crnStatus else if off = 0x3008 then some .crnArb else if off = 0x3010 then some .crnMbox
  else if off = 0x3018 then some .crnTimer else if off = 0x3100 then some .crnPreempt
  else if off = 0x4000 then some .pwrCeiling else if off = 0x4008 then some .pwrStatus
  else if off = 0x6180 then some .snapAddr else if off = 0x6188 then some .snapCtrl
  else if off = 0x7000 then some .secStatus else if off = 0x7008 then some .secPolicy
  else if off = 0x8000 then some .sideband
  else none

/-- The register arrays outside the ring block. -/
def arrayRegAt (off : Nat) : Option Reg :=
  [(elem off 0x1800 8 16).map Reg.site, (elem off 0x1C00 8 4).map Reg.flpQueues, (elem off 0x1C40 8 4).map Reg.flpPort,
    (elem off 0x2100 8 16).map Reg.portCtrl, (elem off 0x2180 8 16).map Reg.portStatus,
    (elem off 0x4400 4 256).map Reg.pwrFloor, (elem off 0x4800 4 256).map Reg.pwrPin,
    (elem off 0x4C00 8 256).map Reg.pwrIsland, (elem off 0x6000 8 16).map Reg.clsel, (elem off 0x6080 4 64).map Reg.brsel,
    (elem off 0xE000 4 1024).map Reg.msix, (elem off 0xF000 4 8).map Reg.pba].findSome? id

/-- The register at an offset of BAR0 (R512, R516). -/
def regAt (off : Nat) : Option Reg :=
  if off < 0x1000 then ringRegAt off
  else match singleRegAt off with | some r => some r | none => arrayRegAt off

/-- The register is 64 bits wide. -/
def Reg.wide : Reg → Bool
  | .sqCtrl _ | .sqFetch _ | .hifCtrl | .linkStatus | .faultCtrl | .portCtrl _ | .crnStatus | .crnArb | .crnMbox
  | .pwrCeiling | .pwrFloor _ | .pwrPin _ | .brsel _ | .snapCtrl | .secPolicy | .sideband | .msix _ | .pba _ => false
  | _ => true

/-- The register belongs to a resource the grade lacks (R2, R512). -/
def Mod.regAbsent (m : Mod) : Reg → Bool
  | .site n => !Mod.hasSite m n
  | .flpQueues n | .flpPort n => decide (Config.flashPorts m.sys.grade ≤ n)
  | .portCtrl p | .portStatus p => Mod.portAbsent m p
  | _ => false

/-! ## What registers read -/

/-- GDS_SITE_n. -/
def Mod.readSite (m : Mod) (n : Nat) : Nat :=
  let x := Mod.site m n
  Mod.siteState m n + 256 * x.rate + 2 ^ 16 * (x.temp % 256) + 2 ^ 24 * min 4096 (granuleCount m.mem.granules n)
    + 2 ^ 37 * blockCount m.mem.blocks n

/-- FLP_PORT_n. -/
def Mod.readFlp (m : Mod) (n : Nat) : Nat :=
  let d := Mod.drive m n
  Mod.driveState m n + 16 * d.gen + 256 * d.width + 2 ^ 16 * d.lcGranted + 2 ^ 24 * d.beGranted + 2 ^ 32 * d.wrGranted

/-- LNK_PORT_STATUS_p. -/
def Mod.readPort (m : Mod) (p : Nat) : Nat :=
  let q := Mod.port m p
  q.state + 16 * q.lanes + 256 * (q.partnerPort % 256) + 2 ^ 16 * (q.partnerX % 256) + 2 ^ 24 * (q.partnerY % 256)
    + 2 ^ 32 * (q.partnerZ % 256) + 2 ^ 40 * b2n q.partnerSpare + 2 ^ 48 * min 65535 q.replays

/-- CRN_STATUS. -/
def Mod.crnStatus (m : Mod) : Nat :=
  b2n m.sys.serviceReady + 2 * m.sys.crown + 256 * b2n m.sys.failing + 4096 * m.sys.failReason + 65536 * Mod.liveContexts m

/-- PWR_STATUS. -/
def Mod.pwrStatus (m : Mod) : Nat :=
  let p := m.pwr
  p.effective + 2 ^ 16 * p.inputW + 2 ^ 32 * b2n p.unmetLatch
    + 2 ^ 33 * b2n (p.islands.any fun q => decide (q.2.thermalCap < maxMv)) + 2 ^ 34 * b2n p.braked
    + 2 ^ 35 * b2n (p.islands.any fun q => q.2.byCurrent) + 2 ^ 36 * b2n p.warmup
    + 2 ^ 37 * b2n (p.islands.any fun q => q.2.uvHold) + 2 ^ 40 * (p.islands.filter fun q => q.2.unmet).length

/-- PWR_ISLAND_n. -/
def Mod.readIsland (m : Mod) (n : Nat) : Nat :=
  let x := Mod.island m n
  x.mv + 2 ^ 10 * x.rate + 2 ^ 22 * x.hot + 2 ^ 32 * b2n x.byFloor + 2 ^ 33 * b2n x.byPin + 2 ^ 34 * b2n x.byCeiling
    + 2 ^ 35 * b2n x.byThermal + 2 ^ 36 * b2n x.byBrake + 2 ^ 37 * b2n x.byCurrent + 2 ^ 38 * b2n x.unmet
    + 2 ^ 39 * b2n x.uvHold

/-- A word of the MSI-X table. -/
def Mod.readMsix (m : Mod) (w : Nat) : Nat :=
  let x := sget 0 m.host.msixTable w
  (if w % 4 = 3 then x ^^^ 1 else x).toNat

/-- A word of the pending-bit array. -/
def Mod.readPba (m : Mod) (w : Nat) : Nat :=
  (List.range 32).foldl (fun a i => a + 2 ^ i * b2n (sget false m.host.msixPend (32 * w + i))) 0

/-- The value of a register; write-only fields read 0. -/
def State.regValue (s : State) (r : Reg) : Nat :=
  let m := s.mod
  match r with
  | .sqBase n => (Mod.sq m n).base.toNat
  | .sqDoorbell n => (Mod.sq m n).doorbell.toNat
  | .sqCtrl n => (Mod.sq m n).ctrl.toNat + 2 ^ 24 * b2n (Mod.sq m n).stopped
  | .sqFetch n => (Mod.sq m n).fetched.toNat
  | .cqBase n => (Mod.cq m n).base.toNat
  | .cqHead n => (Mod.cq m n).headAddr.toNat
  | .cqCtrl n => (Mod.cq m n).ctrl.toNat + 2 * b2n (Mod.cq m n).phase
  | .cqPosted n => (Mod.cq m n).posted.toNat + 2 ^ 32 * ((Mod.cq m n).reserved % 65536)
  | .hifCtrl => m.host.ctrl.toNat
  | .bar4Base => m.host.bar4Base.toNat
  | .linkStatus => m.host.linkStatus.toNat
  | .faultBase => m.flt.base.toNat
  | .faultHead => m.flt.headAddr.toNat
  | .faultCtrl => m.flt.ctrl.toNat
  | .faultStatus => m.flt.written.toNat + 2 ^ 32 * min 64 m.flt.buffered.length + 2 ^ 39 * b2n m.flt.phase
  | .site n => Mod.readSite m n
  | .flpQueues n => (Mod.drive m n).queues.toNat
  | .flpPort n => Mod.readFlp m n
  | .coord => m.fab.coord.toNat
  | .buddyCtrl => m.rcv.buddyCtrl.toNat
  | .buddyArea => m.rcv.buddyArea.toNat
  | .declare => 0
  | .portCtrl p => b2n (Mod.port m p).enable
  | .portStatus p => Mod.readPort m p
  | .crnStatus => Mod.crnStatus m
  | .crnArb => m.sys.arb.toNat
  | .crnMbox => b2n s.mgt.outReady + 2 * b2n s.mgt.inBusy + 256 * s.mgt.mboxVector.toNat + 65536 * b2n s.mgt.mboxIrq
  | .crnTimer => m.sys.timer.toNat
  | .crnPreempt => m.sys.preempt.toNat
  | .pwrCeiling => m.pwr.hostCeiling + 2 ^ 16 * m.pwr.mgmtCeiling
  | .pwrStatus => Mod.pwrStatus m
  | .pwrFloor n => (sget 0 m.pwr.floors n).toNat
  | .pwrPin n => (sget 0 m.pwr.pins n).toNat
  | .pwrIsland n => Mod.readIsland m n
  | .clsel c => (sget 0 m.vis.clsel c).toNat
  | .brsel n => Mod.brsel m n
  | .snapAddr => m.vis.snapAddr.toNat
  | .snapCtrl => 2 ^ 16 * b2n m.vis.busy
  | .secStatus => s.secStatus
  | .secPolicy => s.mgt.policy.toNat
  | .sideband => s.mgt.sideband.toNat
  | .msix w => Mod.readMsix m w
  | .pba w => Mod.readPba m w

/-- The value at an offset: 0 where there is no register, or one of an absent resource (R512). -/
def State.regRead (s : State) (off : Nat) : Nat :=
  match regAt off with
  | some r => if Mod.regAbsent s.mod r then 0 else s.regValue r
  | none => 0

/-- A read of `size` bytes of BAR0 (R511). A 4-byte read of a lower half latches the upper half for the next 4-byte read of it.
A bad size or alignment reads 0. -/
def State.barRead (s : State) (off size : Nat) : Nat × State :=
  if (size ≠ 4 ∧ size ≠ 8) ∨ off % size ≠ 0 then (0, s)
  else
    let base := off / 8 * 8
    let wide := match regAt base with | some r => r.wide | none => false
    let latched (l : Option (Nat × Word)) : State := { s with mod := { s.mod with sys := { s.mod.sys with latch := l } } }
    if size = 8 then (if wide then s.regRead base else s.regRead base + 2 ^ 32 * s.regRead (base + 4), s)
    else if !wide then (s.regRead off, s)
    else if off = base then
      (s.regRead base % 2 ^ 32, latched (some (off, BitVec.ofNat 32 (s.regRead base / 2 ^ 32))))
    else match s.mod.sys.latch with
      | some (o, v) => if o = base then (v.toNat, latched none) else (s.regRead base / 2 ^ 32, s)
      | none => (s.regRead base / 2 ^ 32, s)

/-! ## What writes do -/

/-- Write a register of a submission ring other than its control register: ignored while the ring is enabled (R517). -/
def Mod.writeSq (m : Mod) (n : Nat) (f : Sq → Sq) : Mod :=
  if (Mod.sq m n).enabled then m else Mod.setSq m n (f (Mod.sq m n))

/-- The same for a completion ring. -/
def Mod.writeCq (m : Mod) (n : Nat) (f : Cq → Cq) : Mod :=
  if (Mod.cq m n).enabled then m else Mod.setCq m n (f (Mod.cq m n))

/-- The same for the fault ring (R520). -/
def Mod.writeFlt (m : Mod) (f : FaultRing → FaultRing) : Mod := if m.flt.enabled then m else { m with flt := f m.flt }

/-- `v` with its low `k` bits cleared. -/
def clearLow (v k : Nat) : DWord := BitVec.ofNat 64 (v / 2 ^ k * 2 ^ k)

/-- Write LNK_PORT_CTRL_p (R522): the enable, then the retrain. -/
def Mod.writePortCtrl (m : Mod) (p v : Nat) : Mod :=
  let m1 := if bitAt v 0 then Mod.enablePort m p else Mod.disablePort m p
  if bitAt v 1 then Mod.retrainPort m1 p else m1

/-- Write LNK_DECLARE (R430, R442). -/
def Mod.writeDeclare (m : Mod) (v : Nat) : Mod :=
  let m1 := if bitAt v 8 then Mod.declare m (fld v 7 0) 3 else m
  if bitAt v 9 then Mod.endTakeover m1 (fld v 7 0) else m1

/-- Write a word of the MSI-X table: a vector that is unmasked sends the message it holds pending. -/
def Mod.writeMsix (m : Mod) (w v : Nat) : Mod :=
  if w % 4 = 3 then
    let k := w / 4
    let m1 := Mod.onHost m fun h => { h with msixTable := sset 0 h.msixTable w (BitVec.ofNat 32 (1 - v % 2)) }
    if v % 2 = 0 && sget false m1.host.msixPend k then
      Mod.sendVector (Mod.onHost m1 fun h => { h with msixPend := sset false h.msixPend k false }) k
    else m1
  else Mod.onHost m fun h => { h with
    msixTable := sset 0 h.msixTable w (BitVec.ofNat 32 (if w % 4 = 0 then v / 4 * 4 else v)) }

/-- A write that acts on the module alone. -/
def Mod.regWrite (m : Mod) (noBar4 : Bool) (r : Reg) (v : Nat) : Mod :=
  match r with
  | .sqBase n => Mod.writeSq m n fun q => { q with base := clearLow v 6 }
  | .sqDoorbell n => Mod.writeSq m n fun q => { q with doorbell := clearLow v 4 }
  | .sqCtrl n => Mod.writeSqCtrl m n (BitVec.ofNat 32 v)
  | .cqBase n => Mod.writeCq m n fun q => { q with base := clearLow v 5 }
  | .cqHead n => Mod.writeCq m n fun q => { q with headAddr := clearLow v 4 }
  | .cqCtrl n => Mod.writeCqCtrl m n (BitVec.ofNat 64 v)
  | .hifCtrl => Mod.writeHifCtrl m noBar4 (BitVec.ofNat 32 v)
  | .bar4Base => Mod.onHost m fun h => { h with bar4Base := clearLow v 24 }
  | .faultBase => Mod.writeFlt m fun q => { q with base := clearLow v 6 }
  | .faultHead => Mod.writeFlt m fun q => { q with headAddr := clearLow v 4 }
  | .faultCtrl => Mod.writeFaultCtrl m (BitVec.ofNat 32 v)
  | .flpQueues n => Mod.flpWrite m n v
  | .coord => Mod.coordWrite m v
  | .buddyCtrl => Mod.writeBuddyCtrl m (BitVec.ofNat 64 v)
  | .buddyArea => Mod.writeBuddyArea m (BitVec.ofNat 64 v)
  | .declare => Mod.writeDeclare m v
  | .portCtrl p => Mod.writePortCtrl m p v
  | .crnArb => { m with sys := { m.sys with arb := BitVec.ofNat 32 (v % 2) } }
  | .crnPreempt => Mod.writePreempt m (BitVec.ofNat 64 v)
  | .pwrCeiling => Mod.writeCeiling m v
  | .pwrStatus => if bitAt v 32 then Mod.clearUnmet m else m
  | .pwrFloor n => Mod.writeFloor m n v
  | .pwrPin n => Mod.writePin m n v
  | .clsel c => Mod.writeClsel m c (BitVec.ofNat 64 v)
  | .brsel n => Mod.writeBrsel m n (BitVec.ofNat 32 v)
  | .snapAddr => { m with vis := { m.vis with snapAddr := clearLow v 6 } }
  | .snapCtrl => Mod.hostSnap m (BitVec.ofNat 32 v)
  | .msix w => Mod.writeMsix m w v
  | .sqFetch _ | .cqPosted _ | .linkStatus | .faultStatus | .site _ | .flpPort _ | .portStatus _ | .crnStatus
  | .crnMbox | .crnTimer | .pwrIsland _ | .secStatus | .secPolicy | .sideband | .pba _ => m

/-- Write CRN_MBOX: its vector fields, and out_ready cleared by a 1 (R515, R523). -/
def State.writeMbox (s : State) (v : Nat) : State :=
  let s1 : State := { s with mgt := { s.mgt with
    mboxVector := BitVec.ofNat 8 (fld v 15 8)
    mboxIrq := bitAt v 16 } }
  if bitAt v 0 then s1.clearOut else s1

/-- Write a register; a register of an absent resource ignores it (R512). -/
def State.regWrite (s : State) (r : Reg) (v : Nat) : State :=
  if Mod.regAbsent s.mod r then s
  else match r with
    | .crnMbox => s.writeMbox v
    | .secPolicy => s.writePolicy (BitVec.ofNat 32 v)
    | .sideband => { s with mgt := { s.mgt with sideband := BitVec.ofNat 32 (v % 512) } }
    | r => s.onMod fun m => Mod.regWrite m s.noBar4 r v

/-- Write the register at an offset, if there is one. -/
def State.regWriteAt (s : State) (off v : Nat) : State :=
  match regAt off with
  | some r => s.regWrite r v
  | none => s

/-- Hold a lower half, or none (R511). -/
def State.holdLow (s : State) (l : Option (Nat × Word)) : State :=
  { s with mod := { s.mod with sys := { s.mod.sys with heldLow := l } } }

/-- A write of `size` bytes to BAR0 (R511, R512, R514): a bad size or alignment is ignored; the lower half of a 64-bit register
is held until its upper half is written, and an upper half without it is ignored. An 8-byte write to two 32-bit registers
writes both, the lower first. -/
def State.barWrite (s : State) (off size v : Nat) : State :=
  if !s.mod.sys.cfgReady || (size != 4 && size != 8) || off % size != 0 then s
  else
    let base := off / 8 * 8
    let wide := match regAt base with | some r => r.wide | none => false
    if size = 8 then
      (if wide then s.regWriteAt base v
       else (s.regWriteAt base (v % 2 ^ 32)).regWriteAt (base + 4) (v / 2 ^ 32 % 2 ^ 32))
    else if !wide then s.regWriteAt off (v % 2 ^ 32)
    else if off = base then s.holdLow (some (base, BitVec.ofNat 32 v))
    else match s.mod.sys.heldLow with
      | some (o, lo) =>
        if o = base then (s.holdLow none).regWriteAt base (lo.toNat + 2 ^ 32 * (v % 2 ^ 32)) else s
      | none => s

/-- `REGISTER_WRITE` (R511). -/
def execRegisterWrite (off : BitVec 16) (size : Nat) (v : DWord) (s : State) : Out :=
  .next (s.barWrite off.toNat size v.toNat)

end Sys2Proof.Machine
end

