-- ==== Sys2Proof/Machine/Sample.lean ====
section
/-!
DEFINITION. Sampling and verification: SAMPLE (R206, R207, R312) and VERIFY (R208, R313).
-/
namespace Sys2Proof.Machine

open Sys2Proof

/-- log2 e in FP32. -/
def log2e : Word := 0x3FB8_AA3B

/-- Logit `a` at index `i` ranks before logit `b` at index `j`: larger, ties to the lower index (R312). -/
def ranksBefore (a b : Word × Nat) : Bool := flt b.1 a.1 || (!flt a.1 b.1 && decide (a.2 < b.2))

/-- Insert into a list kept in rank order. -/
def insertRank (x : Word × Nat) : List (Word × Nat) → List (Word × Nat)
  | [] => [x]
  | y :: ys => if ranksBefore x y then x :: y :: ys else y :: insertRank x ys

/-- Words with their indices, in rank order. -/
def ranked (ws : List Word) : List (Word × Nat) :=
  ((List.range ws.length).map fun i => (nth 0 ws i, i)).foldl (fun acc x => insertRank x acc) []

/-- What the weights of R312 come to: a result without weights, or the weights. -/
inductive Weights where
  | result (token : Word) (nan : Bool)
  | weights (ws : List Word)
  deriving Repr, Inhabited

/-- FP32 sum in order. -/
def sumF32 (ws : List Word) : Word := ws.foldl fadd 0

/-- `a` is at least the exact product `x × y`. -/
def reaches (a x y : Word) : Bool := decide (0 ≤ (f32 a).cmp ((f32 x).mul (f32 y))) && !(f32 a).isNan

/-- The shortest prefix of ranked weights whose running FP32 sum reaches `pTop` times the total: its indices. -/
def prefixOf (pTop total : Word) : Word → List (Word × Nat) → List Nat
  | _, [] => []
  | acc, x :: xs =>
    let s := fadd acc x.1
    x.2 :: (if reaches s pTop total then [] else prefixOf pTop total s xs)

/-- `pTop` is above 0 and below 1. -/
def nucleusOn (pTop : Word) : Bool := flt 0 pTop && flt pTop 0x3F80_0000

/-- The weight of a kept logit (R312 step 3). -/
def weightOf (t top l : Word) : Word :=
  if l = negInf then 0 else exp2Of (fmul (fsub l top) (fdiv log2e t))

/-- Step 4 of R312: the nucleus of the kept weights. -/
def nucleus (pTop : Word) (kept : List Nat) (ws : List Word) : List Word :=
  if !nucleusOn pTop then ws
  else
    let rk := (ranked ws).filter fun x => kept.contains x.2
    let keep := prefixOf pTop (sumF32 ws) 0 rk
    (List.range ws.length).map fun i => if keep.contains i then nth 0 ws i else 0

/-- The weights of one position (R312 steps 1 to 4). -/
def formWeights (t pTop : Word) (topK : Nat) (ls : List Word) : Weights :=
  if (f32 t).isNan || flt t 0 || ls.any fun l => (f32 l).isNan then .result 0xFFFF_FFFF true
  else
    let rk := ranked ls
    if isZero t then .result (BitVec.ofNat 32 (nth (0, 0) rk 0).2) false
    else
      let keptL := if topK = 0 ∨ ls.length ≤ topK then rk else rk.take topK
      let kept := keptL.map (·.2)
      let top := (nth (0, 0) keptL 0).1
      if top = 0x7F80_0000 then .result (BitVec.ofNat 32 (nth (0, 0) keptL 0).2) false
      else if top = negInf then .result (BitVec.ofNat 32 (kept.foldl min (nth 0 kept 0))) false
      else
        let ws := (List.range ls.length).map fun i => if kept.contains i then weightOf t top (nth 0 ls i) else 0
        .weights (nucleus pTop kept ws)

/-- The token of R207: the smallest index whose running FP32 sum exceeds `u` × 2^−24 times the total. -/
def chooseFrom (bound : Fv) : Nat → Word → List Word → Option Nat
  | _, _, [] => none
  | i, acc, w :: ws =>
    let s := fadd acc w
    if 0 < (f32 s).cmp bound then some i else chooseFrom bound (i + 1) s ws

/-- Choose a token from weights with the 24 bits `u` (R206, R207). -/
def chooseToken (ws : List Word) (u : Nat) : Option Nat :=
  chooseFrom ((f32 (sumF32 ws)).mul (.fin false u (-24))) 0 0 ws

/-- The draw of a branch for a position (R206). -/
def branchDraw (seed position branch : Nat) : Quad := philox seed ⟨position % 2 ^ 32, branch % 2 ^ 32, 0, 0x5342_0001⟩

/-- Words from little-endian bytes. -/
def wordsOf (bs : List Byte) : List Word := (List.range (bs.length / 4)).map fun i =>
  BitVec.ofNat 32 (leNat ((bs.drop (4 * i)).take 4))

/-- A token that no weight selects: the manual states none, the value is free. -/
def tokenOr (free : Nat) (o : Option Nat) : Word := match o with | some i => BitVec.ofNat 32 i | none => Config.freeWord free

/-- The token of one position: R312 with the draw `u`, and the nan bit. -/
def sampleToken (t pTop : Word) (topK : Nat) (ls : List Word) (u free : Nat) : Word × Bool :=
  match formWeights t pTop topK ls with
  | .result w nan => (w, nan)
  | .weights ws => (tokenOr free (chooseToken ws u), false)

/-- The seed of a context (R206, R364). -/
def Mod.seed (m : Mod) (k : Nat) : Nat := match Mod.ctx m k with | some c => c.blk.seed.toNat | none => 0

/-- The nan bit of the condition word for a macro. -/
def condNan (nan : Bool) : Nat := condVec nan false false false

/-- Read FP32 or INT32 words of an object at a byte offset for a core. -/
def Mod.objWords (m : Mod) (core obj off n : Nat) : AccFault ⊕ (List Word × Bool) :=
  match Mod.dmaRead m core ((Mod.objVa m (Mod.ctxOf m core) obj) + off) (4 * n) with
  | .inl f => .inl f
  | .inr (bs, po) => .inr (wordsOf bs, po)

/-- SAMPLE on a core that has fetched it. -/
def Mod.sample (core : Nat) (p : PvisWords) (po : Bool) (m : Mod) : Mod :=
  let x := Mod.core m core
  let v := extent16 x.regs (PvisWords.x1 p 31 16)
  match Mod.objWords m core (PvisWords.x1 p 63 48) (x.regN (PvisWords.x1 p 47 43)) v with
  | .inl f => Mod.parkCore m core p f .coreDma 0
  | .inr (ls, bad) =>
    let q := branchDraw (Mod.seed m (Mod.ctxOf m core)) (x.regN (PvisWords.x1 p 37 33)) (x.regN (PvisWords.x1 p 42 38))
    let r := sampleToken (x.reg (fieldRa p)) (x.reg (fieldRb p)) (PvisWords.x1 p 15 0) ls (q.a / 256) m.free
    let m1 := Mod.putReg (Mod.bumpFree m) core (fieldRd p) r.1
    Mod.orCond (Mod.macroPush (Mod.macroPoison m1 core (po || bad)) core p (po || bad)) core (condNan r.2)

/-- `SAMPLE` (R312). -/
def execSample (c : CoreId) (p : PvisWords) (s : State) : Out := macroCmd "SAMPLE" 0x77 0x7F c p s (Mod.sample c p)

/-! ## Verification -/

/-- What a verification has to work with. -/
structure VerifyIn where
  ratio : Bool
  t : Word
  pTop : Word
  v : Nat
  seed : Nat
  branch : Nat
  base : Nat
  logits : List Word
  cands : List Word
  draft : List Word
  free : Nat
  deriving Inhabited

/-- Logits of position `j`. -/
def VerifyIn.ls (x : VerifyIn) (j : Nat) : List Word := (x.logits.drop (j * x.v)).take x.v

/-- Draw of position `j`. -/
def VerifyIn.draw (x : VerifyIn) (j : Nat) : Quad := branchDraw x.seed (x.base + j) x.branch

/-- Probabilities of position `j`: the weights divided by their total, where R312 forms weights. -/
def VerifyIn.probs (x : VerifyIn) (j : Nat) : Option (List Word) × Bool :=
  match formWeights x.t x.pTop 0 (x.ls j) with
  | .result _ nan => (none, nan)
  | .weights ws => let s := sumF32 ws; (some (ws.map (fdiv · s)), false)

/-- Accepted count, chosen token and nan bit in match mode (R208), from candidate `j` on. -/
def VerifyIn.runMatch (x : VerifyIn) : Nat → List Word → Nat × Word × Bool
  | j, [] =>
    let r := sampleToken x.t x.pTop 0 (x.ls j) ((x.draw j).a / 256) x.free
    (j, r.1, r.2)
  | j, c :: cs =>
    let r := sampleToken x.t x.pTop 0 (x.ls j) ((x.draw j).a / 256) (x.free + 1 + j)
    if r.1 = c then
      let q := VerifyIn.runMatch x (j + 1) cs
      (q.1, q.2.1, q.2.2 || r.2)
    else (j, r.1, r.2)

/-- `v` × 2^−24 is below the quotient `r` (R208). -/
def acceptBelow (v : Nat) (r : Word) : Bool := !(f32 r).isNan && decide ((Fv.fin false v (-24)).cmp (f32 r) < 0)

/-- Accepted count, chosen token and nan bit in ratio mode (R208), from candidate `j` on. Where R312 forms no weights the
manual gives no probability: acceptance and token are free. -/
def VerifyIn.runRatio (x : VerifyIn) : Nat → List Word → Nat × Word × Bool
  | j, [] =>
    match x.probs j with
    | (some ps, nan) => (j, tokenOr x.free (chooseToken ps ((x.draw j).a / 256)), nan)
    | (none, nan) => (j, Config.freeWord x.free, nan)
  | j, c :: cs =>
    match x.probs j with
    | (none, nan) =>
      if Config.freeBit (x.free + 1 + j) then
        let q := VerifyIn.runRatio x (j + 1) cs
        (q.1, q.2.1, q.2.2 || nan)
      else (j, Config.freeWord x.free, nan)
    | (some ps, nan) =>
      let qs := (x.draft.drop (j * x.v)).take x.v
      if acceptBelow ((x.draw j).b / 256) (fdiv (nth 0 ps c.toNat) (nth 0 qs c.toNat)) then
        let q := VerifyIn.runRatio x (j + 1) cs
        (q.1, q.2.1, q.2.2 || nan)
      else
        let ws := (List.range ps.length).map fun i => maxF32 (fsub (nth 0 ps i) (nth 0 qs i)) 0
        (j, tokenOr x.free (chooseToken ws ((x.draw j).a / 256)), nan)

/-- Decide a verification (R208). -/
def VerifyIn.run (x : VerifyIn) : Nat × Word × Bool :=
  if x.ratio then VerifyIn.runRatio x 0 x.cands else VerifyIn.runMatch x 0 x.cands

/-- VERIFY on a core whose context has a branch table and whose branch record has been read. -/
def Mod.verifyRun (core : Nat) (p : PvisWords) (po : Bool) (c : Ctx) (m : Mod) : Mod :=
  let x := Mod.core m core
  let b := x.branchNo (fieldRa p)
  let r := if b < 4096 then c.branch b else {}
  let v := extent16 x.regs (PvisWords.x2 p 26 11)
  let n := r.pending
  let ratio := PvisWords.f p 43 43 == 1
  let dr := if ratio then Mod.objWords m core (PvisWords.x2 p 42 27) (x.regN (PvisWords.x2 p 10 6)) (n * v)
    else .inr ([], false)
  match Mod.objWords m core (PvisWords.x1 p 63 48) (x.regN (PvisWords.x1 p 47 43)) ((n + 1) * v),
      Mod.objWords m core (PvisWords.x2 p 63 48) (x.regN (PvisWords.x2 p 47 43)) n, dr with
  | .inl f, _, _ => Mod.parkCore m core p f .coreDma 0
  | _, .inl f, _ => Mod.parkCore m core p f .coreDma 0
  | _, _, .inl f => Mod.parkCore m core p f .coreDma 0
  | .inr (ls, p1), .inr (cs, p2), .inr (qs, p3) =>
    let y : VerifyIn :=
      { ratio := ratio, t := x.reg (fieldRb p), pTop := x.reg (PvisWords.f p 12 8), v := v
        seed := Mod.seed m (Mod.ctxOf m core), branch := b, base := r.verifyBase
        logits := ls, cands := cs, draft := qs, free := m.free }
    let z := y.run
    let m1 := { m with free := m.free + n + 2 }
    let m2 := Mod.putReg (Mod.putReg m1 core (fieldRd p) (BitVec.ofNat 32 z.1)) core (fieldRd p + 1) z.2.1
    let bad := po || p1 || p2 || p3
    Mod.orCond (Mod.macroPush (Mod.macroPoison m2 core bad) core p bad) core (condNan z.2.2)

/-- `VERIFY` (R313). -/
def execVerify (c : CoreId) (p : PvisWords) (s : State) : Out :=
  macroCmd "VERIFY" 0x78 0x7F c p s fun po m =>
    let b := (Mod.core m c).branchNo (fieldRa p)
    Mod.branchOp c p (fun _ => [b]) (Mod.verifyRun c p po) m

end Sys2Proof.Machine
end

