-- ==== Sys2Proof/Machine/Dispatch.lean ====
section
/-! DEFINITION. The dispatch: one arm per command, each one direct call of its meaning. -/
namespace Sys2Proof.Machine

open Sys2Proof

/-- The effect of a command on everything but the queue of waiting commands. -/
def exec (i : Instr) (s : State) : Host.Outcome State Fault Refusal :=
  match i with
  | .doorbellPoll ring record linkOk stores => Sys2Proof.Machine.execDoorbellPoll ring record linkOk stores s
  | .ringIdleTimeout ring => Sys2Proof.Machine.execRingIdleTimeout ring s
  | .hifKick ring seq => Sys2Proof.Machine.execHifKick ring seq s
  | .kickRepoll ring record linkOk => Sys2Proof.Machine.execKickRepoll ring record linkOk s
  | .descriptorFetch ring d linkOk => Sys2Proof.Machine.execDescriptorFetch ring d linkOk s
  | .completionHeadPoll cq count => Sys2Proof.Machine.execCompletionHeadPoll cq count s
  | .coalescingTimer cq => Sys2Proof.Machine.execCoalescingTimer cq s
  | .loadModel id img blk => Sys2Proof.Machine.execLoadModel id img blk s
  | .loadProgramLoadRoles id img => Sys2Proof.Machine.execLoadProgramLoadRoles id img s
  | .loadProgramCreateContext id img blk => Sys2Proof.Machine.execLoadProgramCreateContext id img blk s
  | .loadProgramEndContext id => Sys2Proof.Machine.execLoadProgramEndContext id s
  | .bankLoad cl => Sys2Proof.Machine.execBankLoad cl s
  | .run id => Sys2Proof.Machine.execRun id s
  | .runJobStart id => Sys2Proof.Machine.execRunJobStart id s
  | .softPreemptTimeout cl => Sys2Proof.Machine.execSoftPreemptTimeout cl s
  | .clusterSave cl => Sys2Proof.Machine.execClusterSave cl s
  | .clusterRestore cl => Sys2Proof.Machine.execClusterRestore cl s
  | .jobCompletion id => Sys2Proof.Machine.execJobCompletion id s
  | .copy id => Sys2Proof.Machine.execCopy id s
  | .signal id => Sys2Proof.Machine.execSignal id s
  | .wait id => Sys2Proof.Machine.execWait id s
  | .waitSatisfied id => Sys2Proof.Machine.execWaitSatisfied id s
  | .fenceDescriptor id => Sys2Proof.Machine.execFenceDescriptor id s
  | .fenceInvalidate id => Sys2Proof.Machine.execFenceInvalidate id s
  | .streamExport id => Sys2Proof.Machine.execStreamExport id s
  | .streamExportMove id => Sys2Proof.Machine.execStreamExportMove id s
  | .streamImport id => Sys2Proof.Machine.execStreamImport id s
  | .tableBind id d shards warm => Sys2Proof.Machine.execTableBind id d shards warm s
  | .tableUnbind id => Sys2Proof.Machine.execTableUnbind id s
  | .tableBindSpillExtent id d => Sys2Proof.Machine.execTableBindSpillExtent id d s
  | .tableFlush id => Sys2Proof.Machine.execTableFlush id s
  | .collectiveGroup id d => Sys2Proof.Machine.execCollectiveGroup id d s
  | .collectiveGroupDissolve id => Sys2Proof.Machine.execCollectiveGroupDissolve id s
  | .abort id => Sys2Proof.Machine.execAbort id s
  | .abortContextWide id => Sys2Proof.Machine.execAbortContextWide id s
  | .queryDevice id => Sys2Proof.Machine.execQueryDevice id s
  | .querySites id => Sys2Proof.Machine.execQuerySites id s
  | .queryDrives id => Sys2Proof.Machine.execQueryDrives id s
  | .queryContexts id => Sys2Proof.Machine.execQueryContexts id s
  | .queryJob id => Sys2Proof.Machine.execQueryJob id s
  | .hifSqCtrlWrite ring v => Sys2Proof.Machine.execHifSqCtrlWrite ring v s
  | .hifCqCtrlWrite cq v => Sys2Proof.Machine.execHifCqCtrlWrite cq v s
  | .hifCtrlWrite v => Sys2Proof.Machine.execHifCtrlWrite v s
  | .mmuFaultCtrlWrite v => Sys2Proof.Machine.execMmuFaultCtrlWrite v s
  | .flpQueuesWrite port v => Sys2Proof.Machine.execFlpQueuesWrite port v s
  | .lnkPortEnable port => Sys2Proof.Machine.execLnkPortEnable port s
  | .lnkPortDisable port => Sys2Proof.Machine.execLnkPortDisable port s
  | .lnkPortRetrain port => Sys2Proof.Machine.execLnkPortRetrain port s
  | .lnkCoordWrite v => Sys2Proof.Machine.execLnkCoordWrite v s
  | .lnkBuddyCtrlWrite v => Sys2Proof.Machine.execLnkBuddyCtrlWrite v s
  | .lnkBuddyAreaWrite v => Sys2Proof.Machine.execLnkBuddyAreaWrite v s
  | .lnkDeclareLost x => Sys2Proof.Machine.execLnkDeclareLost x s
  | .lnkDeclareRelease x => Sys2Proof.Machine.execLnkDeclareRelease x s
  | .crnPreemptWrite v => Sys2Proof.Machine.execCrnPreemptWrite v s
  | .crnMboxOutReadyClear => Sys2Proof.Machine.execCrnMboxOutReadyClear s
  | .mailboxInbound msg => Sys2Proof.Machine.execMailboxInbound msg s
  | .mailboxOutbound msg => Sys2Proof.Machine.execMailboxOutbound msg s
  | .pwrCeilingWrite v => Sys2Proof.Machine.execPwrCeilingWrite v s
  | .pwrFloorWrite isl v => Sys2Proof.Machine.execPwrFloorWrite isl v s
  | .pwrPinWrite isl v => Sys2Proof.Machine.execPwrPinWrite isl v s
  | .pwrStatusFloorUnmetClear => Sys2Proof.Machine.execPwrStatusFloorUnmetClear s
  | .visClselWrite ctx v => Sys2Proof.Machine.execVisClselWrite ctx v s
  | .visBrselWrite n v => Sys2Proof.Machine.execVisBrselWrite n v s
  | .visSnapGo v => Sys2Proof.Machine.execVisSnapGo v s
  | .secPolicyWrite v => Sys2Proof.Machine.execSecPolicyWrite v s
  | .registerWrite off size v => Sys2Proof.Machine.execRegisterWrite off size v s
  | .bar4Access off len wr => Sys2Proof.Machine.execBar4Access off len wr s
  | .faultRecordDrain => Sys2Proof.Machine.execFaultRecordDrain s
  | .faultResponseRead head resps => Sys2Proof.Machine.execFaultResponseRead head resps s
  | .faultServiceTimeout seq => Sys2Proof.Machine.execFaultServiceTimeout seq s
  | .tlbMissWalk tlb ctx va write => Sys2Proof.Machine.execTlbMissWalk tlb ctx va write s
  | .nop c p => Sys2Proof.Machine.execNop c p s
  | .li c p => Sys2Proof.Machine.execLi c p s
  | .alu c p => Sys2Proof.Machine.execAlu c p s
  | .alui c p => Sys2Proof.Machine.execAlui c p s
  | .sys c p => Sys2Proof.Machine.execSys c p s
  | .br c p => Sys2Proof.Machine.execBr c p s
  | .loop c p => Sys2Proof.Machine.execLoop c p s
  | .level c p => Sys2Proof.Machine.execLevel c p s
  | .cond c p => Sys2Proof.Machine.execCond c p s
  | .bank c p => Sys2Proof.Machine.execBank c p s
  | .bankReady c => Sys2Proof.Machine.execBankReady c s
  | .endRole c p => Sys2Proof.Machine.execEndRole c p s
  | .qtok c p => Sys2Proof.Machine.execQtok c p s
  | .qskip c p => Sys2Proof.Machine.execQskip c p s
  | .qwait c p => Sys2Proof.Machine.execQwait c p s
  | .qwaitSatisfied c => Sys2Proof.Machine.execQwaitSatisfied c s
  | .queuePushResume c e => Sys2Proof.Machine.execQueuePushResume c e s
  | .queuePopResume c e => Sys2Proof.Machine.execQueuePopResume c e s
  | .tokenArrival c e => Sys2Proof.Machine.execTokenArrival c e s
  | .mma c p => Sys2Proof.Machine.execMma c p s
  | .combine c p => Sys2Proof.Machine.execCombine c p s
  | .drain c p => Sys2Proof.Machine.execDrain c p s
  | .gate c p => Sys2Proof.Machine.execGate c p s
  | .glstm c p => Sys2Proof.Machine.execGlstm c p s
  | .ggru c p => Sys2Proof.Machine.execGgru c p s
  | .gcacc c p => Sys2Proof.Machine.execGcacc c p s
  | .vadd c p => Sys2Proof.Machine.execVadd c p s
  | .vmul c p => Sys2Proof.Machine.execVmul c p s
  | .vfma c p => Sys2Proof.Machine.execVfma c p s
  | .vcmp c p => Sys2Proof.Machine.execVcmp c p s
  | .vsel c p => Sys2Proof.Machine.execVsel c p s
  | .vmin c p => Sys2Proof.Machine.execVmin c p s
  | .vmax c p => Sys2Proof.Machine.execVmax c p s
  | .vld c p => Sys2Proof.Machine.execVld c p s
  | .vst c p => Sys2Proof.Machine.execVst c p s
  | .vbc c p => Sys2Proof.Machine.execVbc c p s
  | .lbdecl c p => Sys2Proof.Machine.execLbdecl c p s
  | .conv c p => Sys2Proof.Machine.execConv c p s
  | .hsend c p => Sys2Proof.Machine.execHsend c p s
  | .hrecv c p => Sys2Proof.Machine.execHrecv c p s
  | .dmard c p => Sys2Proof.Machine.execDmard c p s
  | .dmawr c p => Sys2Proof.Machine.execDmawr c p s
  | .attn c p => Sys2Proof.Machine.execAttn c p s
  | .pageFetchDone page readOk => Sys2Proof.Machine.execPageFetchDone page readOk s
  | .kvapp c p => Sys2Proof.Machine.execKvapp c p s
  | .kvpf c p => Sys2Proof.Machine.execKvpf c p s
  | .pageSpill forBestEffort => Sys2Proof.Machine.execPageSpill forBestEffort s
  | .spillCopyDone page => Sys2Proof.Machine.execSpillCopyDone page s
  | .bfork c p => Sys2Proof.Machine.execBfork c p s
  | .bkill c p => Sys2Proof.Machine.execBkill c p s
  | .bprune c p => Sys2Proof.Machine.execBprune c p s
  | .killWaitDone ctx branch => Sys2Proof.Machine.execKillWaitDone ctx branch s
  | .bcommit c p => Sys2Proof.Machine.execBcommit c p s
  | .sample c p => Sys2Proof.Machine.execSample c p s
  | .verify c p => Sys2Proof.Machine.execVerify c p s
  | .smodal c p => Sys2Proof.Machine.execSmodal c p s
  | .sscan c p => Sys2Proof.Machine.execSscan c p s
  | .scell c p => Sys2Proof.Machine.execScell c p s
  | .sreset c p => Sys2Proof.Machine.execSreset c p s
  | .sanchor c p => Sys2Proof.Machine.execSanchor c p s
  | .gather c p => Sys2Proof.Machine.execGather c p s
  | .gatherBagDeliver bag => Sys2Proof.Machine.execGatherBagDeliver bag s
  | .tpf c p => Sys2Proof.Machine.execTpf c p s
  | .scatter c p => Sys2Proof.Machine.execScatter c p s
  | .tableFillDone table copy page => Sys2Proof.Machine.execTableFillDone table copy page s
  | .writeBack table page => Sys2Proof.Machine.execWriteBack table page s
  | .fset c p => Sys2Proof.Machine.execFset c p s
  | .fclr c p => Sys2Proof.Machine.execFclr c p s
  | .fwaits c p => Sys2Proof.Machine.execFwaits c p s
  | .fwaitc c p => Sys2Proof.Machine.execFwaitc c p s
  | .flagWaitSatisfied c => Sys2Proof.Machine.execFlagWaitSatisfied c s
  | .hbarr c p => Sys2Proof.Machine.execHbarr c p s
  | .hbwait c p => Sys2Proof.Machine.execHbwait c p s
  | .hatbandRelease line => Sys2Proof.Machine.execHatbandRelease line s
  | .ctake c p => Sys2Proof.Machine.execCtake c p s
  | .cpeek c p => Sys2Proof.Machine.execCpeek c p s
  | .cset c p => Sys2Proof.Machine.execCset c p s
  | .fence c p => Sys2Proof.Machine.execFence c p s
  | .evmark c p => Sys2Proof.Machine.execEvmark c p s
  | .evsnap c p => Sys2Proof.Machine.execEvsnap c p s
  | .nullEngineCommand c ends tok => Sys2Proof.Machine.execNullEngineCommand c ends tok s
  | .clusterRetire cl badLines => Sys2Proof.Machine.execClusterRetire cl badLines s
  | .failingPortDisable => Sys2Proof.Machine.execFailingPortDisable s
  | .gddrTempRead site t0 t1 => Sys2Proof.Machine.execGddrTempRead site t0 t1 s
  | .poisonBlockMerge site => Sys2Proof.Machine.execPoisonBlockMerge site s
  | .nvmeCompletionPoll port done => Sys2Proof.Machine.execNvmeCompletionPoll port done s
  | .driveBringUp port gen width lbas grant nsids wrr => Sys2Proof.Machine.execDriveBringUp port gen width lbas grant nsids wrr s
  | .driveReadyTimeout port => Sys2Proof.Machine.execDriveReadyTimeout port s
  | .hedgeTimeout read => Sys2Proof.Machine.execHedgeTimeout read s
  | .nvmeCommandTimeout port cid => Sys2Proof.Machine.execNvmeCommandTimeout port cid s
  | .readGiveUp read => Sys2Proof.Machine.execReadGiveUp read s
  | .remoteRowTimeout read => Sys2Proof.Machine.execRemoteRowTimeout read s
  | .portDetectTimeout port => Sys2Proof.Machine.execPortDetectTimeout port s
  | .portEqualiseDone port lanes => Sys2Proof.Machine.execPortEqualiseDone port lanes s
  | .portFecLockDone port lanes => Sys2Proof.Machine.execPortFecLockDone port lanes s
  | .identityFlit port info => Sys2Proof.Machine.execIdentityFlit port info s
  | .creditInitDone port credits => Sys2Proof.Machine.execCreditInitDone port credits s
  | .dataFlit port h pkt => Sys2Proof.Machine.execDataFlit port h pkt s
  | .idleFlit port h info => Sys2Proof.Machine.execIdleFlit port h info s
  | .nakFlit port h seq => Sys2Proof.Machine.execNakFlit port h seq s
  | .nakRepeat port => Sys2Proof.Machine.execNakRepeat port s
  | .retrainDone port lanes => Sys2Proof.Machine.execRetrainDone port lanes s
  | .heartbeatIdle port => Sys2Proof.Machine.execHeartbeatIdle port s
  | .lossOfSignal port => Sys2Proof.Machine.execLossOfSignal port s
  | .portSilenceTimeout port => Sys2Proof.Machine.execPortSilenceTimeout port s
  | .heldPacketTimeout port => Sys2Proof.Machine.execHeldPacketTimeout port s
  | .requestTimeout tag => Sys2Proof.Machine.execRequestTimeout tag s
  | .writePacket pkt => Sys2Proof.Machine.execWritePacket pkt s
  | .readRequestPacket pkt => Sys2Proof.Machine.execReadRequestPacket pkt s
  | .readResponsePacket pkt => Sys2Proof.Machine.execReadResponsePacket pkt s
  | .writeAcknowledgement pkt => Sys2Proof.Machine.execWriteAcknowledgement pkt s
  | .remoteQueuePush pkt => Sys2Proof.Machine.execRemoteQueuePush pkt s
  | .flagChangePacket pkt => Sys2Proof.Machine.execFlagChangePacket pkt s
  | .rowRequest pkt => Sys2Proof.Machine.execRowRequest pkt s
  | .rowResponse pkt => Sys2Proof.Machine.execRowResponse pkt s
  | .collectiveData pkt => Sys2Proof.Machine.execCollectiveData pkt s
  | .collectiveGrant pkt => Sys2Proof.Machine.execCollectiveGrant pkt s
  | .collectiveTrigger group => Sys2Proof.Machine.execCollectiveTrigger group s
  | .collectiveOperationDone group => Sys2Proof.Machine.execCollectiveOperationDone group s
  | .collectiveWatchdog group => Sys2Proof.Machine.execCollectiveWatchdog group s
  | .healthPacket xyz state reason site => Sys2Proof.Machine.execHealthPacket xyz state reason site s
  | .slowHealthTimer => Sys2Proof.Machine.execSlowHealthTimer s
  | .slowExtensionEnd xyz => Sys2Proof.Machine.execSlowExtensionEnd xyz s
  | .silenceReport reporter xyz => Sys2Proof.Machine.execSilenceReport reporter xyz s
  | .silenceEnded reporter xyz => Sys2Proof.Machine.execSilenceEnded reporter xyz s
  | .silenceDeclarationTimeout x => Sys2Proof.Machine.execSilenceDeclarationTimeout x s
  | .supervisorLost xyz reason => Sys2Proof.Machine.execSupervisorLost xyz reason s
  | .supervisorTakeoverReady xyz reason => Sys2Proof.Machine.execSupervisorTakeoverReady xyz reason s
  | .supervisorRelease xyz => Sys2Proof.Machine.execSupervisorRelease xyz s
  | .cableCutTimeout dim => Sys2Proof.Machine.execCableCutTimeout dim s
  | .takeoverBegin header slots => Sys2Proof.Machine.execTakeoverBegin header slots s
  | .takeoverLoadModel id img blk buddyHash ws objs => Sys2Proof.Machine.execTakeoverLoadModel id img blk buddyHash ws objs s
  | .shardCopyDone table copy => Sys2Proof.Machine.execShardCopyDone table copy s
  | .voltageLoopInterval isl busy total rate limiting => Sys2Proof.Machine.execVoltageLoopInterval isl busy total rate limiting s
  | .enforcerInterval watts => Sys2Proof.Machine.execEnforcerInterval watts s
  | .thermalEstimate isl estimate dieHottest => Sys2Proof.Machine.execThermalEstimate isl estimate dieHottest s
  | .warmupEnd => Sys2Proof.Machine.execWarmupEnd s
  | .thermalTrip => Sys2Proof.Machine.execThermalTrip s
  | .powerBrakeAssert => Sys2Proof.Machine.execPowerBrakeAssert s
  | .powerBrakeDeassert => Sys2Proof.Machine.execPowerBrakeDeassert s
  | .inputOvercurrent => Sys2Proof.Machine.execInputOvercurrent s
  | .brakeRelease => Sys2Proof.Machine.execBrakeRelease s
  | .uvHold isl => Sys2Proof.Machine.execUvHold isl s
  | .uvRelease isl => Sys2Proof.Machine.execUvRelease isl s
  | .uvHoldTimeout isl => Sys2Proof.Machine.execUvHoldTimeout isl s
  | .inputPowerOn slot railsOk => Sys2Proof.Machine.execInputPowerOn slot railsOk s
  | .inputUndervoltage => Sys2Proof.Machine.execInputUndervoltage s
  | .inputOvervoltage => Sys2Proof.Machine.execInputOvervoltage s
  | .perstAssert => Sys2Proof.Machine.execPerstAssert s
  | .perstRelease a b bistFails link => Sys2Proof.Machine.execPerstRelease a b bistFails link s
  | .gddrTraining site rate => Sys2Proof.Machine.execGddrTraining site rate s
  | .serviceReady drives => Sys2Proof.Machine.execServiceReady drives s
  | .telemetrySample t => Sys2Proof.Machine.execTelemetrySample t s
  | .crownWatchdogExpiry => Sys2Proof.Machine.execCrownWatchdogExpiry s
  | .crownReturn a b => Sys2Proof.Machine.execCrownReturn a b s
  | .smbusFallback => Sys2Proof.Machine.execSmbusFallback s
  | .setEndpointId eid => Sys2Proof.Machine.execSetEndpointId eid s
  | .getEndpointId => Sys2Proof.Machine.execGetEndpointId s
  | .getMctpVersionSupport => Sys2Proof.Machine.execGetMctpVersionSupport s
  | .getMessageTypeSupport => Sys2Proof.Machine.execGetMessageTypeSupport s
  | .getVendorDefinedMessageSupport => Sys2Proof.Machine.execGetVendorDefinedMessageSupport s
  | .gettid => Sys2Proof.Machine.execGettid s
  | .getpldmversion => Sys2Proof.Machine.execGetpldmversion s
  | .getpldmtypes => Sys2Proof.Machine.execGetpldmtypes s
  | .getpldmcommands => Sys2Proof.Machine.execGetpldmcommands s
  | .getsensorreading sensor => Sys2Proof.Machine.execGetsensorreading sensor s
  | .getstatesensorreadings sensor => Sys2Proof.Machine.execGetstatesensorreadings sensor s
  | .getnumericeffectervalue effecter => Sys2Proof.Machine.execGetnumericeffectervalue effecter s
  | .setnumericeffectervalue effecter v => Sys2Proof.Machine.execSetnumericeffectervalue effecter v s
  | .getpdrrepositoryinfo => Sys2Proof.Machine.execGetpdrrepositoryinfo s
  | .getpdr record => Sys2Proof.Machine.execGetpdr record s
  | .pollforplatformeventmessage => Sys2Proof.Machine.execPollforplatformeventmessage s
  | .requestupdate => Sys2Proof.Machine.execRequestupdate s
  | .getpackagedata => Sys2Proof.Machine.execGetpackagedata s
  | .passcomponenttable classification ident => Sys2Proof.Machine.execPasscomponenttable classification ident s
  | .updatecomponent ident size => Sys2Proof.Machine.execUpdatecomponent ident size s
  | .requestfirmwaredata offset data => Sys2Proof.Machine.execRequestfirmwaredata offset data s
  | .transfercomplete result => Sys2Proof.Machine.execTransfercomplete result s
  | .verifycomplete chk => Sys2Proof.Machine.execVerifycomplete chk s
  | .applycomplete result => Sys2Proof.Machine.execApplycomplete result s
  | .activatefirmware delayed => Sys2Proof.Machine.execActivatefirmware delayed s
  | .getstatus => Sys2Proof.Machine.execGetstatus s
  | .cancelupdate => Sys2Proof.Machine.execCancelupdate s
  | .keyenrol slot key signer sig => Sys2Proof.Machine.execKeyenrol slot key signer sig s
  | .keyrevoke firmware slot signer sig => Sys2Proof.Machine.execKeyrevoke firmware slot signer sig s
  | .getcertchain part => Sys2Proof.Machine.execGetcertchain part s
  | .getattestation nonce => Sys2Proof.Machine.execGetattestation nonce s
  | .signalDetected port lanes => Sys2Proof.Machine.execSignalDetected port lanes s
  | .atsInvalidationRequest addr len => Sys2Proof.Machine.execAtsInvalidationRequest addr len s
  | .pageRequestResponse idx success => Sys2Proof.Machine.execPageRequestResponse idx success s
  | .pageRequestTimeout idx => Sys2Proof.Machine.execPageRequestTimeout idx s
  | .flashLinkDown port => Sys2Proof.Machine.execFlashLinkDown port s
  | .controllerFatalStatus port => Sys2Proof.Machine.execControllerFatalStatus port s
  | .d3hotTransition toD3 => Sys2Proof.Machine.execD3hotTransition toD3 s
  | .dynamicAddressAssignment addr => Sys2Proof.Machine.execDynamicAddressAssignment addr s

end Sys2Proof.Machine
end

