-- ==== Sys2Proof/Machine/Idle.lean ====
section
/-!
DEFINITION. What the block does when no command waits: the Crown timer counts 10 ns (R452). DESIGN CHOICE: one tick a
step; the table has no row for a tick.
-/
namespace Sys2Proof.Machine

open Sys2Proof

/-- The tick of an empty queue. The timer stands while PERST# is asserted (R499). -/
def idle (s : State) : State :=
  if s.mod.sys.perst then s
  else { s with mod := { s.mod with sys := { s.mod.sys with timer := s.mod.sys.timer + 1 } } }

end Sys2Proof.Machine
end

