-- ==== Sys2Proof/Safety.lean ====
section
/-!
DEFINITION. What counts as a safe run: no command is refused, and a command faults only where the words it carries
are ones no accepted image holds. And the terms in which claims say what a command leaves.
-/
namespace Sys2Proof

open Sys2Proof.Machine

/-- A step answers a next state or stops on a rejected encoding; it is never refused. -/
def SafeStep (s : State) : Prop :=
  match step s with
  | .next _ => True
  | .fault (.rejectedEncoding _) => True
  | .refused _ => False

/-- `k` steps from `s`, each of them safe. -/
def SafeRun : Nat → State → Prop
  | 0, _ => True
  | k + 1, s => SafeStep s ∧ match step s with
    | .next t => SafeRun k t
    | _ => True

namespace Claims

/-- A module whose visor counters hold other values, and which is otherwise the same (R467 to R473). -/
def tallied (m : Mod) (cl br : SMap VCount) : Mod := { m with vis := { m.vis with clVals := cl, brVals := br } }

/-- The outcome is a next state in which the module is `m`, but for what the visor counted, and nothing outside the module
has changed: neither the management helper, nor the answers, nor the queue of commands. -/
def Gives (o : Host.Outcome State Fault Refusal) (s : State) (m : Mod) : Prop :=
  ∃ cl br, o = .next { s with mod := tallied m cl br }

/-- `m` with one core replaced: every other core and every other part of the module is the same. -/
def setCore (m : Mod) (c : Nat) (x : Core) : Mod := { m with cores := sset {} m.cores c x }

/-- `m` with one cluster replaced. -/
def setCluster (m : Mod) (l : Nat) (x : Cluster) : Mod := { m with clusters := sset {} m.clusters l x }

/-- The instruction of a command issues on its core in the ordinary way (R19, R292, R293): its words have the opcode and are
ones the translator accepts, the core runs, waits for nothing and is not held, and every operand is in range. -/
structure Issues (s : State) (c : CoreId) (op : Nat) (p : PvisWords) : Prop where
  words : pvisIs op p = true
  free : Mod.canIssue s.mod c = true
  range : checkOperands (operandsOf p (Mod.core s.mod c).regs) = .ok

/-- The core of a command once it has fetched the instruction (R18). -/
def past (s : State) (c : CoreId) (p : PvisWords) : Core := (Mod.core s.mod c).fetched p

/-- The rows that are one command of one engine: opcode, engine (the mask bits of R291), core and words. QTOK goes to the
engine that pushes its end and QSKIP to the one that pops it (R294). -/
def engineRow : Instr → Option (Nat × Nat × CoreId × PvisWords)
  | .qtok c p => (pusherOf (PvisWords.f p 3 0)).map fun e => (0x10, e, c, p)
  | .qskip c p => (popperOf (PvisWords.f p 3 0)).map fun e => (0x11, e, c, p)
  | .mma c p => some (0x20, 0, c, p)
  | .combine c p => some (0x21, 0, c, p)
  | .drain c p => some (0x22, 0, c, p)
  | .gate c p => some (0x30, 1, c, p)
  | .glstm c p => some (0x31, 1, c, p)
  | .ggru c p => some (0x32, 1, c, p)
  | .gcacc c p => some (0x33, 1, c, p)
  | .vadd c p => some (0x40, 2, c, p)
  | .vmul c p => some (0x41, 2, c, p)
  | .vfma c p => some (0x42, 2, c, p)
  | .vcmp c p => some (0x43, 2, c, p)
  | .vsel c p => some (0x44, 2, c, p)
  | .vmin c p => some (0x45, 2, c, p)
  | .vmax c p => some (0x46, 2, c, p)
  | .vld c p => some (0x48, 3, c, p)
  | .vst c p => some (0x49, 3, c, p)
  | .vbc c p => some (0x4A, 2, c, p)
  | .dmard c p => some (0x60, 5, c, p)
  | .dmawr c p => some (0x61, 5, c, p)
  | _ => none

/-- The command an instruction puts into an engine's queue: its opcode and words, the scalar registers as they stand, and its
place in the order of issue (R19, R28, R286). -/
def commandOf (x : Core) (op : Nat) (p : PvisWords) : ECmd := { op := op, p := p, regs := x.regs, seq := x.issued }

/-- The core once a command has been issued to engine `e`: it stands last in the engine's queue of four, or the control unit
waits at it while the queue is full (R19). -/
def queued (x : Core) (e : Nat) (k : ECmd) : Core :=
  let y := { x with issued := x.issued + 1 }
  if (x.cmds e).length < 4 then y.setCmds e (x.cmds e ++ [k]) else { y with wait := .engine e k }

/-- The rows that are one macro instruction: opcode, engines, core, words, and what the macro does on a core that has fetched
it (R294). -/
def macroRow : Instr → Option (Nat × Nat × CoreId × PvisWords × (Mod → Mod))
  | .conv c p => some (0x51, 0x3F, c, p, Mod.conv c p false)
  | .hsend c p => some (0x53, 0x20, c, p, Mod.haloRun c p)
  | .hrecv c p => some (0x54, 0x20, c, p, Mod.haloRun c p)
  | .attn c p => some (0x70, 0x7F, c, p, Mod.attn c p false)
  | .kvapp c p => some (0x71, 0x7F, c, p, Mod.kvapp c p false)
  | .kvpf c p => some (0x72, 0, c, p, Mod.kvpf c p false)
  | .sample c p => some (0x77, 0x7F, c, p, Mod.sample c p false)
  | .verify c p => some (0x78, 0x7F, c, p, fun m =>
      let b := (Mod.core m c).branchNo (fieldRa p)
      Mod.branchOp c p (fun _ => [b]) (Mod.verifyRun c p false) m)
  | .smodal c p => some (0x80, 0x7F, c, p, Mod.streamOp c p (Mod.smodal c p false))
  | .sscan c p => some (0x81, 0x7F, c, p, Mod.streamOp c p (Mod.sscan c p false))
  | .scell c p => some (0x82, 0x7F, c, p, Mod.streamOp c p (Mod.scell c p false))
  | .evsnap c p => some (0xC1, 0x20, c, p, Mod.evsnap c p)
  | _ => none

/-- A macro instruction issues in the ordinary way: as any instruction, its engines having completed what was issued to them
earlier, with room for the token it pushes and no token to wait for (R289, R294). -/
structure IssuesMacro (s : State) (c : CoreId) (op mask : Nat) (p : PvisWords) : Prop extends Issues s c op p where
  idle : Mod.maskIdle s.mod c mask = true
  room : Mod.macroRoom s.mod c p = true
  plain : PvisWords.tmode p < 2

/-- The module once core `c` has fetched the instruction. -/
def issued (s : State) (c : CoreId) (p : PvisWords) : Mod := setCore s.mod c (past s c p)

/-- The rows that are PVIS instructions: the name a fault gives them, opcode, core and words (R291). -/
def pvisRow : Instr → Option (String × Nat × CoreId × PvisWords)
  | .nop c p => some ("NOP", 0x00, c, p)
  | .li c p => some ("LI", 0x01, c, p)
  | .alu c p => some ("ALU", 0x02, c, p)
  | .alui c p => some ("ALUI", 0x03, c, p)
  | .sys c p => some ("SYS", 0x04, c, p)
  | .br c p => some ("BR", 0x06, c, p)
  | .loop c p => some ("LOOP", 0x07, c, p)
  | .level c p => some ("LEVEL", 0x08, c, p)
  | .cond c p => some ("COND", 0x09, c, p)
  | .bank c p => some ("BANK", 0x0A, c, p)
  | .endRole c p => some ("END", 0x0B, c, p)
  | .qtok c p => some ("QTOK", 0x10, c, p)
  | .qskip c p => some ("QSKIP", 0x11, c, p)
  | .qwait c p => some ("QWAIT", 0x12, c, p)
  | .mma c p => some ("MMA", 0x20, c, p)
  | .combine c p => some ("COMBINE", 0x21, c, p)
  | .drain c p => some ("DRAIN", 0x22, c, p)
  | .gate c p => some ("GATE", 0x30, c, p)
  | .glstm c p => some ("GLSTM", 0x31, c, p)
  | .ggru c p => some ("GGRU", 0x32, c, p)
  | .gcacc c p => some ("GCACC", 0x33, c, p)
  | .vadd c p => some ("VADD", 0x40, c, p)
  | .vmul c p => some ("VMUL", 0x41, c, p)
  | .vfma c p => some ("VFMA", 0x42, c, p)
  | .vcmp c p => some ("VCMP", 0x43, c, p)
  | .vsel c p => some ("VSEL", 0x44, c, p)
  | .vmin c p => some ("VMIN", 0x45, c, p)
  | .vmax c p => some ("VMAX", 0x46, c, p)
  | .vld c p => some ("VLD", 0x48, c, p)
  | .vst c p => some ("VST", 0x49, c, p)
  | .vbc c p => some ("VBC", 0x4A, c, p)
  | .lbdecl c p => some ("LBDECL", 0x50, c, p)
  | .conv c p => some ("CONV", 0x51, c, p)
  | .hsend c p => some ("HSEND", 0x53, c, p)
  | .hrecv c p => some ("HRECV", 0x54, c, p)
  | .dmard c p => some ("DMARD", 0x60, c, p)
  | .dmawr c p => some ("DMAWR", 0x61, c, p)
  | .attn c p => some ("ATTN", 0x70, c, p)
  | .kvapp c p => some ("KVAPP", 0x71, c, p)
  | .kvpf c p => some ("KVPF", 0x72, c, p)
  | .bfork c p => some ("BFORK", 0x73, c, p)
  | .bkill c p => some ("BKILL", 0x74, c, p)
  | .bprune c p => some ("BPRUNE", 0x75, c, p)
  | .bcommit c p => some ("BCOMMIT", 0x76, c, p)
  | .sample c p => some ("SAMPLE", 0x77, c, p)
  | .verify c p => some ("VERIFY", 0x78, c, p)
  | .smodal c p => some ("SMODAL", 0x80, c, p)
  | .sscan c p => some ("SSCAN", 0x81, c, p)
  | .scell c p => some ("SCELL", 0x82, c, p)
  | .sreset c p => some ("SRESET", 0x83, c, p)
  | .sanchor c p => some ("SANCHOR", 0x84, c, p)
  | .gather c p => some ("GATHER", 0x90, c, p)
  | .tpf c p => some ("TPF", 0x91, c, p)
  | .scatter c p => some ("SCATTER", 0x92, c, p)
  | .fset c p => some ("FSET", 0xA0, c, p)
  | .fclr c p => some ("FCLR", 0xA1, c, p)
  | .fwaits c p => some ("FWAITS", 0xA2, c, p)
  | .fwaitc c p => some ("FWAITC", 0xA3, c, p)
  | .hbarr c p => some ("HBARR", 0xA4, c, p)
  | .hbwait c p => some ("HBWAIT", 0xA5, c, p)
  | .ctake c p => some ("CTAKE", 0xA6, c, p)
  | .cpeek c p => some ("CPEEK", 0xA7, c, p)
  | .cset c p => some ("CSET", 0xA8, c, p)
  | .fence c p => some ("FENCE", 0xB0, c, p)
  | .evmark c p => some ("EVMARK", 0xC0, c, p)
  | .evsnap c p => some ("EVSNAP", 0xC1, c, p)
  | _ => none

/-- The words of a PVIS row are ones an accepted image can hold (R293): the opcode and every field, and, for ATTN and KVAPP,
the range of heads (R309, R310). -/
def accepted (s : State) (op : Nat) (c : CoreId) (p : PvisWords) : Prop :=
  pvisIs op p = true ∧ (op = 0x70 ∨ op = 0x71 → Mod.headsDeclared s.mod c op p = true)

/-- What holds of the management helper, the fuses and the boot in every state a step leaves: the counter stops at 64 and a
fuse array has its bits and slots (R486), SEC_POLICY and MGT_SIDEBAND hold defined bits only (R505, R516), boot_slot is one of
three (R485), and the Crown's resets are counted in 16 bits (R479). -/
structure Sound (g : Mgmt) : Prop where
  svn : g.svn ≤ 64
  imageBits : g.keyRevoked < 16
  firmwareBits : g.fwRevoked < 4
  slots : ∀ i, 4 ≤ i → sget 0 g.imageKeys i = 0
  form : swf 0 g.imageKeys = true
  policy : g.policy &&& ~~~policyMask = 0
  sideband : g.sideband.toNat < 512
  booted : g.booted ≤ 2
  resets : g.crownResets ≤ 65535
  recent : g.resetAt.length ≤ 2
  endpoint : g.eid ≠ 0xFF

/-- Fuses are only blown (R485, R486): the anti-rollback counter does not fall, a revoked bit stays set, and a key slot that
holds a key keeps it. -/
structure Blown (g h : Mgmt) : Prop where
  svn : g.svn ≤ h.svn
  image : ∀ i, bitAt g.keyRevoked i = true → bitAt h.keyRevoked i = true
  firmware : ∀ i, bitAt g.fwRevoked i = true → bitAt h.fwRevoked i = true
  keys : ∀ i, sget 0 g.imageKeys i ≠ 0 → sget 0 h.imageKeys i = sget 0 g.imageKeys i
  fused : h.fwKeys = g.fwKeys

/-- An offset of an array of `n` elements of `w` bytes from `base` on. -/
def inArray (off base w n : Nat) : Prop := ∃ k, k < n ∧ off = base + w * k

/-- The 64-bit registers that chapter 22 lists, by offset of BAR0 (R516). -/
def listedWide (off : Nat) : Prop :=
  (∃ n k, n < 64 ∧ k ∈ [0x000, 0x008, 0x800, 0x808, 0x810, 0x818] ∧ off = 32 * n + k)
  ∨ off ∈ [0x1008, 0x1400, 0x1408, 0x1418, 0x2000, 0x2040, 0x2048, 0x2050, 0x3018, 0x3100, 0x4008, 0x6180, 0x7000]
  ∨ inArray off 0x1800 8 16 ∨ inArray off 0x1C00 8 4 ∨ inArray off 0x1C40 8 4 ∨ inArray off 0x2180 8 16
  ∨ inArray off 0x4C00 8 256 ∨ inArray off 0x6000 8 16

/-- The 32-bit registers that chapter 22 lists, and the words of the MSI-X table and of its pending bits (R350, R516). -/
def listedNarrow (off : Nat) : Prop :=
  (∃ n k, n < 64 ∧ k ∈ [0x010, 0x018] ∧ off = 32 * n + k)
  ∨ off ∈ [0x1000, 0x1018, 0x1410, 0x3000, 0x3008, 0x3010, 0x4000, 0x6188, 0x7008, 0x8000]
  ∨ inArray off 0x2100 8 16 ∨ inArray off 0x4400 4 256 ∨ inArray off 0x4800 4 256 ∨ inArray off 0x6080 4 64
  ∨ inArray off 0xE000 4 1024 ∨ inArray off 0xF000 4 8

/-- The front command of an engine of a core. -/
def front (m : Mod) (c e : Nat) (x : ECmd) : Prop := ∃ rest, (Mod.core m c).cmds e = x :: rest

end Claims

end Sys2Proof
end

