-- ==== Sys2Proof/Certificates/Slice0/Obligations.lean ====
section
/-!
DEFINITION. The statements of this row, one definition each. They speak of the commands' outcomes in the terms of
Sys2Proof/Safety.lean: `Gives o s m` says that the outcome is a next state whose module is `m` but for the counts of visor
counters, and that nothing outside the module has changed; every equation of modules therefore is its own frame.
-/
open Sys2Proof Sys2Proof.Machine Sys2Proof.Claims

/-! ## The block -/

/-- A step with a command at the front of the queue is the command's effect on the state with the queue's rest. On an
empty queue the block idles: the model's choice (log entry 1) is that the Crown timer counts 10 ns, and stands while
PERST# is asserted. -/
def Obligations.StepRunsTheFrontCommand : Prop := ∀ (s : State) (i : Instr) (rest : List Instr),
  (step { s with pending := i :: rest } = exec i { s with pending := rest })
  ∧ (s.mod.sys.perst = true → step { s with pending := [] } = .next { s with pending := [] })
  ∧ (s.mod.sys.perst = false → step { s with pending := [] } = .next { s with
      pending := []
      mod := { s.mod with sys := { s.mod.sys with timer := s.mod.sys.timer + 1 } } })

/-! ## Scalar control (R295, R34, R38) -/

/-- NOP, LI, ALU, ALUI, SYS and LEVEL: the destination register gets the result, and nothing else of the module changes
but that the core has passed the instruction. EVMARK leaves its 8-bit value as the cluster's last program marker. -/
def Obligations.ScalarResults : Prop := ∀ (s : State) (c : CoreId) (p : PvisWords),
  let x := past s c p
  let rd := PvisWords.f p 36 32
  let a := x.reg (PvisWords.f p 28 24)
  let b := x.reg (PvisWords.f p 20 16)
  let put (v : Word) := setCore s.mod c (x.setReg rd v)
  (Issues s c 0x00 p → Gives (exec (.nop c p) s) s (setCore s.mod c x))
  ∧ (Issues s c 0x01 p → Gives (exec (.li c p) s) s (put (BitVec.ofNat 32 (PvisWords.f p 31 0))))
  ∧ (Issues s c 0x02 p → Gives (exec (.alu c p) s) s (put (aluOp (PvisWords.f p 43 40) a b)))
  ∧ (Issues s c 0x03 p →
      Gives (exec (.alui c p) s) s (put (aluOp (PvisWords.f p 43 40) a
        ((BitVec.ofNat 20 (PvisWords.f p 19 0)).signExtend 32))))
  ∧ (Issues s c 0x04 p →
      Gives (exec (.sys c p) s) s
        (put (BitVec.ofNat 32 (Mod.sysItem (setCore s.mod c x) c (PvisWords.f p 3 0)))))
  ∧ (Issues s c 0xC0 p →
      Gives (exec (.evmark c p) s) s (setCluster (setCore s.mod c x) (c / 16)
        { Mod.cluster s.mod (c / 16) with marker := PvisWords.f p 7 0 }))
  ∧ (Issues s c 0x08 p →
      Gives (exec (.level c p) s) s (put (BitVec.ofNat 32 (x.level (PvisWords.f p 3 0)))))

/-- BR goes to its own word plus its signed offset where its condition holds, and on to the next word where it does not;
LOOP takes one from its counter and goes back while that is not zero. -/
def Obligations.BranchTargets : Prop := ∀ (s : State) (c : CoreId) (p : PvisWords),
  let y := Mod.core s.mod c
  let x := past s c p
  let at_ (z : Core) (n : Int) := setCore s.mod c { z with pc := n.toNat }
  (Issues s c 0x06 p → brHolds (PvisWords.f p 42 40) (y.reg (PvisWords.f p 28 24)) (y.reg (PvisWords.f p 20 16)) = true →
      Gives (exec (.br c p) s) s (at_ x (y.pc + signed 16 (PvisWords.f p 15 0))))
  ∧ (Issues s c 0x06 p → brHolds (PvisWords.f p 42 40) (y.reg (PvisWords.f p 28 24)) (y.reg (PvisWords.f p 20 16)) = false →
      Gives (exec (.br c p) s) s (setCore s.mod c x))
  ∧ (Issues s c 0x07 p → y.reg (PvisWords.f p 36 32) ≠ 1 →
      Gives (exec (.loop c p) s) s (at_ (x.setReg (PvisWords.f p 36 32) (y.reg (PvisWords.f p 36 32) - 1))
        (y.pc - PvisWords.f p 15 0)))
  ∧ (Issues s c 0x07 p → y.reg (PvisWords.f p 36 32) = 1 →
      Gives (exec (.loop c p) s) s (setCore s.mod c (x.setReg (PvisWords.f p 36 32) 0)))

/-- Waits of the control unit that hold already end at once. COND reads the condition word once the masked engines are
idle, and clears it when asked; FENCE goes on once they are idle and, above cluster scope, the job's remote writes are
acknowledged; QWAIT goes on while the level compares true, and a core that waits on a level goes on when it does. -/
def Obligations.ControlUnitWaits : Prop := ∀ (s : State) (c : CoreId) (p : PvisWords),
  let x := past s c p
  let y := Mod.core s.mod c
  (Issues s c 0x09 p → Mod.maskIdle s.mod c (PvisWords.f p 7 0) = true →
      Gives (exec (.cond c p) s) s (setCore s.mod c
        { x.setReg (PvisWords.f p 36 32) (BitVec.ofNat 32 x.cond) with
          wait := .none
          cond := if PvisWords.f p 8 8 = 1 then 0 else x.cond }))
  ∧ (Issues s c 0xB0 p → Mod.maskIdle s.mod c (PvisWords.f p 15 8) = true →
      (2 ≤ PvisWords.f p 1 0 → Mod.ackWaits s.mod c = false) →
      Gives (exec (.fence c p) s) s (setCore s.mod c { x with wait := .none }))
  ∧ (Issues s c 0x12 p →
      Gives (exec (.qwait c p) s) s (setCore s.mod c
        (if levelHolds (PvisWords.f p 7 4) (x.level (PvisWords.f p 3 0)) (PvisWords.f p 12 8) then x
         else { x with wait := .level (PvisWords.f p 3 0) (PvisWords.f p 7 4) (PvisWords.f p 12 8) })))
  ∧ (∀ e cmp v, y.wait = .level e cmp v → levelHolds cmp (y.level e) v = true →
      Gives (exec (.qwaitSatisfied c) s) s (setCore s.mod c { y with wait := .none }))

/-- BANK takes the core to the first word of its cluster's other bank when that bank holds a program, at once or when
BANK_READY finds it so; the core leaves the fetch count of the one bank and enters that of the other. END takes the core
out of its bank's fetch count and stops it; with the last core of a cluster, one more of the job's clusters has ended.
What the spec leaves open here is the model's choice (log entry 19). -/
def Obligations.BankSwitchAndEnd : Prop := ∀ (s : State) (c : CoreId) (p : PvisWords),
  let x := past s c p
  let y := Mod.core s.mod c
  let l := c.val / 16
  let k := Mod.cluster s.mod l
  let moved (z : Core) (b : Nat) :=
    let k1 := k.setBank z.bank (k.bank z.bank).leave
    setCore (setCluster s.mod l (k1.setBank b (k1.bank b).enter)) c
      { z with bank := b, pc := 0, role := (k.bank b).role, fetchBuf := [], wait := .none }
  let left := setCore (setCluster s.mod l (k.setBank x.bank (k.bank x.bank).leave)) c { x with running := false }
  (Issues s c 0x0A p → 2 ≤ (k.bank (1 - x.bank)).state → x.bank ≤ 1 →
      Gives (exec (.bank c p) s) s (moved x (1 - x.bank)))
  ∧ (∀ b, y.wait = .bank b → b ≤ 1 → y.bank = 1 - b → 2 ≤ (k.bank b).state → k.preempt = none →
      Gives (exec (.bankReady c) s) s (moved y b))
  ∧ (Issues s c 0x0B p → (∃ i ∈ coresOf l, i ≠ c.val ∧ (Mod.core s.mod i).running = true) →
      Gives (exec (.endRole c p) s) s left)
  ∧ (Issues s c 0x0B p → (∀ i ∈ coresOf l, i ≠ c.val → (Mod.core s.mod i).running = false) →
      Gives (exec (.endRole c p) s) s (Mod.modFlight left x.job fun f => { f with ended := f.ended + 1 }))

/-! ## Flags, hatband lines and counters -/

/-- FSET and FCLR, once the masked engines are idle and the job's remote writes are acknowledged, make the change at the
flag's home and its mirror copy; FWAITS and FWAITC go on at once where the flag has the value, else the wait is
registered; a registered wait that a change has satisfied ends. What the spec leaves open here is the model's choice
(log entries 20 and 21). -/
def Obligations.FlagInstructions : Prop := ∀ (s : State) (c : CoreId) (p : PvisWords),
  let x := past s c p
  let y := Mod.core s.mod c
  let v := PvisWords.f p 11 0
  let has := Mod.flagValue s.mod (Mod.ctxOf s.mod c) (c / 16) v
  let idle := Mod.maskIdle s.mod c (PvisWords.f p 23 16) = true ∧ Mod.ackWaits s.mod c = false
  let waits (w : Bool) := setCore s.mod c (if has = w then x else { x with wait := .flag v w false })
  (Issues s c 0xA0 p → idle →
      Gives (exec (.fset c p) s) s (Mod.flagOp (setCore s.mod c { x with wait := .none }) c v true))
  ∧ (Issues s c 0xA1 p → idle →
      Gives (exec (.fclr c p) s) s (Mod.flagOp (setCore s.mod c { x with wait := .none }) c v false))
  ∧ (Issues s c 0xA2 p → Gives (exec (.fwaits c p) s) s (waits true))
  ∧ (Issues s c 0xA3 p → Gives (exec (.fwaitc c p) s) s (waits false))
  ∧ (∀ f w, y.wait = .flag f w true → Gives (exec (.flagWaitSatisfied c) s) s (setCore s.mod c { y with wait := .none }))

/-- A change served at a flag's home: the flag has the value, a change to the value it has changes nothing, every wait
for that value registered at the home is satisfied, and only a host flag's change writes memory. What the spec leaves
open here is the model's choice (log entry 21). -/
def Obligations.FlagChangeAtItsHome : Prop := ∀ (m : Mod) (k l v : Nat) (val : Bool) (x : Ctx),
  Mod.ctx m k = some x → (Ctx.flagClass x v = .device → sget 0 x.devFlags v ≠ 0) →
  let m1 := Mod.changeFlag m k l v val
  Mod.flagValue m1 k l v = val
  ∧ (Mod.flagValue m k l v = val → m1 = m)
  ∧ (Mod.flagValue m k l v ≠ val → ∀ q sat, (Mod.core m q).ctx = some k → (Mod.core m q).wait = .flag v val sat →
      Ctx.flagClass x v ≠ .host → (Ctx.flagClass x v = .cluster → q / 16 = l) →
      (Mod.core m1 q).wait = .flag v val true)
  ∧ (Ctx.flagClass x v ≠ .host → m1.mem = m.mem)

/-- HBARR records the core's arrival, or waits while its last arrival is not yet released; HBWAIT goes on when that
arrival has been released or there is none; and once every enrolled tap has arrived HATBAND_RELEASE inverts the line's
release sense and no other line's. What the spec leaves open here is the model's choice (log entry 22). -/
def Obligations.HatbandPhases : Prop := ∀ (s : State) (c : CoreId) (p : PvisWords),
  let x := past s c p
  let v := PvisWords.f p 3 0
  (∀ n, Mod.lineOf s.mod (Mod.ctxOf s.mod c) v = some n →
    (Issues s c 0xA4 p → Mod.unreleased s.mod c v n = false →
        Gives (exec (.hbarr c p) s) s (Mod.arrive (setCore s.mod c x) c v n))
    ∧ (Issues s c 0xA4 p → Mod.unreleased s.mod c v n = true →
        Gives (exec (.hbarr c p) s) s (setCore s.mod c { x with wait := .arrive v }))
    ∧ (Issues s c 0xA5 p → Mod.unreleased s.mod c v n = false →
        Gives (exec (.hbwait c p) s) s (setCore s.mod c x))
    ∧ (Issues s c 0xA5 p → Mod.unreleased s.mod c v n = true →
        Gives (exec (.hbwait c p) s) s (setCore s.mod c { x with wait := .release v (sget 0 x.phaseOf v == 2) })))
  ∧ (∀ n : Fin 16, Mod.allArrived s.mod n = true →
      ∃ t, exec (.hatbandRelease n) s = .next t ∧ Mod.release t.mod n = !Mod.release s.mod n
        ∧ (∀ j, j ≠ n.val → Mod.release t.mod j = Mod.release s.mod j) ∧ t.mod.mem = s.mod.mem)

/-- The work counters: a take returns the value before it, with the epoch and wrap bit of its own range; a peek returns
all three and changes nothing; a set starts a new epoch and clears the sticky wrap bit. -/
def Obligations.WorkCounters : Prop := ∀ (s : State) (c : CoreId) (p : PvisWords),
  let x := past s c p
  let w := Mod.ctrPlace s.mod c p
  let k := Mod.counter s.mod w
  let rd := PvisWords.f p 36 32
  let e1 := (k.epoch + 1) % 2 ^ 16
  let n := val16 x.regs (PvisWords.f p 15 0)
  let got (v e : Nat) (b : Bool) :=
    setCore s.mod c ((x.setReg rd (BitVec.ofNat 32 v)).setReg (rd + 1) (BitVec.ofNat 32 (e + 65536 * b2n b)))
  (Issues s c 0xA6 p → k.value + n < 2 ^ 32 →
      Gives (exec (.ctake c p) s) s (Mod.setCounter (got k.value k.epoch false) w { k with value := k.value + n }))
  ∧ (Issues s c 0xA6 p → 2 ^ 32 ≤ k.value + n →
      Gives (exec (.ctake c p) s) s
        (Mod.setCounter (got k.value e1 true) w { value := (k.value + n) % 2 ^ 32, epoch := e1, wrap := true }))
  ∧ (Issues s c 0xA7 p → Gives (exec (.cpeek c p) s) s (got k.value k.epoch k.wrap))
  ∧ (Issues s c 0xA8 p →
      Gives (exec (.cset c p) s) s
        (Mod.setCounter (setCore s.mod c x) w
          { value := (x.reg (PvisWords.f p 28 24)).toNat, epoch := e1, wrap := false }))

/-! ## Engines and queues -/

/-- An instruction that is one command of one engine is put at the end of that engine's queue, with its registers as
they stand, and the engine runs; while the queue of four is full the control unit waits at the command (R19, R286). What
the spec leaves open here is the model's choice (log entry 16). -/
def Obligations.EngineCommandIssue : Prop := ∀ (s : State) (i : Instr) (op e : Nat) (c : CoreId) (p : PvisWords),
  engineRow i = some (op, e, c, p) → Issues s c op p →
  ∃ cl br, exec i s = .next (s.onMod fun m =>
    Mod.pump (tallied (setCore m c (queued (past s c p) e (commandOf (past s c p) op p))) cl br) c e)

/-- What an engine does next with its oldest command. It moves nothing while it is parked or its supply holds it (R229,
R458). A result that is ready goes to the end of its queue when a slot is free and waits otherwise, and nothing is
dropped (R29). A command whose results are out completes: it leaves the engine and its condition bits enter the word
(R291). One that claims what an earlier command claims waits (R28). One that has not started and waits for no token
starts; one that waits for a token takes it from the head of its end (R31), and takes a poisoned one as it (R33). The
rows that resume a waiting command run the engine whose oldest command waits at that end: to push into it, to pop it, or
for a token on it. What the spec leaves open here is the model's choice (log entry 16). -/
def Obligations.EngineMoves : Prop := (∀ (m : Mod) (c e : Nat) (x : ECmd), front m c e x →
  let y := Mod.core m c
  let end_ := nth 15 (inEnds x.p) (PvisWords.tend x.p)
  let step := Mod.engineOne Mod.unitStep m c e
  let able := sget 0 y.parked e = 0 ∧ Mod.held m c = false
  let ready := able ∧ x.out = [] ∧ x.finished = false ∧ y.claimed e x = false
  (sget 0 y.parked e ≠ 0 ∨ Mod.held m c = true → step = none)
  ∧ (∀ q ent rest, able → x.out = (q, ent) :: rest → q < 11 → y.level q < queueDepth q →
      ∃ cl br, step = some (tallied (setCore m c ((y.setQueue q (y.queue q ++ [ent])).setCmds e
        ({ x with out := rest } :: (y.cmds e).tail))) cl br))
  ∧ (∀ q ent rest, able → x.out = (q, ent) :: rest → q < 12 → queueDepth q ≤ y.level q → step = none)
  ∧ (able → x.out = [] → x.finished = true → x.op ≠ 0x61 → step = some (Mod.complete m c e x))
  ∧ (able → x.out = [] → x.finished = false → y.claimed e x = true → step = none)
  ∧ (ready → x.started = false → PvisWords.tmode x.p < 2 →
      step = some (setCore m c (y.setCmds e ({ x with started := true } :: (y.cmds e).tail))))
  ∧ (∀ q qs, ready → x.started = false → 2 ≤ PvisWords.tmode x.p → 2 ≤ end_ → end_ < 7 → y.queue end_ = q :: qs →
      q.marker = 2 → (q.poison = true ∨ q.token = PvisWords.token x.p) →
      step = some (setCore m c ((y.setQueue end_ qs).setCmds e
        ({ x with started := true, poison := x.poison || q.poison } :: (y.cmds e).tail))))
  ∧ (ready → x.started = false → 2 ≤ PvisWords.tmode x.p → (y.queue end_ = [] ∨ ∃ q qs, y.queue end_ = q :: qs ∧ q.marker ≠ 2) →
      step = none))
  ∧ (∀ (s : State) (c : CoreId) (e : Fin 12) (g : Nat),
    ((Mod.core s.mod c).frontsThat (pushesInto e) = [g] →
        exec (.queuePushResume c e) s = .next (s.onMod fun m => Mod.pump m c g))
    ∧ ((Mod.core s.mod c).frontsThat (popsFrom e) = [g] →
        exec (.queuePopResume c e) s = .next (s.onMod fun m => Mod.pump m c g))
    ∧ ((Mod.core s.mod c).frontsThat (awaitsOn e) = [g] →
        exec (.tokenArrival c e) s = .next (s.onMod fun m => Mod.pump m c g)))

/-! ## Macro instructions -/

/-- A macro instruction that issues in the ordinary way does its work on the core that has fetched it; while its engines
have work, or its token has no room, it does not issue and nothing changes. What the spec leaves open here is the
model's choice (log entry 17). -/
def Obligations.MacroIssue : Prop := ∀ (s : State) (i : Instr) (op mask : Nat) (c : CoreId) (p : PvisWords) (run : Mod → Mod),
  macroRow i = some (op, mask, c, p, run) →
  (op = 0x70 ∨ op = 0x71 → Mod.headsDeclared s.mod c op p = true) →
  (IssuesMacro s c op mask p → exec i s = .next (s.onMod fun _ => run (issued s c p)))
  ∧ (pvisIs op p = true → (Mod.maskIdle s.mod c mask = false ∨ Mod.macroRoom s.mod c p = false) → Gives (exec i s) s s.mod)

/-- An attention pass whose length table can be read and offends no rule, whose pages are all in GDDR and whose queries
and outputs can be reached, takes its lists, runs list by list, releases its readers and leaves its condition bits; a
page that is not in GDDR makes the pass wait for it with its readers held (R174, R179, R180, R187). What the spec leaves
open here is the model's choice (log entries 17, 43, 44 and 57). -/
def Obligations.AttentionPass : Prop := ∀ (s : State) (c : CoreId) (p : PvisWords) (x : Ctx) (a : AttnDecl)
    (rows : List (Nat × LenRow)),
  let k := Mod.ctxOf s.mod c
  let m := issued s c p
  let hs := headsOf 0x70 p
  let rs := rows.map (·.2)
  let m1 := Mod.takePass m c ((rs.flatMap fun r => Mod.rowLists m x a.layer hs r).map (·.2)) x
  let ls := Mod.passLists m1 x a.layer hs ((Mod.core m1 c).pass.getD []) rs
  let need := distinct (ls.flatMap PassList.needs)
  let away (q : Nat) := (Mod.page m1 q).tier = 3 ∨ (Mod.page m1 q).tier = 4 ∨ (Mod.page m1 q).tier = 5
  IssuesMacro s c 0x70 0x7F p → Mod.headsDeclared s.mod c 0x70 p = true → Mod.ctx m k = some x →
  Mod.attnDecl m x (PvisWords.f p 43 32) = some a → Mod.tableRows m c p = .inr (rows, false) →
  (Mod.core m c).pass = none → Mod.tableFault m k x a hs false rows = none →
  (∀ ps, (∀ q ∈ need, ¬ away q) → Mod.readPages m1 c need = .inr ps →
      let y := Mod.core m1 c
      let r := ls.foldl (PassRun.step c (PvisWords.x1 p 15 0) (PvisWords.x2 p 63 48) a ps)
        { m := m1, qOff := y.regN (PvisWords.x2 p 47 43), oOff := y.regN (PvisWords.x2 p 42 38) }
      r.fault = none →
      Gives (exec (.attn c p) s) s (Mod.orCond (Mod.macroPoison (Mod.endPass r.m c) c r.poison) c r.cond))
  ∧ (∀ q, need.find? (fun q => decide (away q)) = some q → Gives (exec (.attn c p) s) s (Mod.waitPage m1 c p q))

/-- KVAPP appends every row of every head when all can be appended, with its branches entering verification if it
verifies; KVPF begins to fetch the pages of its lists that are away, and waits for none (R180, R187, R203, R310). What
the spec leaves open here is the model's choice (log entries 17, 43 and 57). -/
def Obligations.AppendAndPrefetch : Prop := ∀ (s : State) (c : CoreId) (p : PvisWords) (x : Ctx)
    (rows : List (Nat × LenRow)),
  let k := Mod.ctxOf s.mod c
  let m := issued s c p
  let y := past s c p
  Mod.ctx m k = some x →
  (∀ a m1 ovf bad, IssuesMacro s c 0x71 0x7F p → Mod.headsDeclared s.mod c 0x71 p = true →
      Mod.attnDecl m x (PvisWords.f p 43 32) = some a → Mod.tableRows m c p = .inr (rows, false) →
      PvisWords.f p 31 28 = 0 → Mod.tableFault m k x a (headsOf 0x71 p) true rows = none →
      Mod.appendHeads m c k p false x a (rows.map (·.2))
        ⟨y.regN (PvisWords.x2 p 31 27), y.regN (PvisWords.x2 p 26 22)⟩ false false
        ((List.range (headsOf 0x71 p).2).map ((headsOf 0x71 p).1 + ·)) = .ok m1 ovf bad →
      Gives (exec (.kvapp c p) s) s (Mod.attnCond (Mod.macroPoison m1 c bad) c false ovf false))
  ∧ (∀ a m1 ovf bad, IssuesMacro s c 0x71 0x7F p → Mod.headsDeclared s.mod c 0x71 p = true →
      Mod.attnDecl m x (PvisWords.f p 43 32) = some a → Mod.tableRows m c p = .inr (rows, false) →
      PvisWords.f p 31 28 ≠ 0 → x.blk.branchTable ≠ 0 →
      Mod.branchesBad m k x true (rows.map (·.2.branch)) = none →
      verifyOk x (PvisWords.f p 31 28) (rows.map (·.2)) = true →
      Mod.tableFault m k x a (headsOf 0x71 p) true rows = none →
      Mod.appendHeads m c k p true x a (rows.map (·.2))
        ⟨y.regN (PvisWords.x2 p 31 27), y.regN (PvisWords.x2 p 26 22)⟩ false false
        ((List.range (headsOf 0x71 p).2).map ((headsOf 0x71 p).1 + ·)) = .ok m1 ovf bad →
      Gives (exec (.kvapp c p) s) s
        (Mod.attnCond (Mod.macroPoison (Mod.enterVerify m1 k (PvisWords.f p 31 28) (rows.map (·.2))) c bad) c false ovf false))
  ∧ (IssuesMacro s c 0x72 0 p →
      Mod.lenRows m c (PvisWords.x1 p 63 48) (y.regN (PvisWords.x1 p 47 43)) 1 = .inr (rows, false) →
      Gives (exec (.kvpf c p) s) s (Mod.prefetchPages m
        ((rows.flatMap fun r => Mod.rowLists m x (PvisWords.f p 31 20) (0, Mod.keyHeads m x (PvisWords.f p 31 20)) r.2).flatMap
          fun h => pagesIn (x.list h.2) (y.regN (PvisWords.x1 p 42 38)) (extent16 y.regs (PvisWords.x1 p 31 16)))))

/-- SAMPLE puts the token it chooses into its register. VERIFY puts the accepted count and the next token into a
register pair. Both only read the objects they name: what memory holds is as before (R312, R313). What the spec leaves
open here is the model's choice (log entries 49 and 58). -/
def Obligations.SampleAndVerify : Prop := ∀ (s : State) (c : CoreId) (p : PvisWords),
  let k := Mod.ctxOf s.mod c
  let m := issued s c p
  let x := past s c p
  let done (m1 : Mod) (bad nan : Bool) :=
    Mod.orCond (Mod.macroPush (Mod.macroPoison m1 c bad) c p bad) c (condNan nan)
  (∀ ls bad, IssuesMacro s c 0x77 0x7F p →
      Mod.objWords m c (PvisWords.x1 p 63 48) (x.regN (PvisWords.x1 p 47 43)) (extent16 x.regs (PvisWords.x1 p 31 16))
        = .inr (ls, bad) →
      let q := branchDraw (Mod.seed m k) (x.regN (PvisWords.x1 p 37 33)) (x.regN (PvisWords.x1 p 42 38))
      let r := sampleToken (x.reg (PvisWords.f p 28 24)) (x.reg (PvisWords.f p 20 16)) (PvisWords.x1 p 15 0) ls
        (q.a / 256) m.free
      Gives (exec (.sample c p) s) s
        (done { setCore m c (x.setReg (PvisWords.f p 36 32) r.1) with free := m.free + 1 } bad r.2))
  ∧ (∀ cx ls cs qs p1 p2 p3, IssuesMacro s c 0x78 0x7F p → Mod.ctx m k = some cx → cx.blk.branchTable ≠ 0 →
      let b := x.branchNo (PvisWords.f p 28 24)
      let r := if b < 4096 then cx.branch b else {}
      let v := extent16 x.regs (PvisWords.x2 p 26 11)
      let ratio := PvisWords.f p 43 43 == 1
      Mod.branchesBad m k cx true ([b].filter (· < 4096)) = none →
      Mod.objWords m c (PvisWords.x1 p 63 48) (x.regN (PvisWords.x1 p 47 43)) ((r.pending + 1) * v) = .inr (ls, p1) →
      Mod.objWords m c (PvisWords.x2 p 63 48) (x.regN (PvisWords.x2 p 47 43)) r.pending = .inr (cs, p2) →
      (if ratio then Mod.objWords m c (PvisWords.x2 p 42 27) (x.regN (PvisWords.x2 p 10 6)) (r.pending * v)
        else .inr ([], false)) = .inr (qs, p3) →
      let z := VerifyIn.run
        { ratio := ratio, t := x.reg (PvisWords.f p 20 16), pTop := x.reg (PvisWords.f p 12 8), v := v
          seed := Mod.seed m k, branch := b, base := r.verifyBase
          logits := ls, cands := cs, draft := qs, free := m.free }
      Gives (exec (.verify c p) s) s
        (done { setCore m c ((x.setReg (PvisWords.f p 36 32) (BitVec.ofNat 32 z.1)).setReg (PvisWords.f p 36 32 + 1) z.2.1) with
          free := m.free + r.pending + 2 } (p1 || p2 || p3) z.2.2))
  ∧ (∀ (m1 : Mod) bad nan, (done m1 bad nan).mem = m1.mem)

/-- SMODAL, SSCAN and SCELL step the states of the streams they name, write the layer output and count the steps, when
the job names the streams, their entries can be read and no access faults (R141, R150, R152, R154, R314). What the spec
leaves open here is the model's choice (log entries 38, 41 and 42). -/
def Obligations.StreamUpdates : Prop := ∀ (s : State) (c : CoreId) (p : PvisWords) (x : Ctx),
  let k := Mod.ctxOf s.mod c
  let m := issued s c p
  let ns := streamsOf (past s c p) p
  let ch := channelsOf (past s c p) p
  let m0 := { m with free := m.free + ns.length * streamFree }
  let able := Mod.ctx m k = some x ∧ Mod.jobNames m c ns = true ∧ Mod.entriesBad m k x (ns.map fun n => { stream := n }) = none
  let done (r : StateRun) (m1 : Mod) (sat : Bool) (steps : Nat) (bad : Bool) :=
    Mod.orCond (Mod.macroPush (Mod.macroPoison (ns.foldl (fun y n => if steps = 0 then y else Mod.addSteps y c n steps) m1)
      c bad) c p bad) c (condVec (r.out.any fun w => (f32 w).isNan) false sat false)
  let runs (op : Nat) (i : Instr) (f : Nat → StateStep) (rows steps : Nat) :=
    ∀ m1 sat, IssuesMacro s c op 0x7F p → able →
      let r := ns.foldl (StateRun.step c k x f) { m := m0 }
      let bad := Mod.inputPoison m c p x ns ch.2 rows || r.poison
      r.fault = none → Mod.streamOutput r.m c p ch.2 r.out bad = (m1, none, sat) →
      Gives (exec i s) s (done r m1 sat steps bad)
  let first (n : Nat) := if ch.1 = 0 then n else 0
  let t := 2 ^ PvisWords.f p 15 12
  let phase := PvisWords.f p 17 16
  let back := PvisWords.f p 11 11 == 1
  let gru := PvisWords.f p 11 11 == 1
  runs 0x80 (.smodal c p) (fun n => modalStep (freeAt m ns n) ch.1 ch.2) ns.length (first 1)
  ∧ runs 0x81 (.sscan c p) (fun n => scanStep (freeAt m ns n) ch.1 ch.2 (phase == 2 && !back) (phase == 3) t)
      (ns.length * t) (if phase = 3 && !back && ch.1 = 0 then t else 0)
  ∧ runs 0x82 (.scell c p) (fun n =>
      let kind := (Ctx.stream x n).kind
      if gru && kind == 3 then gruStep (freeAt m ns n) ch.1 ch.2
      else if !gru && kind == 2 then lstmStep (freeAt m ns n) ch.1 ch.2
      else fun _ xs => (xs, [])) ns.length (first 1)

/-- SRESET marks its streams for a reset and SANCHOR also moves their anchors, 64-byte aligned, to places of its object;
both resets apply at once and the steps counted for the streams so far go (R143, R314). What the spec leaves open here
is the model's choice (log entries 38 and 42). -/
def Obligations.StreamResets : Prop := ∀ (s : State) (c : CoreId) (p : PvisWords) (x : Ctx) (m1 : Mod),
  let k := Mod.ctxOf s.mod c
  let m := issued s c p
  let ns := streamsOf (past s c p) p
  let as := Mod.anchorsOf m c p ns
  let done := Mod.modFlight m1 (past s c p).job fun f => { f with steps := ns.foldl (fun t n => sset 0 t n 0) f.steps }
  let able := Mod.ctx m k = some x ∧ Mod.jobNames m c ns = true ∧ Mod.entriesBad m k x (ns.map fun n => { stream := n }) = none
  (IssuesMacro s c 0x83 0x7F p → able →
      Mod.applyResets (ns.foldl (fun y n => Mod.modStream y k n fun e => { e with reset := true }) m) k ns = (m1, none) →
      Gives (exec (.sreset c p) s) s done)
  ∧ (IssuesMacro s c 0x84 0x7F p → able → (∀ a ∈ as, a.2 % 64 = 0) →
      Mod.applyResets (as.foldl (fun y a => Mod.modStream y k a.1 fun e => { e with reset := true, anchorPtr := a.2 }) m) k ns
        = (m1, none) →
      Gives (exec (.sanchor c p) s) s done)

/-- BFORK gives the child the parent's lists cut at the fork position and a record of its own, and the parent one more
child; no byte of memory changes (R195, R196). What the spec leaves open here is the model's choice (log entry 47). -/
def Obligations.BranchFork : Prop := ∀ (s : State) (c : CoreId) (p : PvisWords) (x : Ctx),
  let k := Mod.ctxOf s.mod c
  let y := past s c p
  let parent := y.branchNo (PvisWords.f p 36 32)
  let child := y.branchNo (PvisWords.f p 28 24)
  let at_ := y.regN (PvisWords.f p 20 16)
  let r := x.branch parent
  let d := x.branch child
  let keys := x.listsOf r.listBlock
  Issues s c 0x73 p → Mod.ctx s.mod k = some x → x.blk.branchTable ≠ 0 → child < 4096 → parent < 4096 → at_ ≠ 0 →
  Mod.branchesBad (issued s c p) k x true [child, parent] = none →
  d.state = 0 → r.state = 1 →
  (∀ key ∈ keys, at_ ≤ (x.list key).length ∧ (x.list key).ring = false ∧
      (cutEntries at_ (x.list key).entries).length ≤ (x.list (childKey r.listBlock d.listBlock key)).capacity) →
  ∃ t x', exec (.bfork c p) s = .next t ∧ Mod.ctx t.mod k = some x' ∧ t.mod.mem = s.mod.mem
    ∧ x'.branch child = { d with
        state := 1, parent := parent, sequence := r.sequence, length := at_, forkPosition := at_, children := 0
        generation := (d.generation + 1) % 65536, pending := 0, verifyBase := 0 }
    ∧ x'.branch parent = { r with children := r.children + 1 }
    ∧ (∀ b, b ≠ child → b ≠ parent → x'.branch b = x.branch b)

/-- BKILL and BPRUNE remove their branches at once where no other started job names them, and otherwise wait;
KILL_WAIT_DONE removes them once the jobs have ended; BCOMMIT cuts the lists of a verified branch at the accepted count
and makes it live again (R195, R198, R204). What the spec leaves open here is the model's choice (log entry 47). -/
def Obligations.BranchEnds : Prop := ∀ (s : State) (c : CoreId) (p : PvisWords) (x : Ctx),
  let k := Mod.ctxOf s.mod c
  let y := past s c p
  let m := issued s c p
  let b := y.branchNo (PvisWords.f p 36 32)
  let able := Mod.ctx s.mod k = some x ∧ x.blk.branchTable ≠ 0 ∧ Mod.branchesBad m k x true ([b].filter (· < 4096)) = none
  let kills (i : Instr) (op : Nat) (prune : Bool) :=
    let bs := x.removed prune b
    let js := Mod.killJobs m k y.job bs
    Issues s c op p → able → x.branchState b ≠ 0 →
    (js = [] → Gives (exec i s) s (bs.foldl (Mod.killBranch k) m))
    ∧ (js ≠ [] → Gives (exec i s) s
        (Mod.modCore (Mod.modCtx m k fun z => { z with kills := z.kills ++ [⟨b, prune, c, y.job, bs, js⟩] }) c
          fun z => { z with wait := .kill b }))
  kills (.bkill c p) 0x74 false
  ∧ kills (.bprune c p) 0x75 true
  ∧ (∀ (j : Fin 16) (z : Ctx) (w : KillWait) (n : Nat), Mod.ctx s.mod j = some z →
      (Mod.waitingKills s.mod z).find? (fun w => w.branch == n) = some w →
      (∀ i ∈ w.jobs, Mod.flight s.mod i = none) → (Mod.core s.mod w.core).wait = .kill n →
      (Mod.core s.mod w.core).job = w.job →
      Gives (exec (.killWaitDone j n) s) s
        (Mod.modCore (Mod.modCtx (w.removes.foldl (Mod.killBranch j) s.mod) j fun q =>
          { q with kills := q.kills.filter (· != w) }) w.core fun q => { q with wait := .none }))
  ∧ (Issues s c 0x76 p → able → x.branchState b = 2 → y.regN (PvisWords.f p 28 24) ≤ (x.branch b).pending →
      let r := x.branch b
      let top := r.verifyBase + y.regN (PvisWords.f p 28 24)
      let z := (x.listsOf r.listBlock).foldl (fun (q : Mod × Bool) key =>
        let u := Mod.commitList q.1 k top key; (u.1, q.2 || u.2)) (m, false)
      Gives (exec (.bcommit c p) s) s
        (Mod.attnCond (Mod.modBranch z.1 k b fun q => { q with state := 1, pending := 0, length := top }) c false z.2 false))

/-- LBDECL makes its line buffer afresh, with no row in any slot. A convolution whose filter can be read and whose rows
can be filled, formed and stored completes with its condition bits; where its output has no rows or columns it only sets
zero_output. HSEND and HRECV run once their slot's flag has the value they wait for, and register the wait otherwise
(R116, R126, R134, R304 to R306). What the spec leaves open here is the model's choice (log entries 34 and 51). -/
def Obligations.ConvolutionInstructions : Prop := ∀ (s : State) (c : CoreId) (p : PvisWords),
  let k := Mod.ctxOf s.mod c
  let y := past s c p
  let m := issued s c p
  let lb := PvisWords.f p 43 42
  (Issues s c 0x50 p →
      let first := if PvisWords.x1 p 63 63 = 1 then signed 32 (y.reg (PvisWords.x1 p 62 58)).toNat else signed 17 (PvisWords.x1 p 16 0)
      ∃ t, exec (.lbdecl c p) s = .next t
        ∧ sget {} (Mod.core t.mod c).lineBufs lb =
          { valid := true, baseLine := PvisWords.f p 41 32, slots := PvisWords.f p 31 25, pixels := PvisWords.f p 24 16 + 1
            blocks := PvisWords.f p 14 9 + 1, firstCol := first, scale := PvisWords.f p 8 8 == 1 }
        ∧ (∀ q ∈ (Mod.core t.mod c).rowTags, q.1 / 64 ≠ lb)
        ∧ (∀ j, j ≠ lb → sget {} (Mod.core t.mod c).lineBufs j = sget {} y.lineBufs j)
        ∧ t.mod.mem = s.mod.mem)
  ∧ (IssuesMacro s c 0x51 0x3F p →
      let a := convShape y p
      let b : LineBuf := sget {} y.lineBufs a.lb
      let after (z : Mod) := match Mod.nextGate m c with | some g => Mod.modCore z c fun q => Core.fetched q g | none => z
      (a.outH = 0 ∨ a.outW = 0 → Gives (exec (.conv c p) s) s (after (Mod.macroPush (Mod.zeroOut c m) c p false)))
      ∧ (∀ rd fpo m1 cond po, a.outH ≠ 0 → a.outW ≠ 0 → b.valid = true →
          Mod.linesOk m c b.baseLine (b.slots * b.slotLines) true = true → Mod.filterOf m c k a = .inr (rd, fpo) →
          Mod.convRows m c k a rd (Mod.nextGate m c) 0 fpo a.rows 0 = .done m1 cond po →
          Gives (exec (.conv c p) s) s
            (after (Mod.macroPoison (Mod.macroPush (Mod.orCond m1 c (cond ||| 512 * b2n a.periodic)) c p po) c po))))
  ∧ (∀ h, Mod.halo m k (PvisWords.x1 p 63 48) = some h →
      let slot := sget false y.haloNext (PvisWords.x1 p 63 48)
      let v := if slot then h.flagB else h.flagA
      let flag (consumer : Bool) := Mod.haloFlag m c k (PvisWords.x1 p 63 48) v consumer
      (∀ m1, IssuesMacro s c 0x53 0x20 p → flag false = false → Mod.haloSend m c p = (m1, true) →
          Gives (exec (.hsend c p) s) s m1)
      ∧ (IssuesMacro s c 0x53 0x20 p → flag false = true →
          Gives (exec (.hsend c p) s) s (setCore m c { y with wait := .halo v false 0x53 p }))
      ∧ (∀ m1, IssuesMacro s c 0x54 0x20 p → flag true = true → Mod.haloRecv m c p = (m1, true) →
          Gives (exec (.hrecv c p) s) s m1)
      ∧ (IssuesMacro s c 0x54 0x20 p → flag true = false →
          Gives (exec (.hrecv c p) s) s (setCore m c { y with wait := .halo v true 0x54 p })))

/-- A page being fetched is in GDDR once its transfer has ended, and the cores that waited for it go on; a page being
spilled gives its frame back once its copy has ended; and a spill begins with the page the rule chooses while fewer than
1/64 of the frames are free (R185 to R188). What the spec leaves open here is the model's choice (log entry 46). -/
def Obligations.PageMoves : Prop := ∀ (s : State) (page : Nat) (x : Ctx),
  let d := Mod.page s.mod page
  let dst := Mod.pageVa s.mod page 0
  (∀ m1 ok, d.tier = 5 → Mod.kvBusy s.mod page = false → Mod.ctx s.mod d.owner = some x → d.flash = false →
      Mod.copyVa s.mod d.owner d.spillAddr dst 65536 = (m1, none) →
      Gives (exec (.pageFetchDone page ok) s) s (Mod.pageIn m1 page (!ok)))
  ∧ (∀ m1 ok e, d.tier = 5 → Mod.kvBusy s.mod page = false → Mod.ctx s.mod d.owner = some x → d.flash = true →
      x.spillExtent = some e →
      Mod.vaWrite s.mod (brimTlbOf dst) d.owner dst (Mod.slotRead s.mod e d.spillAddr) (!ok) = (m1, none) →
      Gives (exec (.pageFetchDone page ok) s) s (Mod.pageIn m1 page (!ok)))
  ∧ (∀ (m : Mod) (po : Bool) (q : Nat), (Mod.core m q).wait = .page page → (Mod.core (Mod.pageIn m page po) q).wait = .none)
  ∧ (∀ m1, d.tier = 2 → d.readers = 0 → Mod.kvBusy s.mod page = false → d.refcount ≠ 0 → Mod.ctx s.mod d.owner = some x →
      d.flash = false → Mod.copyVa s.mod d.owner dst d.spillAddr 65536 = (m1, none) →
      Gives (exec (.spillCopyDone page) s) s (Mod.pageOut m1 page false))
  ∧ (∀ (m : Mod) (po : Bool), (Mod.pageOut m page po).kv.free = (Mod.page m page).frame :: m.kv.free
      ∧ (Mod.page (Mod.pageOut m page po) page).tier = (if (Mod.page m page).flash then 4 else 3))
  ∧ (∀ v be, s.mod.kv.free.length < s.mod.kv.pages / 64 → Mod.spillVictim s.mod be = some v →
      Gives (exec (.pageSpill be) s) s (Mod.spillPage s.mod v))

/-! ## Visor (R472 to R476) -/

/-- The visor's registers and snapshots. A write of VIS_CLSEL_c keeps the selectors and leaves what is in force alone; a
write of VIS_BRSEL_n also zeroes the counter; a snapshot writes the records with their header to host memory and zeroes
the counters it covers when asked; EVSNAP writes the issuing cluster's record to its object. What the spec leaves open
here is the model's choice (log entry 23). -/
def Obligations.VisorRegistersAndSnapshots : Prop := ∀ (s : State), s.mod.sys.cfgReady = true →
  (∀ (k : Fin 16) (v : DWord), ∃ t, exec (.visClselWrite k v) s = .next t
      ∧ sget 0 t.mod.vis.clsel k = v &&& 0x3FFF_3FFF_3FFF_3FFF ∧ t.mod.vis.clInForce = s.mod.vis.clInForce
      ∧ (∀ j, j ≠ k.val → sget 0 t.mod.vis.clsel j = sget 0 s.mod.vis.clsel j) ∧ t.mod.mem = s.mod.mem)
  ∧ (∀ (n : Fin 64) (v : Word), ∃ t, exec (.visBrselWrite n v) s = .next t
      ∧ Mod.brsel t.mod n = (v &&& 0x00FF_3FFF).toNat ∧ sget {} t.mod.vis.brVals n = {}
      ∧ (∀ j, j ≠ n.val → Mod.brsel t.mod j = Mod.brsel s.mod j) ∧ t.mod.mem = s.mod.mem)
  ∧ (∀ (v : Word), bitAt v.toNat 0 = true → bitAt v.toNat 2 = true → s.mod.vis.busy = false →
      let bytes := Mod.snapBytes s.mod 2 0xFF ((List.range 4).map (Mod.brimRecord s.mod))
      ∃ t, exec (.visSnapGo v) s = .next t ∧ t.mod.vis.snaps = s.mod.vis.snaps + 1
        ∧ t.mod.mem = (Mod.hostWrite s.mod s.mod.vis.snapAddr.toNat bytes false).mem
        ∧ (bitAt v.toNat 1 = true → t.mod.vis.brVals = []))
  ∧ (∀ (v : Word), bitAt v.toNat 0 = true → bitAt v.toNat 2 = false → s.mod.vis.busy = false →
      let k := fld v.toNat 7 4
      let bytes := Mod.snapBytes s.mod 1 k ((Mod.ctxRoleClusters s.mod k).map (Mod.clusterRecord s.mod k))
      ∃ t, exec (.visSnapGo v) s = .next t ∧ t.mod.vis.snaps = s.mod.vis.snaps + 1
        ∧ t.mod.mem = (Mod.hostWrite s.mod s.mod.vis.snapAddr.toNat bytes false).mem)
  ∧ (∀ (c : CoreId) (p : PvisWords) (m1 : Mod), IssuesMacro s c 0xC1 0x20 p →
      let k := Mod.ctxOf s.mod c
      let m := issued s c p
      let va := (Mod.objVa m k (PvisWords.f p 31 16)) + ((past s c p).reg (PvisWords.f p 36 32)).toNat
      Mod.vaWrite m (clusterTlb c) k va (Mod.snapBytes m 0 k [Mod.clusterRecord m k (c / 16)]) false = (m1, none) →
      ∃ t, exec (.evsnap c p) s = .next t ∧ t.mod.mem = (Mod.countDma m1 c k va 112 true).mem)

/-! ## Rings and the host interface (R348 to R358, R373, R517 to R520, R524) -/

/-- A ring that is polled takes a new tail that lies within its size and becomes active, after the host's earlier stores
are visible; a tail beyond the size, or a failed read, stops the ring with a ring_error event; an idle ring is polled no
more until a kick. A kick that is enabled makes the ring active and its record be read again, until the record has
reached the kick's sequence number or 64 reads have passed (R353 to R356). -/
def Obligations.DoorbellsAndKicks : Prop := ∀ (s : State) (n : Fin 64) (record : DWord) (stores : List Host.Cell),
  let q := Mod.sq s.mod n
  let tail := BitVec.ofNat 32 (fld record.toNat 31 0)
  let m0 := Mod.hostStores s.mod stores
  let taken (m : Mod) (x : Sq) := Mod.setSq m n { x with tail := tail, active := true }
  let stopped (m : Mod) (reason : Nat) :=
    Mod.event (Mod.setSq m n { Mod.sq m n with stopped := true, kick := none }) .ringError 0xFF n reason
  let again (k : Word) (left : Nat) : Option (Word × Nat) :=
    if behind32 (fld record.toNat 63 32) k.toNat = true ∧ left ≠ 0 then some (k, left - 1) else none
  Mod.polls s.mod n = true →
  (ahead32 tail.toNat q.fetched.toNat ≤ q.size → tail ≠ q.tail →
      Gives (exec (.doorbellPoll n record true stores) s) s (taken m0 q))
  ∧ (tail = q.tail → ahead32 tail.toNat q.fetched.toNat ≤ q.size →
      Gives (exec (.doorbellPoll n record true stores) s) s m0)
  ∧ (q.size < ahead32 tail.toNat q.fetched.toNat →
      Gives (exec (.doorbellPoll n record true stores) s) s (stopped m0 1))
  ∧ Gives (exec (.doorbellPoll n record false stores) s) s (stopped m0 2)
  ∧ Gives (exec (.ringIdleTimeout n) s) s (Mod.setSq s.mod n { q with active := false })
  ∧ (∀ seq : Word, s.mod.sys.cfgReady = true → bitAt s.mod.host.ctrl.toNat 0 = true →
      Gives (exec (.hifKick n seq) s) s (Mod.setSq s.mod n { q with active := true, kick := some (seq, 64) }))
  ∧ (∀ (k : Word) (left : Nat), q.kick = some (k, left) → ahead32 tail.toNat q.fetched.toNat ≤ q.size → tail ≠ q.tail →
      Gives (exec (.kickRepoll n record true) s) s
        (taken s.mod { q with kick := again k left }))
  ∧ (∀ (k : Word) (left : Nat), q.kick = some (k, left) → ahead32 tail.toNat q.fetched.toNat ≤ q.size → tail = q.tail →
      Gives (exec (.kickRepoll n record true) s) s (Mod.setSq s.mod n { q with kick := again k left }))
  ∧ (∀ kick : Word × Nat, q.kick = some kick → Gives (exec (.kickRepoll n record false) s) s (stopped s.mod 2))

/-- A descriptor is fetched while its ring is behind its tail, a completion slot is free and the arbiter grants the
ring: it is counted, its slot is reserved and it is remembered with the policy as it stands; one that fails a check, or
that a failing module no longer takes, ends at once with its status (R357, R361, R375). What the spec leaves open here
is the model's choice (log entries 85 and 88). -/
def Obligations.DescriptorFetching : Prop := ∀ (s : State) (n : Fin 64) (d : BitVec 512),
  let q := Mod.sq s.mod n
  let m1 := Mod.accept s.mod s.mgt.policy n d
  Mod.fetchable s.mod n = true → Mod.granted s.mod n = true →
  ((Mod.sq m1 n).fetched = q.fetched + 1
    ∧ (Mod.cq m1 q.cqNum).reserved = (Mod.cq s.mod q.cqNum).reserved + 1
    ∧ m1.host.flights = s.mod.host.flights ++ [{ id := s.mod.host.nextId, ring := n, raw := d, policy := s.mgt.policy }]
    ∧ m1.mem = s.mod.mem ∧ m1.ctxs = s.mod.ctxs ∧ m1.cores = s.mod.cores)
  ∧ (s.mod.sys.failing = false → Mod.descValid s.mod d = true → Gives (exec (.descriptorFetch n d true) s) s m1)
  ∧ (s.mod.sys.failing = false → Mod.descValid s.mod d = false →
      Gives (exec (.descriptorFetch n d true) s) s (Mod.endFlight m1 s.mod.host.nextId .descriptorInvalid 0 0))
  ∧ (s.mod.sys.failing = true → descKind d ≠ 0x0E → descKind d ≠ 0x0D →
      Gives (exec (.descriptorFetch n d true) s) s (Mod.endFlight m1 s.mod.host.nextId .deviceFailing 0 0))
  ∧ Gives (exec (.descriptorFetch n d false) s) s
      (Mod.event (Mod.setSq s.mod n { q with stopped := true, kick := none }) .ringError 0xFF n 2)

/-- A completion record is 32 bytes, written at the ring's next slot with the ring's phase, which inverts where the slot
is the last; the next slot is then posted + 1. A head record's count is taken when the ring has no free slot and the
count lies between the last one taken and posted; a message sent by the timer covers every record before it (R358, R370
to R373, R524). -/
def Obligations.CompletionRings : Prop := ∀ (s : State) (n : Fin 64),
  let q := Mod.cq s.mod n
  (∀ (m : Mod) (rec : Bool → List Byte), let x := Mod.cq m n
      let m1 := Mod.postRecord m n rec
      m1.mem = (Mod.hostWrite m (x.base.toNat + 32 * (x.posted.toNat % x.size)) (rec x.phase) false).mem
      ∧ (Mod.cq m1 n).posted = x.posted + 1
      ∧ (Mod.cq m1 n).phase = (if x.posted.toNat % x.size + 1 = x.size then !x.phase else x.phase)
      ∧ (∀ j, j ≠ n.val → Mod.cq m1 j = Mod.cq m j) ∧ m1.host.sq = m.host.sq)
  ∧ (∀ t st k r c h d p ti ph, (recordBytes t st k r c h d p ti ph).length = 32)
  ∧ (∀ count : Word, Mod.walkerUp s.mod = true → q.enabled = true → q.free = 0 →
      ahead32 count.toNat q.head.toNat ≤ ahead32 q.posted.toNat q.head.toNat →
      Gives (exec (.completionHeadPoll n count) s) s (Mod.drainEvents (Mod.setCq s.mod n { q with head := count }) 257))
  ∧ (∀ count : Word, ahead32 q.posted.toNat q.head.toNat < ahead32 count.toNat q.head.toNat →
      Gives (exec (.completionHeadPoll n count) s) s s.mod)
  ∧ (q.enabled = true → fld q.ctrl.toNat 41 32 ≠ 0 → q.sinceMsg ≠ 0 →
      Gives (exec (.coalescingTimer n) s) s
        (Mod.sendVector (Mod.setCq s.mod n { q with sinceMsg := 0 }) (fld q.ctrl.toNat 23 16)))

/-- Ring control. An enable is taken by a disabled ring, and starts it afresh: a submission ring at entry 0 if its
completion ring is enabled and is not the event ring, a completion ring and the fault ring at record 0 with phase 1. A
disable of a completion ring is taken while no enabled ring posts to it and none of its slots is reserved. While a ring
is enabled, its other fields keep what they hold (R517, R518, R520). -/
def Obligations.RingControlWrites : Prop := ∀ (s : State) (n : Fin 64) (v : Word) (w : DWord), s.mod.sys.cfgReady = true →
  let q := Mod.sq s.mod n
  let c := Mod.cq s.mod n
  let able := (Mod.cq s.mod (fld v.toNat 13 8)).enabled = true ∧ Mod.eventRing s.mod ≠ some (fld v.toNat 13 8)
  let fields := v &&& BitVec.ofNat 32 sqCtrlMask
  let cfields := w &&& BitVec.ofNat 64 cqCtrlMask
  let f := s.mod.flt
  (q.enabled = false → bitAt v.toNat 0 = true → able →
      Gives (exec (.hifSqCtrlWrite n v) s) s (Mod.setSq s.mod n { q with
        ctrl := fields ||| 1, stopped := false, fetched := 0, active := false, tail := 0, kick := none }))
  ∧ (q.enabled = false → (bitAt v.toNat 0 = false ∨ ¬ able) →
      Gives (exec (.hifSqCtrlWrite n v) s) s (Mod.setSq s.mod n { q with ctrl := fields, stopped := false }))
  ∧ (q.enabled = true → bitAt v.toNat 0 = false →
      Gives (exec (.hifSqCtrlWrite n v) s) s (Mod.setSq s.mod n { q with
        ctrl := q.ctrl &&& 0xFFFF_FFFE, stopped := false, active := false, kick := none }))
  ∧ (q.enabled = true → bitAt v.toNat 0 = true → Gives (exec (.hifSqCtrlWrite n v) s) s s.mod)
  ∧ (c.enabled = false → bitAt w.toNat 0 = true →
      Gives (exec (.hifCqCtrlWrite n w) s) s (Mod.drainEvents (Mod.setCq s.mod n { c with
        ctrl := cfields ||| 1, phase := true, posted := 0, reserved := 0, head := 0, sinceMsg := 0 }) 257))
  ∧ (c.enabled = true → bitAt w.toNat 0 = false → Mod.cqUsed s.mod n = false → c.reserved = 0 →
      Gives (exec (.hifCqCtrlWrite n w) s) s (Mod.setCq s.mod n { c with ctrl := c.ctrl &&& BitVec.ofNat 64 cqCtrlMask }))
  ∧ (c.enabled = true → (bitAt w.toNat 0 = true ∨ Mod.cqUsed s.mod n = true ∨ c.reserved ≠ 0) →
      Gives (exec (.hifCqCtrlWrite n w) s) s s.mod)
  ∧ (bitAt s.mod.host.ctrl.toNat 15 = false → Mod.cqUsed s.mod (fld v.toNat 13 8) = false →
      Gives (exec (.hifCtrlWrite v) s) s (Mod.drainEvents { s.mod with host := { s.mod.host with
        ctrl := BitVec.ofNat 32 (fld v.toNat 0 0 + (if s.noBar4 then 0 else 2 * fld v.toNat 1 1)
          + 256 * fld v.toNat 13 8 + 32768 * b2n (bitAt v.toNat 15)) } } 257))
  ∧ (f.enabled = false → bitAt v.toNat 0 = true →
      Gives (exec (.mmuFaultCtrlWrite v) s) s (Mod.drainFaults { s.mod with flt := { f with
        ctrl := v &&& BitVec.ofNat 32 faultCtrlMask ||| 1, index := 0, phase := true, head := 0 } } f.buffered.length))
  ∧ (f.enabled = true → bitAt v.toNat 0 = false →
      Gives (exec (.mmuFaultCtrlWrite v) s) s { s.mod with flt := { f with
        ctrl := f.ctrl &&& BitVec.ofNat 32 faultCtrlMask
        recs := f.recs.map fun x => { x with orphan := true } } })

/-- The host link. BAR4 is a window on physical addresses from its base: writes store, reads answer the bytes and their
poison, and while it is closed every access is an Unsupported Request. D3hot is entered only while no context exists. An
invalidation drops every page of its range from the translation cache, and a page request's answer puts its page in or,
as its timeout does, raises host_access_error (R348 to R350, R519). What the spec leaves open here is the model's choice
(log entries 93 and 109). -/
def Obligations.HostLink : Prop := ∀ (s : State),
  let open_ := s.mod.sys.cfgReady = true ∧ bitAt s.mod.host.ctrl.toNat 1 = true
  let pa (off : Nat) := s.mod.host.bar4Base.toNat + off
  (∀ off len wr, ¬ open_ → exec (.bar4Access off len wr) s = .next { s with resp := { ur := true } })
  ∧ (∀ off len bs, open_ →
      exec (.bar4Access off len (some bs)) s = .next { s with mod := Mod.physWrite s.mod (pa off) bs false, resp := {} })
  ∧ (∀ off len, open_ → Mod.paAbsent s.mod (pa off) = false → inReserve (pa off) = false →
      exec (.bar4Access off len none) s = .next { s with resp :=
        { data := (Mod.physRead s.mod (pa off) len).1, poison := (Mod.physRead s.mod (pa off) len).2 } })
  ∧ (Mod.liveContexts s.mod = 0 →
      Gives (exec (.d3hotTransition true) s) s { s.mod with host := { s.mod.host with d3hot := true } })
  ∧ (Mod.liveContexts s.mod ≠ 0 → Gives (exec (.d3hotTransition true) s) s s.mod)
  ∧ Gives (exec (.d3hotTransition false) s) s { s.mod with host := { s.mod.host with d3hot := false } }
  ∧ (∀ addr len, ∃ t, exec (.atsInvalidationRequest addr len) s = .next t
      ∧ (∀ p ∈ t.mod.host.atc, p ∈ s.mod.host.atc ∧ (p.1 * 4096 + 4096 ≤ addr ∨ addr + len ≤ p.1 * 4096))
      ∧ (∀ p ∈ s.mod.host.atc, (p.1 * 4096 + 4096 ≤ addr ∨ addr + len ≤ p.1 * 4096) → p ∈ t.mod.host.atc))
  ∧ (∀ idx r, s.mod.host.pageReqs.find? (·.idx == idx) = some r →
      let h := { s.mod.host with pageReqs := s.mod.host.pageReqs.filter (·.idx != idx) }
      let failed := (Mod.raiseFault { s.mod with host := h } .hostAccessError .coreDma r.ctx r.addr false r.unit 0 0 0 false none).1
      Gives (exec (.pageRequestResponse idx true) s) s
        { s.mod with host := { h with atc := ((r.addr / 4096, r.addr / 4096) :: h.atc).take 512 } }
      ∧ Gives (exec (.pageRequestResponse idx false) s) s failed
      ∧ Gives (exec (.pageRequestTimeout idx) s) s failed)

/-! ## Descriptors (R141 to R161, R277 to R280, R330, R357 to R379) -/

/-- A completion record gives its fields at the offsets of R370. When a descriptor ends and no ABORT waits for it, its
record carries its tag, kind, ring, context and the ring's fetch count, with the status, detail, progress and Crown
timer; it is written at the next slot of the ring's completion ring, the reserved slot is given back, and the descriptor
is gone. What the spec leaves open here is the model's choice (log entry 91). -/
def Obligations.CompletionRecord : Prop :=
  (∀ tag status kind ring ctx sqHead detail progress time phase,
      let r := recordBytes tag status kind ring ctx sqHead detail progress time phase
      r.length = 32 ∧ at_ r 0x00 4 = tag % 2 ^ 32 ∧ at_ r 0x04 1 = status % 256 ∧ at_ r 0x05 1 = kind % 256
        ∧ at_ r 0x06 1 = ring % 256 ∧ at_ r 0x07 1 = ctx % 256 ∧ at_ r 0x08 4 = sqHead % 2 ^ 32
        ∧ at_ r 0x0C 4 = detail % 2 ^ 32 ∧ at_ r 0x10 8 = progress % 2 ^ 64 ∧ at_ r 0x18 7 = time % 2 ^ 56
        ∧ at_ r 0x1F 1 = 128 * b2n phase)
  ∧ (∀ (m : Mod) (fl : Flight) (st : Status) (progress detail : Nat),
      Mod.flight m fl.id = some fl → (∀ f ∈ m.host.flights, f.waitsFor.contains fl.id = false) →
      let q := Mod.sq m fl.ring
      let c := Mod.cq m q.cqNum
      let rec_ := recordBytes (descTag fl.raw) st.code (descKind fl.raw) fl.ring (descCtx fl.raw) q.fetched.toNat detail
        progress m.sys.timer.toNat
      let m1 := Mod.endFlight m fl.id st progress detail
      m1.mem = (Mod.hostWrite m (c.base.toNat + 32 * (c.posted.toNat % c.size)) (rec_ c.phase) false).mem
        ∧ m1.host.flights = m.host.flights.filter (·.id != fl.id)
        ∧ (Mod.cq m1 q.cqNum).posted = c.posted + 1
        ∧ (Mod.cq m1 q.cqNum).reserved = c.reserved - 1)

/-- SIGNAL changes its flag at the home and completes. WAIT completes where the flag has the value, else it is
registered and completes once a value that matched has been held. FENCE without invalidate completes once no write of a
completed job is unacknowledged; with it, no TLB holds an entry of its range any more and every other entry stays (R226,
R330, R367). What the spec leaves open here is the model's choice (log entry 94). -/
def Obligations.SignalWaitFence : Prop := ∀ (s : State) (fl : Flight),
  let m := s.mod
  let d := fl.raw
  let flag := descFld d 8 11 0
  let v := descFld d 8 12 12 == 1
  (Mod.ready m fl.id 0x05 = some fl →
      Gives (exec (.signal fl.id) s) s (Mod.endFlight (Mod.changeFlag m (descCtx d) 0 flag v) fl.id .ok 0 0))
  ∧ (Mod.ready m fl.id 0x06 = some fl → fl.started = false → Mod.flagValue m (descCtx d) 0 flag = v →
      Gives (exec (.wait fl.id) s) s (Mod.endFlight m fl.id .ok 0 0))
  ∧ (Mod.ready m fl.id 0x06 = some fl → fl.started = false → Mod.flagValue m (descCtx d) 0 flag = !v →
      Gives (exec (.wait fl.id) s) s (Mod.startFlight m fl.id))
  ∧ (m.sys.crown = 0 → Mod.flight m fl.id = some fl → descKind d = 0x06 → fl.started = true → fl.endStatus = some .ok →
      Gives (exec (.waitSatisfied fl.id) s) s (Mod.endFlight m fl.id .ok 0 0))
  ∧ (Mod.ready m fl.id 0x07 = some fl → descFld d 8 0 0 = 0 → Mod.lateWrites m = false →
      Gives (exec (.fenceDescriptor fl.id) s) s (Mod.endFlight m fl.id .ok 0 0))
  ∧ (Mod.ready m fl.id 0x07 = some fl → descFld d 8 0 0 = 1 →
      let hit := invHits (descFld d 8 1 1 == 1) (descCtx d) (descFld d 8 2 2 == 1) (descFld d 0x10 47 0) (descFld d 0x18 47 0)
      let m1 := Mod.invalidate m hit
      Gives (exec (.fenceInvalidate fl.id) s) s (Mod.endFlight m1 fl.id .ok 0 0)
      ∧ (∀ n e, e ∈ sget [] m1.mem.tlbs n → hit e = false)
      ∧ (∀ n e, e ∈ sget [] m.mem.tlbs n → hit e = false → e ∈ sget [] m1.mem.tlbs n))

/-- COPY moves its bytes and completes with their count, POISONED_DATA if poison was read, or parks at the first byte
that faults. QUERY writes an item cut to its buffer and completes with the bytes the item needs: 80, 256, 64, 256 and 16
(R367, R369). What the spec leaves open here is the model's choice (log entry 90). -/
def Obligations.CopyAndQuery : Prop := ∀ (s : State) (fl : Flight),
  let m := s.mod
  let d := fl.raw
  let n := descFld d 0x18 47 0
  let at0 := if fl.started then fl.progress else 0
  let r := Mod.copyBytes (Mod.startFlight m fl.id) (descCtx d) (descFld d 0x1E 0 0 == 1) (descFld d 0x1E 1 1 == 1)
    (2 * (n / 0x1_0000) + 4) (descFld d 0x08 63 0 + at0) (descFld d 0x10 63 0 + at0) at0 (n - at0) fl.poisoned
  let asks (item : Nat) := Mod.ready m fl.id 0x0E = some fl ∧ descFld d 8 7 0 = item
  let answers (bytes : List Byte) :=
    Mod.endFlight (Mod.hostWrite m (descFld d 0x10 63 0) (bytes.take (descFld d 0x18 31 0)) false) fl.id .ok bytes.length 0
  (Mod.ready m fl.id 0x04 = some fl → r.fault = none →
      Gives (exec (.copy fl.id) s) s (Mod.endFlight r.mod fl.id (if r.poison then .poisonedData else .ok) r.done 0))
  ∧ (asks 0 → Gives (exec (.queryDevice fl.id) s) s (answers (Mod.queryDevice m s.patchLevel)))
  ∧ (asks 1 → Gives (exec (.querySites fl.id) s) s (answers (Mod.querySites m)))
  ∧ (asks 2 → Gives (exec (.queryDrives fl.id) s) s (answers (Mod.queryDrives m)))
  ∧ (asks 3 → Gives (exec (.queryContexts fl.id) s) s (answers (Mod.queryContexts m)))
  ∧ (asks 4 → Gives (exec (.queryJob fl.id) s) s (answers (Mod.queryJob m (descFld d 8 15 8) (descFld d 0x0C 31 0))))
  ∧ (Mod.queryDevice m s.patchLevel).length = 80 ∧ (Mod.querySites m).length = 256 ∧ (Mod.queryDrives m).length = 64
  ∧ (Mod.queryContexts m).length = 256 ∧ (∀ ring tag, (Mod.queryJob m ring tag).length = 16)

/-- RUN reads its stream list and waits to start; a list that names a stream twice makes it invalid and a poisoned one
ends it. A waiting job whose streams pass the checks, whose branches no kill waits on and that is not outranked starts
when its clusters are free: its streams are brought in and reset, and its roles begin; a stream that is absent ends it,
and while another context holds the module exclusively it is held (R141, R142, R198, R345, R365, R366, R392). What the
spec leaves open here is the model's choice (log entries 48 and 88). -/
def Obligations.JobStart : Prop := ∀ (s : State) (fl : Flight) (c : Ctx),
  let m := s.mod
  let k := descCtx fl.raw
  let n := descFld fl.raw 0x0E 15 0
  let va := descFld fl.raw 0x08 47 0
  let waits := m.sys.crown = 0 ∧ Mod.flight m fl.id = some fl ∧ fl.waitsToStart = true ∧ Mod.ctx m k = some c
  let ls := Image.clusterList c.image
  let busy := if c.exclusive then ls.filter (fun l => !Mod.clusterFree m k l) ++ Mod.othersRunning m k
    else ls.filter fun l => !Mod.clusterFree m k l
  let may := waits ∧ Mod.startCheck m k c fl.streams = .go ∧ Mod.waitingKills m c = []
  let mine := Mod.exclusiveActive m = none ∨ Mod.exclusiveActive m = some k
  (∀ bs, Mod.ready m fl.id 0x03 = some fl → fl.started = false → fl.phase ≠ .waiting → n ≠ 0 →
      Mod.vaRead m (brimTlbOf va) k va (8 * n) = .inr (bs, false) → ((streamRefs bs n).map (·.stream)).Nodup →
      Gives (exec (.run fl.id) s) s (Mod.modFlight m fl.id fun x => { x with phase := .waiting, streams := streamRefs bs n }))
  ∧ (∀ bs, Mod.ready m fl.id 0x03 = some fl → fl.started = false → fl.phase ≠ .waiting → n ≠ 0 →
      Mod.vaRead m (brimTlbOf va) k va (8 * n) = .inr (bs, false) → ¬ ((streamRefs bs n).map (·.stream)).Nodup →
      Gives (exec (.run fl.id) s) s (Mod.endFlight m fl.id .descriptorInvalid 0 0))
  ∧ (Mod.ready m fl.id 0x03 = some fl → fl.started = false → fl.phase ≠ .waiting → n = 0 →
      Gives (exec (.run fl.id) s) s (Mod.modFlight m fl.id fun x => { x with phase := .waiting, streams := [] }))
  ∧ (∀ m1 m2, may → mine → Mod.outranked m fl ls = false → busy = [] →
      Mod.bringAll m k c.lc (fl.streams.map (·.stream)) (fl.streams.map (·.stream)) = some m1 →
      (Mod.flight m1 fl.id).isSome = true → (Mod.ctx m1 k).isSome = true →
      Mod.applyResets m1 k (fl.streams.map (·.stream)) = (m2, none) →
      Gives (exec (.runJobStart fl.id) s) s (Mod.startRoles m2 fl c))
  ∧ (∀ st, waits → Mod.startCheck m k c fl.streams = .end_ st →
      Gives (exec (.runJobStart fl.id) s) s (Mod.endFlight m fl.id st (Flight.progressField fl) 0))
  ∧ (∀ ex, may → Mod.exclusiveActive m = some ex → ex ≠ k →
      Gives (exec (.runJobStart fl.id) s) s (Mod.hold m fl ex))

/-- A job whose roles have all ended, and whose commands and writes are done, ends with the status of its run, its
streams advanced, and what follows an end. An abort ends its targets and completes, or finds none (R141, R342, R377 to
R379). What the spec leaves open here is the model's choice (log entry 91). -/
def Obligations.JobEnd : Prop := ∀ (s : State) (fl : Flight),
  let m := s.mod
  let targets (wide : Bool) := Mod.abortTargets m fl wide
  let gone (wide : Bool) := Mod.abortAll (Mod.startFlight m fl.id) (targets wide)
  let aborts (wide : Bool) := Mod.ready m fl.id 0x0D = some fl ∧ bitAt (descFld fl.raw 0x0C 31 0) 8 = wide
  let ends (wide : Bool) (i : Instr) :=
    (aborts wide → targets wide = [] → Gives (exec i s) s (Mod.endFlight m fl.id .abortNoTarget 0 0))
    ∧ (aborts wide → targets wide ≠ [] → (gone wide).2.2 = [] →
        Gives (exec i s) s (Mod.endFlight (gone wide).1 fl.id (if (gone wide).2.1 then .ok else .abortLate) 0 0))
  (m.sys.crown = 0 → Mod.flight m fl.id = some fl → descKind fl.raw = 0x03 → fl.started = true → fl.total = fl.ended →
      fl.phase ≠ .ending → Mod.jobSettled m fl = true →
      Gives (exec (.jobCompletion fl.id) s) s
        (Mod.afterJob (Mod.finishJob m fl.id fl.ranStatus) fl (Mod.stepCounts m (descCtx fl.raw))))
  ∧ ends false (.abort fl.id) ∧ ends true (.abortContextWide fl.id)
  ∧ (∀ (c : Ctx) (ends : Nat) (r : StreamRef), r ∈ fl.streams → (fl.streams.map (·.stream)).Nodup →
      let e := Ctx.stream c r.stream
      let c1 := Ctx.advance c fl ends
      (Ctx.stream c1 r.stream).nextChunk = (e.nextChunk + 1) % 2 ^ 32
      ∧ (Ctx.stream c1 r.stream).stepCount = (e.stepCount + sget 0 fl.steps r.stream) % 2 ^ 64
      ∧ Ctx.pinned c1 r.stream = false)

/-- A preemption request turns hard when its soft time is over. A cluster whose cores have stopped for it is saved, the
save area permitting, and freed; the earliest saved context that may return is restored to a cluster that is free, each
core with the registers, queues and scratchpad it was saved with, in a bank that holds its role (R386 to R398). What the
spec leaves open here is the model's choice (log entry 89). -/
def Obligations.PreemptSaveRestore : Prop := ∀ (s : State) (l : ClusterId), s.mod.sys.crown = 0 →
  let m := s.mod
  let c := Mod.cluster m l
  Gives (exec (.softPreemptTimeout l) s) s
    (setCluster m l { c with preempt := c.preempt.map fun p => { p with hard := true } })
  ∧ (∀ p k x po, c.preempt = some p → c.ctx = some k → Mod.ctx m k = some x →
      (∀ i ∈ coresOf l, Mod.stopped m p.hard i = true) → Mod.rangeState m k true (Mod.savePieces m x l) = .inr po →
      Gives (exec (.clusterSave l) s) s (Mod.saveCluster (Mod.cleanRange m k (Mod.savePieces m x l)) k l p))
  ∧ (∀ k sv x po, Mod.nextRestore m l = some (k, sv) → c.job = none → c.retiring = false →
      (∀ j, sv.forJob = some j → Mod.flight m j = none) → (∀ e, Mod.exclusiveActive m = some e → e = k) →
      Mod.awaited m k l = false → Mod.ctx m k = some x → Mod.rangeState m k false (Mod.savePieces m x l) = .inr po →
      let m1 := Mod.restoreCluster m k l sv po
      (∀ r ∈ m1.flt.recs, r.answer = 0) →
      Gives (exec (.clusterRestore l) s) s m1)
  ∧ (∀ (now saved : Core) (w i : Nat), let y := Core.restored now saved w
      y.regs = saved.regs ∧ y.queues = saved.queues ∧ y.engines = saved.engines ∧ y.acc = saved.acc ∧ y.pc = saved.pc
      ∧ (w * 32 ≤ i → sget 0 y.spad i = sget 0 saved.spad i) ∧ (i < w * 32 → sget 0 y.spad i = sget 0 now.spad i))

/-- A load whose image fails a check completes with the status of its first diagnostic, its diagnostics in the buffer. A
model that passes is made resident with its weights and its banks; a context is made with the image it names, its banks
loaded; roles are loaded over a context's, each into the bank its cluster's rule names, and the load completes when none
waits for a fetch count; a waiting bank is written once its fetch count is zero; the end of a program ends its context
(R13, R37 to R39, R277, R362 to R364). What the spec leaves open here is the model's choice (log entries 86 and 87). -/
def Obligations.Loads : Prop := ∀ (s : State) (fl : Flight) (img : Image) (blk : ModelBlock) (cb : CtxBlock),
  let m := s.mod
  let v := s.secView fl.id
  let k := descCtx fl.raw
  let bytes := descFld fl.raw 0x18 63 0
  let free := (Image.clusterList img).any (Mod.clusterBusy m) = false
  let op (n : Nat) := Mod.ready m fl.id 0x02 = some fl ∧ descFld fl.raw 8 1 0 = n ∧ fl.started = false
  let passes (asModel any : Bool) := ∀ ds, Mod.checkImage m v img bytes asModel any ≠ .rejected ds
  (∀ m1 m2, Mod.takeoverOn m = false → Mod.ready m fl.id 0x01 = some fl → modelBlockOk blk = true →
      passes true (Mod.liveContexts m != 0) → Mod.installModel (Mod.startFlight m fl.id) fl.id img blk = m1 →
      Mod.writeObjects (Mod.writeWeights m1 img.weights) blk img.objectBytes = (m2, none) →
      Gives (exec (.loadModel fl.id img blk) s) s (Mod.push_ (Mod.endFlight m2 fl.id .ok 0 0)))
  ∧ (∀ ds, Mod.takeoverOn m = false → Mod.ready m fl.id 0x01 = some fl → modelBlockOk blk = true →
      Mod.checkImage m v img bytes true (Mod.liveContexts m != 0) = .rejected ds →
      Gives (exec (.loadModel fl.id img blk) s) s (Mod.rejectLoad m fl ds))
  ∧ (∀ m1, op 1 → passes false false → free → Mod.makeContext m fl img cb = (m1, .ok) →
      Gives (exec (.loadProgramCreateContext fl.id (some img) cb) s) s
        (Mod.endLoad (Mod.loadBanks (Mod.cacheLoad (Mod.startFlight m1 fl.id) img) fl.id (some k) false img) fl.id))
  ∧ (∀ c, op 0 → passes false false → free → Mod.ctx m k = some c →
      let m1 := Mod.loadBanks (Mod.cacheLoad (Mod.startFlight m fl.id) img) fl.id (some k)
        (bitAt (descFld fl.raw 8 4 0) 2) (renumbered c.image img)
      Gives (exec (.loadProgramLoadRoles fl.id img) s) s
        (Mod.endLoad (Mod.modCtx m1 k fun x => { x with image := overlay x.image img }) fl.id))
  ∧ (Mod.ready m fl.id 0x02 = some fl → descFld fl.raw 8 1 0 = 2 →
      Gives (exec (.loadProgramEndContext fl.id) s) s
        (Mod.endFlight (Mod.endContext m k true fun _ => .contextKilled) fl.id .ok 0 0))
  ∧ (∀ (l : ClusterId) id ctx role words, (Mod.cluster m l).bank0.waitLoad = some (id, ctx, role, words) →
      (Mod.cluster m l).bank0.fetch = 0 →
      let m1 := setCluster m l ((Mod.cluster m l).setBank 0
        { (Mod.cluster m l).bank0 with state := 2, fetch := 0, ctx := ctx, role := role, words := words, waitLoad := none })
      let m2 := Mod.modFlight m1 id fun f => { f with progress := f.progress + 1 }
      Mod.loadsWait m2 id = false →
      Gives (exec (.bankLoad l) s) s (Mod.takeWaitLoad (Mod.endFlight m2 id .ok 0 0) l 1))

/-- A stream that no job has pinned is exported: header, state and trailer go to the place the descriptor names, its
export number counts up, and its residency returns, or with move it is gone from the module. An import checks its blob's
header, length and checksum and takes its state, chunk, steps and horizon, or leaves the stream moved (R157 to R161).
What the spec leaves open here is the model's choice (log entries 39 and 40). -/
def Obligations.StreamCopies : Prop := ∀ (s : State) (fl : Flight) (c : Ctx),
  let m := s.mod
  let k := descCtx fl.raw
  let n := descFld fl.raw 8 15 0
  let e := Ctx.stream c n
  let size := descFld fl.raw 0x18 31 0
  let named := Mod.ctx m k = some c ∧ Ctx.streamAbsent c n = false ∧ e.stateSize + 128 ≤ size
  let idle := Ctx.pinned c n = false ∧ busyCopy fl e = false
  let move := bitAt (descFld fl.raw 8 63 0) 16
  let isVa := bitAt (descFld fl.raw 8 63 0) 17
  let a := descFld fl.raw 0x10 63 0
  (Mod.ready m fl.id 0x08 = some fl → named → idle → e.residency ≠ 4 → move = false →
      Gives (exec (.streamExport fl.id) s) s (Mod.exportRun m fl e false))
  ∧ (Mod.ready m fl.id 0x08 = some fl → named → idle → e.residency ≠ 4 → move = true →
      Gives (exec (.streamExportMove fl.id) s) s (Mod.exportRun m fl e true))
  ∧ (Mod.ready m fl.id 0x09 = some fl → named → idle → Gives (exec (.streamImport fl.id) s) s (Mod.importStart m fl c e))
  ∧ (∀ mv body po m2 m3, e.residency ≠ 2 →
      let m0 := if mv then Mod.endMoved m k n e.nextChunk else m
      let m1 := Mod.modStream (Mod.modFlight (Mod.startFlight m0 fl.id) fl.id fun x => { x with prevRes := e.residency + 1 })
        k n fun x => { x with residency := 2 }
      Mod.blobBody m1 k n e = .inr (body, po) → Mod.blobWrite m1 k isVa a body po = (m2, none) →
      Mod.blobWrite m2 k isVa (a + body.length) (blobTrailer body) po = (m3, none) →
      let m4 := Mod.modStream m3 k n fun x =>
        { x with exportSeq := (x.exportSeq + 1) % 2 ^ 32, residency := if mv then 4 else e.residency,
                 statePtr := if mv then 0 else x.statePtr }
      Mod.exportRun m fl e mv =
        Mod.endFlight (if mv then Mod.freeStreamSlot m4 k n else m4) fl.id (if po then .poisonedData else .ok)
          (body.length + 64) 0)
  ∧ (∀ m1 b h body slot, let va := Mod.slotVa m slot
      Mod.vaWrite m (brimTlbOf va) k va (convState e b (body.take b.bytes)) false = (m1, none) →
      (at_ body b.bytes 4 = crc32c (h ++ body.take b.bytes) →
        Mod.importRun m fl e b h body false slot = Mod.endFlight (Mod.modStream m1 k n fun x =>
          { x with precision := streamPrec e, nextChunk := b.nextChunk, stepCount := b.stepCount, horizon := b.horizon,
                   reset := false, residency := 0, statePtr := va }) fl.id .ok (64 + b.bytes + 64) 0)
      ∧ (at_ body b.bytes 4 ≠ crc32c (h ++ body.take b.bytes) →
        Mod.importRun m fl e b h body false slot = Mod.endFlight (Mod.modStream (Mod.freeStreamSlot m1 k n) k n fun x =>
          { x with residency := 4, statePtr := 0 }) fl.id .poisonedData (64 + b.bytes + 64) 0))

/-! ## Faults and translation (R225 to R233) -/

/-- Faults wait in order for room in the fault ring and are written there. A response answers the records the head has
passed; a record without one in its service time counts as abandoned; an answered record is gone but for the operations
of saved contexts, which keep their response. A walk that reaches a leaf fills the TLB with it, at its head, and one
that does not fills nothing (R225, R230 to R233). What the spec leaves open here is the model's choice (log entry 92). -/
def Obligations.FaultService : Prop := ∀ (s : State),
  let m := s.mod
  let q := m.flt
  (∀ r rs, q.buffered = r :: rs → q.room = true →
      Gives (exec .faultRecordDrain s) s (Mod.writeFaultRec { m with flt := { q with buffered := rs } } r))
  ∧ (∀ r : FaultRec, (faultBytes r q.phase).length = 64
      ∧ (Mod.writeFaultRec m r).mem = (Mod.hostWrite m (q.base.toNat + 64 * (q.index % q.size)) (faultBytes r q.phase) false).mem
      ∧ (Mod.writeFaultRec m r).flt.index = q.index + 1)
  ∧ (∀ (head : Word) (resps : List Byte), q.enabled = true → headTakes q.head.toNat (q.index % 2 ^ 32) head.toNat = true →
      let m1 := { m with flt := { q with head := head } }
      let base := q.index - ahead32 (q.index % 2 ^ 32) q.head.toNat
      let m2 := (List.range (ahead32 head.toNat q.head.toNat)).foldl
        (fun x i => Mod.respond x (base + i) (nth 0 resps i).toNat) m1
      Gives (exec (.faultResponseRead head resps) s) s (Mod.drainFaults m2 m2.flt.buffered.length))
  ∧ (∀ seq r, q.recs.find? (fun r => r.seq == seq && r.answer == 0) = some r →
      Gives (exec (.faultServiceTimeout seq) s) s (Mod.answer m r false))
  ∧ (∀ (r : FaultRec) (retry : Bool), (∀ o ∈ r.ops, Mod.opSaved m o = true) → r.ops ≠ [] →
      Mod.answer m r retry = { m with flt := { q with
        recs := q.recs.filter (fun x => x.seq != r.seq) ++ [{ r with answer := if retry then 1 else 2 }] } })
  ∧ (∀ (t : TlbId) (ctx : Nat) (va : BitVec 48) (w : Bool) (e : Nat) (large : Bool),
      let es := sget [] m.mem.tlbs (tlbKey t)
      let x : TlbEntry := { model := bitAt va.toNat 47, ctx := if bitAt va.toNat 47 then 0xFF else ctx
                            page := if large then va.toNat / 0x20_0000 else va.toNat / 0x1_0000
                            large := large, leaf := BitVec.ofNat 64 e }
      es.any (tlbHit ctx va.toNat) = false → Mod.walk m (Mod.root m ctx va.toNat) va.toNat = .leaf e large →
      Gives (exec (.tlbMissWalk t ctx va w) s) s
        { m with mem := { m.mem with tlbs := sset [] m.mem.tlbs (tlbKey t) ((x :: es).take (tlbRoom t)) } })

/-! ## Place tables and the flash tier (R237 to R261, R315, R368, R434, R441, R521) -/

/-- A bind whose checks pass makes the binding and prefetches the warm keys; one that fails ends with its status, and
one whose drive is still coming up waits. An unbind leaves nothing of the table. A spill extent that fits becomes the
context's. A flush writes back the pages that are dirty now and goes on. The spatial hash names a row of the table (R243
to R246, R252, R260, R368). What the spec leaves open here is the model's choice (log entries 67 and 68). -/
def Obligations.TableBinding : Prop := ∀ (s : State) (fl : Flight) (d : TableDesc) (shards : List ShardEntry)
    (warm : List (BitVec 128)),
  let m := s.mod
  let k := descCtx fl.raw
  let asks (kind : Nat) := Mod.ready m fl.id 0x0A = some fl ∧ descFld fl.raw 0x1C 1 0 = kind
  let whole := shards.length = d.shards ∧ shards ≠ []
  let b : Bound := { (sget {} m.tab.bound d.table : Bound) with d := d, shards := shards }
  let bound := { m with tab := { m.tab with bound := sset {} m.tab.bound d.table b } }
  let t := leNat (Mod.hostRead m (descFld fl.raw 0x08 63 0) 1).1
  let left := Mod.unbind m t
  (asks 0 → whole → Mod.bindCheck m k d = .ok → Mod.isSpare m = false →
      Gives (exec (.tableBind fl.id d shards warm) s) s (Mod.endFlight
        (Mod.prefetchRows bound d.table (Mod.ctxLc m k) (warm.map fun x => hashRow d x.toNat)) fl.id .ok 0 0)
      ∧ Mod.bound bound d.table = some b)
  ∧ (∀ st, asks 0 → whole → Mod.bindCheck m k d = .bad st →
      Gives (exec (.tableBind fl.id d shards warm) s) s (Mod.endFlight m fl.id st 0 0))
  ∧ (asks 0 → whole → Mod.bindCheck m k d = .wait →
      Gives (exec (.tableBind fl.id d shards warm) s) s (Mod.startFlight m fl.id))
  ∧ (asks 1 → Gives (exec (.tableUnbind fl.id) s) s (Mod.endFlight left fl.id .ok 0 0)
      ∧ Mod.bound left t = none ∧ (∀ r, Mod.updSlot left t r = none) ∧ (∀ x ∈ left.tab.dirty, x.1 ≠ t)
      ∧ (∀ p ∈ left.tab.ways, p.2.table ≠ t))
  ∧ (asks 2 → Mod.drivesCheck m d = .ok → Mod.extentFits m d d.firstLba (16 * d.rows) = true →
      Gives (exec (.tableBindSpillExtent fl.id d) s) s
        (Mod.endFlight (Mod.modCtx m k fun c => { c with spillExtent := some d }) fl.id .ok 0 0))
  ∧ (asks 2 → Mod.drivesCheck m d = .ok → Mod.extentFits m d d.firstLba (16 * d.rows) = false →
      Gives (exec (.tableBindSpillExtent fl.id d) s) s (Mod.endFlight m fl.id .imageRejected 0 0))
  ∧ (Mod.ready m fl.id 0x0B = some fl → fl.started = true →
      Gives (exec (.tableFlush fl.id) s) s
        (Mod.flushStep ((fl.flushes.filter fun p => !fl.merged.contains p).foldl (fun x p => Mod.writeBack x p.1 p.2) m) fl.id))
  ∧ (Mod.ready m fl.id 0x0B = some fl → fl.started = false → m.tab.updates = [] → m.tab.dirty = [] →
      Gives (exec (.tableFlush fl.id) s) s (Mod.flushStep (Mod.modFlight (Mod.startFlight m fl.id) fl.id fun x =>
        { x with flushes := [], merged := [], progress := 0 }) fl.id))
  ∧ (∀ key, 0 < d.rows → hashRow d key < d.rows)

/-- GATHER, TPF and SCATTER hand a bag with their key list to the gather engine; a scatter-add the table or the context
does not allow ends the context. A bag's rows are its keys' rows, each once, with their multiplicities. A bag that has
all its rows is pooled and pushed while there is room, and ends when all is out; a table engine that is fused off pushes
a poisoned token to each end it would have pushed and marks the job (R50, R247, R248, R253, R257, R315). What the spec
leaves open here is the model's choice (log entries 24, 62 and 64). -/
def Obligations.TableGathers : Prop := ∀ (s : State) (c : CoreId) (p : PvisWords),
  let m := s.mod
  let m1 := issued s c p
  let bag (kind : Nat) := Mod.bagFor m1 c p kind
  (Issues s c 0x90 p → Gives (exec (.gather c p) s) s (Mod.newBag m1 (bag 0)))
  ∧ (Issues s c 0x91 p → Gives (exec (.tpf c p) s) s (Mod.newBag m1 (bag 1)))
  ∧ (Issues s c 0x92 p → Mod.scatterDenied m c (PvisWords.f p 43 36) = false →
      Gives (exec (.scatter c p) s) s (Mod.newBag m1 (bag 2)))
  ∧ (Issues s c 0x92 p → Mod.scatterDenied m c (PvisWords.f p 43 36) = true →
      Gives (exec (.scatter c p) s) s (Mod.kill m1 c .region .tableGather 0 (PvisWords.f p 43 36)))
  ∧ (∀ kind, (bag kind).keys = val16 (past s c p).regs (PvisWords.x1 p 31 16) ∧ (bag kind).table = PvisWords.f p 43 36
      ∧ (bag kind).ctx = Mod.ctxOf m c ∧ (bag kind).job = (past s c p).job)
  ∧ (∀ rows : List Nat, ((bagRows rows).map (·.1)).Nodup ∧ (∀ r n, (r, n) ∈ bagRows rows → n = rows.count r ∧ 0 < n)
      ∧ (∀ r ∈ rows, (r, rows.count r) ∈ bagRows rows))
  ∧ (∀ b : Bag, Mod.bagOf m b.id = some b → b.kind = 0 → b.complete = true → b.parked = false → b.pooled = false →
      let po := b.got.any fun g => g.2.2
      let m2 := if po then Mod.markPoison m b.job else m
      let out := Mod.bagEntries m b ++ b.token.toList.map fun t => (0, tokenEntry t.1 po 0)
      (∀ m3, Mod.pushOut m2 b out = (m3, []) → Gives (exec (.gatherBagDeliver b.id) s) s (Mod.endBag m3 b))
      ∧ (∀ m3 q qs, Mod.pushOut m2 b out = (m3, q :: qs) →
          Gives (exec (.gatherBagDeliver b.id) s) s (Mod.modBag m3 b.id fun x => { x with out := q :: qs, pooled := true })))
  ∧ (∀ ends tok, Mod.canIssue m c = true → m.sys.grade = .s64 → Mod.rawRole m c = true →
      Gives (exec (.nullEngineCommand c ends tok) s) s
        (Mod.markAbsent ((ends.map (·.val)).foldl (Mod.nullPush c (tok.elim 0 (·.toNat))) m) (Mod.core m c).job))

/-- When a fill has brought its page the way becomes valid, its reads are served and reads without a way look again. A
dirty page is written back when its turn comes: the merged page goes to another way, and its slots are free. A
background copy that ends is opened and an event says so (R251, R259, R441). What the spec leaves open here is the
model's choice (log entries 59, 64 and 65). -/
def Obligations.TableCache : Prop := ∀ (s : State) (t copy page k : Nat),
  let m := s.mod
  let w := Mod.way m k
  let set := Mod.cacheSet m t (page % 2 ^ 40)
  let asked := Mod.updHigh m = true ∨ ∃ f ∈ m.host.flights, f.flushes.contains (t, page) = true ∧ f.merged.contains (t, page) = false
  (Mod.findWay m t copy page = some k → w.filling = true → w.loaded = true →
      let m1 := Mod.setWay m k { w with valid := true, filling := false, loaded := false }
      Gives (exec (.tableFillDone t copy page) s) s
        (Mod.flushAll (Mod.relook ((Mod.readsOf m1 t copy page).foldl (fun x r => Mod.serveFrom x k r) m1)
          (Mod.cacheSet m t page))))
  ∧ (∀ bs v, asked → Mod.dirtyRows m t page ≠ [] → (Mod.bound m t).isSome = true →
      Mod.findWay m t (page / 2 ^ 40) (page % 2 ^ 40) = some k → w.valid = true →
      Mod.vaRead m (brimTlbOf (Mod.wayVa m k)) 0xFF (Mod.wayVa m k) 4096 = .inr (bs, false) →
      Mod.oldestWay m ((waysOf set).filter fun j => j != k && !(Mod.way m j).filling) = some v →
      Gives (exec (.writeBack t page) s) s (Mod.flushAll (Mod.wakeScatters (Mod.mergeInto m t page k v bs))))
  ∧ (∀ m1 v bs, Mod.vaWrite m (brimTlbOf (Mod.wayVa m v)) 0xFF (Mod.wayVa m v)
        (mergedPage (Mod.tableD m t) bs (Mod.dirtyRows m t page)) false = (m1, none) →
      (Mod.mergeInto m t page k v bs).tab.updates = m1.tab.updates.filter fun u =>
        !(u.table == t && slotPage (Mod.tableD m t) u.row == page))
  ∧ (∀ b, Mod.bound m t = some b → copy < 2 → bitAt b.copying copy = true →
      Gives (exec (.shardCopyDone t copy) s) s (Mod.event (Mod.modBound m t fun x => { x with
        copying := x.copying - 2 ^ copy
        opened := x.opened ||| 2 ^ copy }) .shardCopyDone 0xFF t 0))

/-- A drive that comes up in time has its queues; at its timeout, when its link falls or its controller fails it goes
offline: its commands are gone and the host is told. A completion ends the oldest use of its command and clears the
count of timeouts, a third timeout in a row takes the drive offline. A write of FLP_QUEUES_n before bring-up is kept for
it (R237 to R239, R255, R256, R521). What the spec leaves open here is the model's choice (log entries 66 and 67). -/
def Obligations.Drives : Prop := ∀ (s : State) (p : Fin 4),
  let m := s.mod
  let d := Mod.drive m p
  let up := d.state = 1 ∨ d.state = 3
  (∀ gen width lbas grant nsids wrr, d.state = 3 →
      Gives (exec (.driveBringUp p gen width lbas grant nsids wrr) s) s (Mod.modDrive m p fun d => Drive.create { d with
        state := 1, present := true, gen := gen, width := width, lbas := lbas, nsids := nsids, urgent := wrr, grant := grant }))
  ∧ (d.state = 3 → Gives (exec (.driveReadyTimeout p) s) s (Mod.driveOffline m p))
  ∧ (up → Gives (exec (.flashLinkDown p) s) s (Mod.driveOffline m p))
  ∧ (up → Gives (exec (.controllerFatalStatus p) s) s (Mod.driveOffline m p))
  ∧ (∀ cid ok x, d.state = 1 → d.outstanding.find? (fun c => c.cid == cid) = some x →
      Gives (exec (.nvmeCompletionPoll p [(cid, ok)]) s) s
        (Mod.flushAll (Mod.nvmeDone (Mod.modDrive (Mod.dropCmd m p cid) p fun d => { d with timeouts := 0 }) p x ok)))
  ∧ (∀ cid x, d.outstanding.find? (fun c => c.cid == cid) = some x → x.cls = 2 → x.kvPage = 0 → d.timeouts < 2 →
      Gives (exec (.nvmeCommandTimeout p cid) s) s
        (Mod.reissue (Mod.modDrive (Mod.dropCmd m p cid) p fun y => { y with timeouts := d.timeouts + 1 }) p x))
  ∧ (∀ cid x, d.outstanding.find? (fun c => c.cid == cid) = some x → x.cls = 2 → x.kvPage = 0 → 2 ≤ d.timeouts →
      ∃ cl br, exec (.nvmeCommandTimeout p cid) s = .next (s.onMod fun m => Mod.driveOffline (tallied
        (Mod.reissue (Mod.modDrive (Mod.dropCmd m p cid) p fun y => { y with timeouts := d.timeouts + 1 }) p x) cl br) p))
  ∧ (∀ v : DWord, m.sys.cfgReady = true → p.val < Config.flashPorts m.sys.grade → flpValid (v.toNat &&& flpMask) = true →
      (d.state = 0 ∨ d.state = 3) →
      Gives (exec (.flpQueuesWrite p v) s) s (Mod.modDrive m p fun x => { x with queues := BitVec.ofNat 64 (v.toNat &&& flpMask) }))
  ∧ (let g := d.grants
     let q := d.queues.toNat
     1 ≤ fld q 22 16 → 1 ≤ d.grant →
     g.1 + g.2.1 + g.2.2 = min d.grant (fld q 6 0 + fld q 14 8 + fld q 22 16) ∧ 1 ≤ g.2.2)

/-- A read that waits too long: a page of a copy that has another holder is asked of it (hedged), once; a row asked of
another module is asked for once more; a read given up is delivered as poisoned, and a page no other read waits for is
not cached (R255). What the spec leaves open here is the model's choice (log entries 60, 63 and 84). -/
def Obligations.ReadLimits : Prop := ∀ (s : State) (r : RowRead),
  let m := s.mod
  let f := Mod.freePage m
  let m1 := Mod.serveRead f.1 r f.2 true
  let here := m.flash.reads.find? (fun x => x.id == r.id) = some r
  (∀ k, here → r.hedged = false → r.remote = false → Mod.findWay m r.table r.copy r.page = some k →
      (Mod.way m k).filling = true → (Mod.way m k).loaded = false → Mod.hedgeOn m r.table r.copy = true →
      (Mod.otherHolder m r.table r.copy).isSome = true →
      Gives (exec (.hedgeTimeout r.id) s) s (Mod.askOther m r.table r.copy r.page r.lc))
  ∧ (∀ q, here → m.fab.reqs.find? (fun q => q.ptype == 0x06 && q.va == r.id) = some q → r.remote = true → r.retried = false →
      Gives (exec (.remoteRowTimeout r.id) s) s
        (Mod.sendRow (Mod.onReads { m with fab := { m.fab with reqs := m.fab.reqs.filter fun x => x.tag != q.tag } } fun l =>
          l.map fun x => if x.id = r.id then { x with retried := true } else x) q.dest r.lc r.row (rowReqData 0 r.table 0) 0x06
          0 r.id))
  ∧ (here → r.remote = true → Gives (exec (.readGiveUp r.id) s) s m1)
  ∧ (here → r.remote = false → Mod.readsOf m1 r.table r.copy r.page = [] →
      Gives (exec (.readGiveUp r.id) s) s (Mod.giveUpPage m1 r.table r.copy r.page))

/-! ## Collective groups (R418 to R426) -/

/-- A group that is well-formed is declared and gives its first grants; one that is not, or a reduction on a grade
without it, is turned away; a dissolved group is gone. A set trigger starts the operation whose turn it is and is
cleared; the end of an operation sets its done flag and gives the turn on. Data waits in staging until its stage, a
grant lets one more bucket go, and an operation without progress fails its group. What the spec leaves open here is the
model's choice (log entries 69, 71 and 72). -/
def Obligations.Collectives : Prop := ∀ (s : State) (fl : Flight) (d : CollDesc) (n : Fin 64) (g : Group),
  let m := s.mod
  let asks (dissolve : Bool) := Mod.ready m fl.id 0x0C = some fl ∧ bitAt (descFld fl.raw 0x10 31 0) 16 = dissolve
  let gn := descFld fl.raw 0x10 15 0
  let reduces := d.ops.any fun (o : CollOp) => o.op ≤ 2
  (asks false → d.group = gn → Mod.collOk m d = true → Mod.group m d.group = none →
      (Config.reduction m.sys.grade = false → reduces = false) →
      Gives (exec (.collectiveGroup fl.id d) s) s
        (Mod.endFlight (Mod.firstGrants (Mod.setGroup m d.group { d := d }) d.group { d := d }) fl.id .ok 0 0))
  ∧ (asks false → d.group = gn → Mod.collOk m d = true → Mod.group m d.group = none →
      Config.reduction m.sys.grade = false → reduces = true →
      Gives (exec (.collectiveGroup fl.id d) s) s (Mod.endFlight m fl.id .gradeUnsupported 0 0))
  ∧ (asks false → (Mod.collOk m d = false ∨ (Mod.group m d.group).isSome = true) →
      Gives (exec (.collectiveGroup fl.id d) s) s (Mod.endFlight m fl.id .descriptorInvalid 0 0))
  ∧ (asks true → (Mod.group m gn).isSome = true →
      let m1 := Mod.dropOps m fun o => match o with | .coll k => k == gn | _ => false
      Gives (exec (.collectiveGroupDissolve fl.id) s) s (Mod.endFlight { m1 with coll := sset none m1.coll gn none } fl.id .ok 0 0))
  ∧ (Mod.group m n = some g → g.running = false → g.failed = false → g.d.ops ≠ [] →
      Mod.deviceFlagSet m g.d.context g.cur.trigger = true →
      let job := (Mod.runningJob m g.d.context).elim 0 (·.id + 1)
      let m1 := Mod.setGroup m n (Group.clear { g with running := true, job := job })
      Gives (exec (.collectiveTrigger n) s) s (Mod.collRun n collBound (Mod.changeFlag m1 g.d.context 0 g.cur.trigger false)))
  ∧ (Mod.group m n = some g → g.opDone = true →
      let turn := if g.turn + 1 < g.d.ops.length then g.turn + 1 else 0
      Gives (exec (.collectiveOperationDone n) s) s
        (Mod.changeFlag (Mod.setGroup m n (Group.clear { g with running := false, turn := turn, job := 0 }))
          g.d.context 0 g.cur.done true))
  ∧ (Mod.group m n = some g → g.running = true → g.opDone = false → (Mod.stalledOn m g).any m.fab.slow.contains = false →
      Gives (exec (.collectiveWatchdog n) s) s (Mod.collFail m n g .collectiveTimeout))
  ∧ (∀ p : Packet, p.ptype = 0x10 → Mod.group m (p.address / 2 ^ 42) = some g → g.failed = false →
      Gives (exec (.collectiveData p) s) s (Mod.collRun (p.address / 2 ^ 42) collBound
        (Mod.setGroup (Mod.takeIn m p) (p.address / 2 ^ 42) { g with staged := g.staged ++ [p] })))
  ∧ (∀ p : Packet, p.ptype = 0x11 → Mod.group m (p.address / 2 ^ 42) = some g → g.waiting = [] →
      let key := (nth 0 p.data 0).toNat * 2 + (nth 0 p.data 1).toNat
      Gives (exec (.collectiveGrant p) s) s (Mod.setGroup (Mod.takeIn m p) (p.address / 2 ^ 42)
        { g with grants := smod 0 g.grants key (· + 1) }))

/-! ## The fabric (R399 to R417, R427 to R448, R522) -/

/-- A port trains state by state: no signal in 100 ms takes it back to disabled, a signal on four lanes to equalise, and
each step goes on the lanes that are usable; an identity that R399 does not imply refuses the link with a fault record,
a right one goes on to the credits, and with them the port is active. The host enables, disables and retrains a port.
Loss of signal, silence, or a retrain without lanes takes it down, and its packets move or are held (R402 to R404, R408,
R414, R427, R428, R522). What the spec leaves open here is the model's choice (log entry 76). -/
def Obligations.Ports : Prop := ∀ (s : State) (p : Fin 16) (lanes : Byte) (i : IdleInfo),
  let m := s.mod
  let q := Mod.port m p
  let at_ (n : Nat) := q.state = n
  let named := Mod.modPort m p fun q => { q with
    partnerPort := i.port % 256, partnerX := i.coord.1 % 256, partnerY := i.coord.2.1 % 256
    partnerZ := i.coord.2.2 % 256, partnerSpare := i.spare }
  (at_ 1 → Gives (exec (.portDetectTimeout p) s) s (Mod.modPort m p fun x => { x with retry := true, state := 0 }))
  ∧ (at_ 0 → q.enable = true → q.retry = true →
      Gives (exec (.portDetectTimeout p) s) s (Mod.modPort m p fun x => { enable := true, txq := x.txq, state := 1 }))
  ∧ (at_ 1 → 4 ≤ laneCount lanes.toNat →
      Gives (exec (.signalDetected p lanes) s) s (Mod.modPort m p fun x => { x with state := 2 }))
  ∧ (∀ l, at_ 2 → lanesOf lanes.toNat = some l →
      Gives (exec (.portEqualiseDone p lanes) s) s (Mod.modPort m p fun x => { x with lanes := l, state := 3 }))
  ∧ (at_ 2 → lanesOf lanes.toNat = none →
      Gives (exec (.portEqualiseDone p lanes) s) s (Mod.modPort m p fun x => { x with state := 1 }))
  ∧ (∀ l, at_ 3 → lanesOf (lanes.toNat &&& lanesMask q.lanes) = some l →
      Gives (exec (.portFecLockDone p lanes) s) s (Mod.modPort m p fun x => { x with lanes := l, state := 4 }))
  ∧ (at_ 4 → Mod.identityOk m p i = true →
      Gives (exec (.identityFlit p i) s) s (Mod.modPort named p fun x => { x with state := 5 }))
  ∧ (at_ 4 → Mod.identityOk m p i = false → ∃ cl br, exec (.identityFlit p i) s = .next (s.onMod fun _ =>
      (Mod.raiseFault (tallied (Mod.modPort named p fun x => { x with state := 8 }) cl br) .linkRefused .linkSupervisor 0xFF 0
        false 0 0 0 p false none).1))
  ∧ (∀ cs, at_ 5 → Gives (exec (.creditInitDone p cs) s) s
      (Mod.becomeActive (Mod.addCredits (Mod.modPort m p fun q => { q with credits := [] }) p cs) p q.lanes))
  ∧ (∀ l, at_ 7 → lanesOf lanes.toNat = some l →
      Gives (exec (.retrainDone p lanes) s) s (Mod.becomeActive (Mod.modPort (Mod.resend m p fun _ => true) p fun q =>
        { q with replay := q.replay.map fun e => (e.1, 0, e.2.2) }) p l))
  ∧ (at_ 7 → lanesOf lanes.toNat = none → Gives (exec (.retrainDone p lanes) s) s (Mod.goDown m p 9 2))
  ∧ ((at_ 6 ∨ at_ 7) → Gives (exec (.lossOfSignal p) s) s (Mod.goDown m p 9 1))
  ∧ (at_ 6 → Gives (exec (.portSilenceTimeout p) s) s (Mod.goDown m p 9 1))
  ∧ (m.sys.cfgReady = true → Mod.portAbsent m p = false →
      (m.sys.serviceReady = true → (at_ 0 ∨ at_ 8 ∨ at_ 9) →
        Gives (exec (.lnkPortEnable p) s) s (Mod.modPort m p fun x => { enable := true, txq := x.txq, state := 1 }))
      ∧ (m.sys.serviceReady = false → Gives (exec (.lnkPortEnable p) s) s (Mod.modPort m p fun x => { x with enable := true }))
      ∧ (at_ 6 → Gives (exec (.lnkPortDisable p) s) s
          (Mod.goDown (Mod.modPort m p fun x => { x with enable := false, retry := false }) p 0 3))
      ∧ (q.state ≠ 6 → Gives (exec (.lnkPortDisable p) s) s
          (Mod.modPort m p fun x => { x with enable := false, retry := false, state := 0 })))
  ∧ (m.sys.cfgReady = true → at_ 6 → Gives (exec (.lnkPortRetrain p) s) s (Mod.enterRetrain m p))
  ∧ (∀ v : DWord, m.sys.cfgReady = true → (∀ r ∈ m.fab.ports, r.2.state = 0) →
      Gives (exec (.lnkCoordWrite v) s) s
        { m with fab := { m.fab with coord := BitVec.ofNat 64 (v.toNat &&& coordMask m.sys.grade) } })
  ∧ (m.sys.failing = true → m.sys.failPorts = true → ∃ t, exec .failingPortDisable s = .next t ∧
      t.mod.sys.failPorts = false ∧ (∀ n, (Mod.port t.mod n).state = 0) ∧ t.mod.mem = m.mem)

/-- A good flit in order is accepted: the sequence goes on, a credit is owed and its packet arrives or passes on; one
out of order is discarded with one nak, repeated while it is awaited. A good header frees what it acknowledges. A nak
sends the replay buffer again from the flit it names. An idle flit brings credits in bulk. Packets held too long are
discarded, and a request too long unanswered fails (R405 to R408, R410, R428, R429). What the spec leaves open here is
the model's choice (log entries 75 and 76). -/
def Obligations.Flits : Prop := ∀ (s : State) (p : Fin 16) (h : FlitHdr),
  let m := s.mod
  let m1 := Mod.header m p h
  let q := Mod.port m p
  let q1 := Mod.port m1 p
  let taken := Mod.modPort m1 p fun x => { x with
    seqRx := (x.seqRx + 1) % 1024, nakOut := false, owed := smod 0 x.owed (h.vc % 4 * 4 + h.cls % 4) (· + 1) }
  (q.state = 6 → h.good = true →
    (∀ pkt : Option Packet, h.seq = q1.seqRx → Gives (exec (.dataFlit p h pkt) s) s
        (Mod.pump512 (pkt.elim taken (Mod.arrivePacket taken p h.cls)) p))
    ∧ (∀ pkt, h.seq ≠ q1.seqRx → q1.nakOut = false →
        Gives (exec (.dataFlit p h pkt) s) s (Mod.pump512 (Mod.sendNak m1 p) p))
    ∧ (∀ pkt, h.seq ≠ q1.seqRx → q1.nakOut = true → Gives (exec (.dataFlit p h pkt) s) s (Mod.pump512 m1 p))
    ∧ (∀ i, i.health ≠ 2 →
        Gives (exec (.idleFlit p h i) s) s (Mod.pump512 (Mod.addCredits m1 p i.credits) p))
    ∧ (∀ seq, (∀ e ∈ q1.replay, seqLe seq e.1 = true → e.2.1 < 16) → q1.nakAt.length < 63 →
        let m2 := Mod.modPort m1 p fun x => { x with nakAt := (Mod.now m :: x.nakAt).take 63 }
        Gives (exec (.nakFlit p h seq) s) s (Mod.pump512 (Mod.resend m2 p fun e => seqLe seq e) p))
    ∧ (∀ seq e, e ∈ q1.replay → seqLe seq e.1 = true → 16 ≤ e.2.1 →
        let m2 := Mod.modPort m1 p fun x => { x with nakAt := (Mod.now m :: x.nakAt).take 63 }
        Gives (exec (.nakFlit p h seq) s) s (Mod.enterRetrain m2 p)))
  ∧ (q.state = 6 → q.nakOut = true → Gives (exec (.nakRepeat p) s) s (Mod.sendNak m p))
  ∧ (q.state = 6 → Gives (exec (.heartbeatIdle p) s) s (Mod.modPort m p fun x =>
      { x with idleSent := x.idleSent + 1, owed := [] }))
  ∧ ((q.state = 4 ∨ q.state = 8) → Gives (exec (.heartbeatIdle p) s) s (Mod.modPort m p fun x =>
      { x with identSent := x.identSent + 1 }))
  ∧ (let ps := p.val :: (Mod.pairPort m p).toList
     (∀ x ∈ ps, (Mod.port m x).state ≠ 6) → Gives (exec (.heldPacketTimeout p) s) s
       ((ps.flatMap fun x => (Mod.port m x).txq.map fun it => it.2.2.2).foldl Mod.discard
         (ps.foldl (fun y x => Mod.modPort y x fun z => { z with txq := [] }) m)))
  ∧ (∀ tag r, m.fab.reqs.find? (fun r => r.tag == tag) = some r →
      Gives (exec (.requestTimeout tag) s) s (Mod.reqFailed m r))
  ∧ (∀ e, e ∈ q1.replay ↔ e ∈ q.replay ∧ seqLe e.1 h.ack = false)

/-- A write packet is applied with this module's tables and acknowledged, or its fault is raised and it waits on the
record; a read request is answered with the bytes and their poison, a response's bytes go where the request wants them
and it is no longer tracked. An acknowledgement ends its request and lets what waited for the job's writes go on. A
queue push is held and moves in as there is room; a flag change acts at the flag's home. A row request is served from a
copy of this module or adds its deltas, and a row answers its read (R249, R325, R411 to R413). What the spec leaves open
here is the model's choice (log entries 63, 73, 74 and 77). -/
def Obligations.Packets : Prop := ∀ (s : State) (k : Packet),
  let m := s.mod
  let m1 := Mod.takeIn m k
  let row := { m1 with fab := { m1.fab with reqs := m1.fab.reqs.filter fun x => x.tag != k.tag } }
  (∀ m2, k.ptype = 0x01 → isLines k = false → Mod.vaWrite m (brimTlbOf k.address) k.context k.address k.data k.poison = (m2, none) →
      Gives (exec (.writePacket k) s) s (Mod.ack (Mod.takeIn m2 k) k))
  ∧ (∀ m2 f d, k.ptype = 0x01 → isLines k = false →
      Mod.vaWrite m (brimTlbOf k.address) k.context k.address k.data k.poison = (m2, some (f, d)) →
      Gives (exec (.writePacket k) s) s
        (Mod.raiseAcc (Mod.takeIn m2 k) f .linkSupervisor k.context 0 0 d true (some (.packet k))).1)
  ∧ (∀ bs po, k.ptype = 0x02 →
      Mod.vaRead m1 (brimTlbOf k.address) k.context k.address (min 4096 (leNat (k.data.take 4))) = .inr (bs, po) →
      Gives (exec (.readRequestPacket k) s) s (Mod.sendPacket m1
        { ptype := 0x03, dest := k.src, src := Mod.memberHere m1, tag := k.tag, lc := k.lc, poison := po, data := bs } none))
  ∧ (∀ r m2, k.ptype = 0x03 → m1.fab.reqs.find? (fun r => r.tag == k.tag && r.ptype == 0x02) = some r →
      Mod.vaWrite m1 (brimTlbOf r.va) r.ctx r.va k.data k.poison = (m2, none) →
      Gives (exec (.readResponsePacket k) s) s (Mod.dropReq m2 r.tag))
  ∧ (∀ r, k.ptype = 0x08 → k.data = [] →
      m1.fab.reqs.find? (fun r => r.tag == k.tag && r.ptype != 0x02 && r.ptype != 0x06) = some r → r.job ≠ pushJob → r.ptype = 0x01 →
      Gives (exec (.writeAcknowledgement k) s) s (Mod.ackedJob (Mod.dropReq m1 r.tag) r.job))
  ∧ (k.ptype = 0x04 → (Mod.chan m k.context k.address).held.length < 16 → (Mod.ctx m k.context).isSome = true →
      let x := Mod.chan m k.context k.address
      Gives (exec (.remoteQueuePush k) s) s
        (Mod.drainHeld (Mod.setChan m1 k.context k.address { x with held := x.held ++ [entryOf k], src := k.src })
          k.context k.address 16))
  ∧ (∀ c, k.ptype = 0x05 → Mod.ctx m k.context = some c → Ctx.flagClass c k.address ≠ .cluster →
      Gives (exec (.flagChangePacket k) s) s (Mod.changeFlag m1 k.context 0 k.address (bitAt (nth 0 k.data 0).toNat 0)))
  ∧ (∀ c l, k.ptype = 0x05 → Mod.ctx m k.context = some c → Ctx.flagClass c k.address = .cluster →
      Mod.flagHome m k.context k.address = some l →
      Gives (exec (.flagChangePacket k) s) s (Mod.changeFlag m1 k.context l k.address (bitAt (nth 0 k.data 0).toNat 0)))
  ∧ (k.ptype = 0x06 → rowReqKind k = 2 → Mod.updRoom m (rowReqTable k) k.address = true →
      Gives (exec (.rowRequest k) s) s (Mod.answerRow (Mod.addDeltas m1 (rowReqTable k) k.address (rowReqX k)
        (wordsAt (k.data.drop 4) ((k.data.length - 4) / 4))) k 0x08 [] false))
  ∧ (k.ptype = 0x06 → rowReqKind k = 0 → (Mod.bound m (rowReqTable k)).isSome = true →
      let d := Mod.tableD m (rowReqTable k)
      let copy := if rowShard d k.address = d.localShard then 0 else 1
      copyShard d copy ≠ 0xFFFF →
      let r := Mod.newRead m1 { id := 0, table := rowReqTable k, copy := copy, page := rowPage d k.address, row := k.address
                                lc := k.lc, reply := some k }
      Gives (exec (.rowRequest k) s) s (Mod.lookup r.1 r.2))
  ∧ (∀ q r, k.ptype = 0x07 → m1.fab.reqs.find? (fun q => q.tag == k.tag && q.ptype == 0x06) = some q →
      m.flash.reads.find? (fun r => r.id == q.va) = some r → r.remote = true → k.poison = false →
      Gives (exec (.rowResponse k) s) s
        (Mod.serveRead row r (List.replicate (rowOff (Mod.tableD m r.table) r.row) 0 ++ k.data) false))

/-- What a module hears of others. A peer that says it is slow is noted and no longer when it is normal; a spare
declares a member lost once every party of R430 is silent, or the host says so, one at a time; a module that is told of
a loss routes round it, and of a release no longer. A module both of whose − links of a dimension are cut gives way
(R417, R430 to R434, R442, R444, R445). What the spec leaves open here is the model's choice (log entries 79 and 81). -/
def Obligations.PeersAndLosses : Prop := ∀ (s : State) (xyz : Xyz),
  let m := s.mod
  let heard (msg : Nat) := Mod.takeMsg m (isMsg msg xyz)
  let health (st : Nat) := Mod.takeMsg m fun p => p.ptype == 0x20 && p.src == xyz && (nth 0 p.data 0).toNat == st
  let ring := Mod.isSpare m = true ∧ xyz.2 = (Mod.here m).2
  (∀ r n, m.fab.slow.contains xyz = false → let h := health 1
      Gives (exec (.healthPacket xyz 1 r n) s) s
        (Mod.peerEvent { h with fab := { h.fab with slow := h.fab.slow ++ [xyz] } } .peerSlow xyz))
  ∧ (∀ r n, m.fab.slow.contains xyz = true → let h := health 0
      Gives (exec (.healthPacket xyz 0 r n) s) s
        (Mod.peerEvent { h with fab := { h.fab with slow := h.fab.slow.filter (· != xyz) } } .peerNormal xyz))
  ∧ (∀ n, Mod.throttledSite m = some n → m.sys.failing = false →
      Gives (exec .slowHealthTimer s) s (Mod.sendHealth m 1 1 n))
  ∧ (Gives (exec (.slowExtensionEnd xyz) s) s { m with fab := { m.fab with slow := m.fab.slow.filter (· != xyz) } })
  ∧ (∀ r, ring → Gives (exec (.silenceReport r xyz) s) s (Mod.setSilent (heard 1) xyz.1 (Mod.parties m r xyz.1) true))
  ∧ (∀ r, ring → Gives (exec (.silenceEnded r xyz) s) s (Mod.setSilent (heard 2) xyz.1 (Mod.parties m r xyz.1) false))
  ∧ (∀ x : Byte, (∀ q, q < 3 → sget false m.rcv.silent (x.toNat * 4 + q) = true) →
      Gives (exec (.silenceDeclarationTimeout x) s) s (Mod.declare m x.toNat 1))
  ∧ (∀ x : Byte, m.sys.cfgReady = true → Gives (exec (.lnkDeclareLost x) s) s (Mod.declare m x.toNat 3))
  ∧ (∀ x reason, Mod.isSpare m = true → m.sys.grade = .a80 → m.rcv.takeover = none → x < (Mod.extents m).1 →
      let l := (x, (Mod.here m).2)
      Mod.isLost m l = false →
      Mod.declare m x reason = Mod.lose (Mod.superviseAll { m with rcv := { m.rcv with
        takeover := some { x := x, reason := reason } } } 3 l reason) l reason)
  ∧ (∀ reason, Gives (exec (.supervisorLost xyz reason) s) s (Mod.lose (heard 3) xyz reason))
  ∧ (∀ reason, Mod.isLost m xyz = true → m.fab.ready.contains xyz = false → let h := heard 4
      Gives (exec (.supervisorTakeoverReady xyz reason) s) s { h with fab := { h.fab with ready := h.fab.ready ++ [xyz] } })
  ∧ (∃ t, exec (.supervisorRelease xyz) s = .next t ∧ Mod.isLost t.mod xyz = false ∧ t.mod.fab.ready.contains xyz = false
      ∧ (∀ o, o ≠ xyz → Mod.isLost t.mod o = Mod.isLost m o))
  ∧ (∀ (x : Byte) t, m.sys.cfgReady = true → m.rcv.takeover = some t → t.x = x.toNat → Mod.isSpare m = true →
      (∀ p ∈ m.ctxs, p.2 = none) →
      let l := (t.x, (Mod.here m).2)
      let m1 := Mod.restoreRoutes (Mod.superviseAll m 5 l t.reason) l
      Gives (exec (.lnkDeclareRelease x) s) s { m1 with rcv := { m1.rcv with
        takeover := none, silent := m1.rcv.silent.filter fun p => p.1 / 4 != t.x } })
  ∧ (∀ (dim : Fin 3) c q sp, let p := 4 * dim.val + 2
      Mod.farEnd m p = some (c, q, sp) → Mod.isSpare m = false → (Mod.port m p).state = 9 → (Mod.port m p).wasActive = true →
      (Mod.port m (p + 1)).state = 9 → (Mod.port m (p + 1)).wasActive = true → Mod.isLost m c = false → m.sys.failing = false →
      Gives (exec (.cableCutTimeout dim) s) s (Mod.fail (Mod.event m .linkFailing 0xFF p 0) 4 0))

/-- The buddy area is chosen while no context exists, and a new area restarts the push. A takeover begins with the
header and slots of the lost module's area, and loads the model from the area, from the buddy or from the image; the
member it stands for is announced as ready (R435 to R440). What the spec leaves open here is the model's choice (log
entries 82 and 83). -/
def Obligations.BuddyAndTakeover : Prop := ∀ (s : State) (t : Takeover) (header slots : List Byte),
  let m := s.mod
  let w := at_ header 4 4
  let va := Mod.areaVa m
  let off := slotsAt (fld w 2 1) (at_ header 0x10 2) (at_ header 0x18 8)
  (∀ v : DWord, m.sys.cfgReady = true → (∀ p ∈ m.ctxs, p.2 = none) →
      Gives (exec (.lnkBuddyCtrlWrite v) s) s { m with rcv := { m.rcv with buddyCtrl := v &&& buddyCtrlMask } })
  ∧ (∀ v : DWord, m.sys.cfgReady = true → (∃ p ∈ m.ctxs, p.2 ≠ none) → Gives (exec (.lnkBuddyCtrlWrite v) s) s m)
  ∧ (∀ v : DWord, m.sys.cfgReady = true →
      Gives (exec (.lnkBuddyAreaWrite v) s) s (Mod.push_ { m with rcv := { m.rcv with buddyArea := v } }))
  ∧ (∀ m1 m2, m.rcv.takeover = some t → t.begun = false → Mod.isSpare m = true →
      Mod.vaWrite m (brimTlbOf va) 0xFF va header false = (m1, none) →
      Mod.areaVa m1 = va → Mod.vaWrite m1 (brimTlbOf (va + off)) 0xFF (va + off) slots false = (m2, none) →
      Gives (exec (.takeoverBegin header slots) s) s (Mod.event { m2 with rcv := { m2.rcv with
        takeover := some { t with
          begun := true
          valid := bitAt w 0
          mode := fld w 2 1
          hash := BitVec.ofNat 384 (at_ header 0x20 48)
          blobs := slots } } } .takeoverBegin 0xFF t.x 0))
  ∧ (∀ id img blk bh ws objs m1, m.rcv.takeover = some t → t.begun = true → Mod.isSpare m = true →
      let src := Takeover.source t img bh
      (if src = 3 then Mod.loadModel m (s.secView id) id img blk img.weights img.objectBytes
        else Mod.loadModel m (s.secView id) id img blk ws objs) = (m1, true) →
      let l := (t.x, (Mod.here m1).2)
      let m2 := Mod.superviseAll { m1 with rcv := { m1.rcv with takeover := some { t with ready := true } } } 4 l t.reason
      Gives (exec (.takeoverLoadModel id img blk bh ws objs) s) s (Mod.event { m2 with fab := { m2.fab with
        ready := m2.fab.ready.filter (· != l) ++ [l] } } .takeoverReady 0xFF t.x src))
  ∧ (∀ img bh, Takeover.source t img bh = 1 ↔ t.valid = true ∧ t.mode = 1 ∧ t.hash = img.hash)

/-! ## Power (R454 to R466, R515) -/

/-- The power loops move an island's voltage by at most 10 mV toward its setting, which never leaves the protective
limits; the enforcer lowers the common cap over the ceiling and raises it below 97 % of it; the brake takes every island
to 0.55 V; an undervoltage hold keeps the island's work and resumes it unchanged, and too long a hold makes the module
FAILING. The floor voltage of a rate lies between 0.55 V and 0.85 V and does not fall as the rate grows (R454, R456 to
R466, R515). What the spec leaves open here is the model's choice (log entries 98 and 99). -/
def Obligations.PowerLimits : Prop := ∀ (s : State) (i : Fin 256),
  let m := s.mod
  let x := Mod.island m i
  let rails := m.sys.rails = true
  let eff := min (clampW m.pwr.hostCeiling) (clampW m.pwr.mgmtCeiling)
  let seen (w : Nat) := Mod.onPwr m fun p => { p with effective := eff, inputW := min 4095 w }
  (∀ busy total rate limiting, rails →
      let y := m.pwr.reasons i x (prefMv busy total)
      let goal := m.pwr.target i y (prefMv busy total)
      Gives (exec (.voltageLoopInterval i busy total rate limiting) s) s (Mod.judgeFloor (Mod.setIsland m i { y with
        mv := if m.pwr.braked then minMv else moveMv y.mv goal
        rate := min 4095 rate
        byCurrent := limiting }) i)
      ∧ minMv ≤ goal ∧ (m.pwr.braked = true → goal = minMv) ∧ (x.thermalCap ≤ maxMv → goal ≤ maxMv))
  ∧ (∀ mv goal, moveMv mv goal ≤ mv + 10 ∧ mv ≤ moveMv mv goal + 10)
  ∧ (∀ w, rails → eff < w → minMv < m.pwr.commonCap → Gives (exec (.enforcerInterval w) s) s
      (Mod.onPwr (seen w) fun p => { p with commonCap := max minMv (p.commonCap - 10) }))
  ∧ (∀ w, rails → eff < w → m.pwr.commonCap ≤ minMv → Gives (exec (.enforcerInterval w) s) s
      (Mod.judgeFloors ((Mod.askedIslands m).foldl Mod.lowerIsland (seen w)) (Mod.askedIslands m)))
  ∧ (∀ w, rails → w ≤ eff → 97 * eff ≤ 100 * w → Gives (exec (.enforcerInterval w) s) s (seen w))
  ∧ (∀ w, rails → w ≤ eff → 100 * w < 97 * eff → Mod.loweredIslands m = [] → Gives (exec (.enforcerInterval w) s) s
      (Mod.onPwr (seen w) fun p => { p with commonCap := min maxMv (p.commonCap + 10) }))
  ∧ (∀ est die, rails → m.pwr.warmup = false → est < 97 → x.thermalCap = maxMv → x.mv ≤ maxMv →
      Gives (exec (.thermalEstimate i est die) s) s (Mod.judgeFloor (Mod.setIsland m i { x with hot := est }) i))
  ∧ (Gives (exec .warmupEnd s) s (Mod.onPwr m fun p => { p with warmup := false }))
  ∧ (rails → m.pwr.braked = false →
      Gives (exec .powerBrakeAssert s) s (Mod.applyBrake (Mod.onPwr m fun p => { p with brakePin := true }))
      ∧ Gives (exec .inputOvercurrent s) s (Mod.applyBrake (Mod.onPwr m fun p => { p with brakeCurrent := true })))
  ∧ (∀ k, k < 256 → (Mod.island (Mod.applyBrake m) k).mv = minMv)
  ∧ (Gives (exec .powerBrakeDeassert s) s (Mod.freeBrake (Mod.onPwr m fun p => { p with brakePin := false })))
  ∧ (Gives (exec .brakeRelease s) s (Mod.freeBrake (Mod.onPwr m fun p => { p with brakeCurrent := false })))
  ∧ (rails → x.uvHold = false → Gives (exec (.uvHold i) s) s (Mod.setIsland m i { x with uvHold := true }))
  ∧ (x.uvHold = true → let m1 := Mod.setIsland m i { x with uvHold := false }
      Gives (exec (.uvRelease i) s) s ((Mod.islandCores m1 i).foldl (fun y c => Mod.pumpThat y c fun _ => true) m1))
  ∧ (x.uvHold = true → Gives (exec (.uvHoldTimeout i) s) s (Mod.fail m 5 0))
  ∧ (∀ v : Word, m.sys.cfgReady = true →
      Gives (exec (.pwrCeilingWrite v) s) s (Mod.onPwr m fun p => { p with hostCeiling := fld v.toNat 11 0 })
      ∧ Gives (exec (.pwrFloorWrite i v) s) s (Mod.judgeFloor (Mod.onPwr m fun p =>
          { p with floors := sset 0 p.floors i (BitVec.ofNat 32 (fld v.toNat 7 0)) }) i)
      ∧ Gives (exec (.pwrPinWrite i v) s) s (Mod.judgeFloor (Mod.onPwr m fun p =>
          { p with pins := sset 0 p.pins i (BitVec.ofNat 32 (fld v.toNat 9 0 + 2 ^ 31 * fld v.toNat 31 31)) }) i)
      ∧ Gives (exec .pwrStatusFloorUnmetClear s) s
          (Mod.onPwr m fun p => { p with unmetLatch := p.unmetLatch && p.anyUnmet }))
  ∧ (∀ a b, a ≤ b → minMv ≤ floorMv a ∧ floorMv a ≤ floorMv b ∧ floorMv b ≤ maxMv ∧ floorMv a % 10 = 0)

/-! ## Power-up, reset and the Crown (R45 to R49, R213 to R219, R464, R479, R485 to R502) -/

/-- 54 V brings the rails up with PERST# held; losing them, a thermal trip or overvoltage clears the module, but for
what drives, fuses and boot flash hold. PERST# ends the host's side and keeps the power plane; its release starts the
timer and boots a slot that verifies, or recovery. Service-ready comes once every site is trained, and raises the anti-
rollback counter. A Crown reset counts; its return ends every context (R464, R479, R485 to R487, R497 to R502). What the
spec leaves open here is the model's choice (log entries 106 and 107). -/
def Obligations.PowerOnAndReset : Prop := ∀ (s : State),
  let y := s.mod.sys
  let g := s.mgt
  let on := y.input = true ∧ y.rails = true
  let dark (t : State) := t.mod.sys.rails = false ∧ t.mod.sys.perst = true ∧ t.mod.sys.cfgReady = false ∧ t.mod.ctxs = []
    ∧ t.mod.cores = [] ∧ t.mod.mem.gddr = [] ∧ t.mod.mem.host = s.mod.mem.host ∧ t.mod.flash.media = s.mod.flash.media
    ∧ t.mgt.svn = g.svn ∧ t.mgt.imageKeys = g.imageKeys ∧ t.mgt.preferB = g.preferB ∧ t.pending = s.pending
  (∀ (slot : Fin 8) ok, y.input = false → ∃ t, exec (.inputPowerOn slot ok) s = .next t ∧ t.mod.sys.input = true
      ∧ t.mod.sys.rails = ok ∧ t.mod.sys.perst = true ∧ t.mod.sys.cfgReady = false ∧ t.mgt.slotId = slot ∧ t.mgt.svn = g.svn)
  ∧ (∃ t, exec .inputUndervoltage s = .next t ∧ dark t ∧ t.mod.sys.input = false ∧ t.mod.sys.trip = false)
  ∧ (y.input = true → ∃ t, exec .inputOvervoltage s = .next t ∧ dark t ∧ t.mod.sys.trip = true)
  ∧ (y.rails = true → ∃ t, exec .thermalTrip s = .next t ∧ dark t ∧ t.mod.sys.trip = true)
  ∧ (y.input = true → y.trip = false → ∃ t, exec .perstAssert s = .next t ∧ t.mod.sys.perst = true
      ∧ t.mod.sys.cfgReady = false ∧ t.mod.sys.rails = y.rails ∧ t.mod.ctxs = [] ∧ t.mod.cores = [] ∧ t.mod.mem.gddr = []
      ∧ t.mod.host.sq = [] ∧ t.mod.pwr.commonCap = s.mod.pwr.commonCap ∧ t.mod.pwr.mgmtCeiling = s.mod.pwr.mgmtCeiling
      ∧ t.mgt.policy = 0 ∧ t.mgt.sideband = g.sideband ∧ t.mgt.svn = g.svn ∧ t.mgt.telemetry = g.telemetry)
  ∧ (∀ a b link, on → y.perst = true → y.trip = false → ∃ t, exec (.perstRelease a b [] link) s = .next t
      ∧ t.mod.sys.perst = false ∧ t.mod.sys.cfgReady = true ∧ t.mod.sys.timer = 0 ∧ t.mgt.booted = g.bootSlot a b
      ∧ t.mod.sys.crown = (if g.bootSlot a b = 2 then 3 else 2) ∧ t.mgt.fallback = (g.bootSlot a b != b2n g.preferB))
  ∧ (∀ a b, (g.bootSlot a b = 0 → g.slotA.valid = true ∧ g.accepts a = true)
      ∧ (g.bootSlot a b = 1 → g.slotB.valid = true ∧ g.accepts b = true) ∧ g.bootSlot a b ≤ 2)
  ∧ (∀ c : SlotCheck, g.accepts c = true → c.signatureOk = true ∧ c.keyFuse < 2 ∧ bitAt g.fwRevoked c.keyFuse = false
      ∧ g.svn ≤ c.svn)
  ∧ (∀ drives, on → y.crown = 2 → y.serviceReady = false → y.perst = false → Mod.sitesTrained s.mod = true →
      ∃ t, exec (.serviceReady drives) s = .next t ∧ t.mgt.svn = max g.svn (min 64 (if g.booted = 0 then g.slotA else g.slotB).svn)
        ∧ t.mgt.imageKeys = g.imageKeys ∧ t.mgt.policy = g.policy)
  ∧ (on → y.crown ≠ 1 → y.perst = false → (g.resetAt.filter fun t => decide (y.timer.toNat ≤ t + 60 * ticksS)).length < 2 →
      ∃ t, exec .crownWatchdogExpiry s = .next t ∧ t.mod.sys.crown = 1 ∧ t.mod.mem = s.mod.mem ∧ t.mod.host = s.mod.host
        ∧ t.mod.ctxs = s.mod.ctxs ∧ t.mod.model = s.mod.model ∧ t.mgt.crownResets = min 65535 (g.crownResets + 1)
        ∧ t.mgt.upd = .idle)
  ∧ (∀ a b, y.crown = 1 → y.perst = false → g.rebootSlot a b = g.booted → g.booted < 2 →
      let m1 := Mod.endAllContexts s.mod
      exec (.crownReturn a b) s = .next { s with
        mod := Mod.drainEvents { m1 with sys := { m1.sys with crown := if y.serviceReady then 0 else 2 } } 257
        mgt := { g.checked a b with booted := g.booted, fallback := g.booted != b2n g.preferB } })
  ∧ (∀ v : DWord, y.cfgReady = true →
      Gives (exec (.crnPreemptWrite v) s) s { s.mod with sys := { s.mod.sys with preempt := v &&& preemptMask } })

/-- A site trains to a rate or goes offline; a reading at or over a threshold raises its state and one 3 °C below it
lowers it, and a critical site is drained and makes the module FAILING. A full poison directory merges a block while an
entry is free. A cluster retires to its island's liner, once, before service-ready quietly and afterwards when it is
free (R46 to R49, R213 to R215, R219). What the spec leaves open here is the model's choice (log entries 96 and 97). -/
def Obligations.SitesAndRetirement : Prop := ∀ (s : State) (n : Fin 16) (l : ClusterId),
  let m := s.mod
  let x := Mod.site m n
  let k := Mod.cluster m l
  let fitted := Mod.hasSite m n = true ∧ m.sys.perst = false
  (∀ rate, fitted → x.trained = false → (rate = 40 ∨ rate = 36 ∨ rate = 32) →
      Gives (exec (.gddrTraining n rate) s) s (Mod.setSite m n { x with state := 0, rate := rate, trained := true }))
  ∧ (∀ rate, fitted → x.trained = false → rate ≠ 40 → rate ≠ 36 → rate ≠ 32 →
      Gives (exec (.gddrTraining n rate) s) s (Mod.siteOff m n))
  ∧ (∀ t0 t1, fitted → x.state < 4 → siteLevel x.state (max t0 t1) = x.state →
      Gives (exec (.gddrTempRead n t0 t1) s) s (Mod.setSite m n { x with temp := max t0 t1 }))
  ∧ (∀ t0 t1 st, fitted → x.state < 4 → siteLevel x.state (max t0 t1) = st → st ≠ x.state → st ≠ 3 →
      Gives (exec (.gddrTempRead n t0 t1) s) s (Mod.noteSlow (Mod.siteChange (Mod.setSite m n { x with temp := max t0 t1 }) n st) n))
  ∧ (∀ t0 t1, fitted → x.state < 3 → 105 ≤ max t0 t1 → Gives (exec (.gddrTempRead n t0 t1) s) s
      (Mod.fail (Mod.noteSlow (Mod.siteOff (Mod.siteChange (Mod.setSite m n { x with temp := max t0 t1 }) n 3) n) n) 2 n))
  ∧ (∀ now temp, siteLevel now temp ≤ 3
      ∧ (∀ j, 1 ≤ j → j ≤ 3 → siteThreshold j ≤ temp → j ≤ siteLevel now temp)
      ∧ (∀ j, siteLevel now temp < j → j ≤ now → j ≤ 3 → temp + 3 ≤ siteThreshold j))
  ∧ (∀ m1, 4096 ≤ granuleCount m.mem.granules n → Mod.mergeBlock m n = (m1, true) → Gives (exec (.poisonBlockMerge n) s) s m1)
  ∧ (∀ m1, 4096 ≤ granuleCount m.mem.granules n → Mod.mergeBlock m n = (m1, false) →
      Gives (exec (.poisonBlockMerge n) s) s (Mod.fail (Mod.noteSlow (Mod.siteOff m1 n) n) 3 n))
  ∧ (l.val < Config.clusters m.sys.grade → (∀ bad, k.retiring = true → k.job = none →
        Gives (exec (.clusterRetire l bad) s) s (Mod.retired m l bad))
      ∧ (∀ bad, k.retiring = false → sget false m.sys.linerUsed (islandOf m.sys.grade l) = true →
        Gives (exec (.clusterRetire l bad) s) s (Mod.fail m 1 0))
      ∧ (∀ bad, k.retiring = false → sget false m.sys.linerUsed (islandOf m.sys.grade l) = false → m.sys.serviceReady = false →
        Gives (exec (.clusterRetire l bad) s) s (Mod.remap m l)))

/-! ## Management and security (R477 to R490, R503, R523) -/

/-- What the management helper answers while 54 V is present: the endpoint's identity and versions, readings of the
newest snapshot, the ceiling it may set within 600 W to 2,000 W, and the oldest alert with the count of those lost.
FAULT_LED shows the first state that applies (R478, R480 to R483, R503). What the spec leaves open here is the model's
choice (log entries 100, 101 and 102). -/
def Obligations.ManagementHelper : Prop := ∀ (s : State), s.mod.sys.input = true →
  let g := s.mgt
  let replies (i : Instr) (code : Nat) (data : List Byte) := exec i s = .next (s.answer code data)
  (∀ t : Telemetry, exec (.telemetrySample t) s = .next { s with mgt := { g with
      telemetryOld := g.telemetry
      telemetry := { Mod.sampled s.mod t with seq := (g.telemetry.seq + 1) % 2 ^ 32 } } })
  ∧ (s.mod.sys.i3c = false → exec .smbusFallback s = .next { s with mgt := { g with smbus := true } })
  ∧ (∀ a, g.smbus = false → exec (.dynamicAddressAssignment a) s = .next { s with
      mod := { s.mod with sys := { s.mod.sys with i3c := true } }
      mgt := { g with dynAddr := a, spikeFilter := false } })
  ∧ (∀ eid : Byte, eid ≠ 0 → eid ≠ 0xFF →
      exec (.setEndpointId eid) s = .next (({ s with mgt := { g with eid := eid } } : State).answer 0 [eid]))
  ∧ replies .getEndpointId 0 [g.eid] ∧ replies .getMctpVersionSupport 0 [1, 3] ∧ replies .getMessageTypeSupport 0 [0x00, 0x01, 0x7F]
  ∧ replies .getVendorDefinedMessageSupport 0 (leBytes 4 Config.enterpriseNumber.toNat) ∧ replies .gettid 0 [Config.tid]
  ∧ replies .getpldmversion 0 ([2, 1, 2, 5, 1, 1] ++ Config.pldmBaseVersion) ∧ replies .getpldmtypes 0 [0, 2, 5]
  ∧ replies .getpldmcommands 0 Config.pldmCommands
  ∧ (∀ n v, s.sensor n = some (some v) → replies (.getsensorreading n) 0 (0 :: leBytes 4 v))
  ∧ (∀ n, s.sensor n = some none → replies (.getsensorreading n) 0 (1 :: leBytes 4 0))
  ∧ (∀ n, s.sensor n = none → replies (.getsensorreading n) errNoSuch [])
  ∧ (∀ n, (s.sensor n).isSome = true ↔ 1 ≤ n ∧ n ≤ 24)
  ∧ replies (.getstatesensorreadings 30) 0 (leBytes 1 s.health) ∧ replies (.getstatesensorreadings 31) 0 (leBytes 1 s.mod.sys.crown)
  ∧ replies (.getnumericeffectervalue 1) 0 (leBytes 4 s.mod.pwr.mgmtCeiling)
  ∧ (∀ w, exec (.setnumericeffectervalue 1 w) s = .next
      (({ s with mod := Mod.onPwr s.mod fun p => { p with mgmtCeiling := clampW w } } : State).answer 0 [])
      ∧ 600 ≤ clampW w ∧ clampW w ≤ 2000 ∧ (600 ≤ w → w ≤ 2000 → clampW w = w))
  ∧ replies .getpdrrepositoryinfo 0 (leBytes 4 Config.pdrCount)
  ∧ (∀ r, r < Config.pdrCount → replies (.getpdr r) 0 (Config.pdrs r))
  ∧ (s.mod.sys.alerts = [] → replies .pollforplatformeventmessage 0 [])
  ∧ (∀ k x rest, s.mod.sys.alerts = (k, x) :: rest → exec .pollforplatformeventmessage s = .next
      (({ s with mod := { s.mod with sys := { s.mod.sys with alerts := rest, alertsLost := 0 } } } : State).answer 0
        (leBytes 1 k.code ++ leBytes 4 x ++ leBytes 4 s.mod.sys.alertsLost)))
  ∧ ((s.mod.sys.trip = true → s.faultLed = 2)
      ∧ (s.mod.sys.trip = false → (s.mod.sys.failing = true ∨ s.mod.sys.crown = 3) → s.faultLed = 1)
      ∧ (s.mod.sys.trip = false → s.mod.sys.failing = false → s.mod.sys.crown ≠ 3 →
          s.faultLed = if bitAt g.sideband.toNat 8 then 3 else 0))

/-- A firmware update passes its states in order, each message taken in its own; the component goes into the slot that
did not boot, which is invalid from its first part on until the component is verified and applied, and becomes the
preferred one at activation. While the Crown is down every message that needs it is answered not ready (R480, R484,
R485). What the spec leaves open here is the model's choice (log entry 103). -/
def Obligations.FirmwareUpdate : Prop := ∀ (s : State), s.mod.sys.input = true →
  let g := s.mgt
  let served := s.crownServes = true
  let at_ (u : UpdState) := served ∧ g.upd = u
  let to_ (u : UpdState) := (s.updTo u).answer 0 []
  let invalid := g.setTarget { g.target with valid := false }
  (at_ .idle → exec .requestupdate s = .next (to_ .learn))
  ∧ (served → g.upd ≠ .idle → exec .requestupdate s = .next (s.answer errUpdating []))
  ∧ (at_ .learn → exec .getpackagedata s = .next (s.answer 0 []))
  ∧ (at_ .learn → exec (.passcomponenttable classFirmware 1) s = .next (to_ .ready))
  ∧ (∀ size, at_ .ready → size ≤ maxComponent → exec (.updatecomponent 1 size) s = .next
      (({ s.updTo .download with mgt := { (s.updTo .download).mgt with updSize := size, updData := [] } } : State).answer 0 []))
  ∧ (∀ off data, at_ .download → data.length ≤ 4096 → off + data.length ≤ g.updSize →
      exec (.requestfirmwaredata off data) s = .next
        (({ s with mgt := { invalid with updData := wrBytes g.updData off data } } : State).answer 0 []))
  ∧ (at_ .download → exec (.transfercomplete 0) s = .next (to_ .verify))
  ∧ (∀ chk, at_ .verify → g.accepts chk = true → exec (.verifycomplete chk) s = .next
      (({ s.updTo .apply with mgt := { (s.updTo .apply).mgt with
        updNew := { valid := true, svn := chk.svn, hash := chk.hash } } } : State).answer 0 [0]))
  ∧ (∀ chk, at_ .verify → g.accepts chk = false → exec (.verifycomplete chk) s = .next
      (({ s.updTo .idle with mgt := (s.updTo .idle).mgt.setTarget { g.target with valid := false } } : State).answer 0 [1]))
  ∧ (at_ .apply → exec (.applycomplete 0) s = .next
      (({ s.updTo .activate with mgt := (s.updTo .activate).mgt.setTarget g.updNew } : State).answer 0 []))
  ∧ (at_ .activate → exec (.activatefirmware true) s = .next
      (({ s.updTo .idle with mgt := { (s.updTo .idle).mgt with preferB := g.targetB } } : State).answer 0 []))
  ∧ (at_ .activate → exec (.activatefirmware false) s = .next (s.answer errInvalid []))
  ∧ (served → exec .getstatus s = .next (s.answer 0 (leBytes 1 g.upd.code)))
  ∧ (served → g.upd ≠ .idle → exec .cancelupdate s = .next (to_ .idle))
  ∧ (∀ off data i, i ∈ [Instr.requestupdate, .getpackagedata, .getstatus, .cancelupdate, .requestfirmwaredata off data] →
      s.crownServes = false → exec i s = .next (s.answer errNotReady []))
  ∧ (g.booted < 2 → (g.targetB = true ↔ g.booted = 0)) ∧ (g.targetB = true → invalid.slotA = g.slotA)
  ∧ (g.targetB = false → invalid.slotB = g.slotB) ∧ invalid.target.valid = false

/-- Keys are enrolled and revoked by messages that a fused firmware key signs, and not while SEC_POLICY is locked, which
also freezes the policy. The certificate chain is read in parts; a report has its nonce and is signed. While in_busy is
set the module discards host writes to the inbound buffer, and a reply that is ready while out_ready is set waits until
the host clears it. An offset that is not listed, or of an absent resource, reads zero and ignores writes; a 64-bit
register is written in halves (R486, R488, R489, R511, R512, R523). What the spec leaves open here is the model's choice
(log entries 104, 105 and 108). -/
def Obligations.SecurityAndRegisters : Prop := ∀ (s : State),
  let g := s.mgt
  let y := s.mod.sys
  let served := y.input = true ∧ s.crownServes = true
  let open_ := served ∧ g.locked = false
  (∀ (slot : Fin 4) key (signer : Fin 2) sig, open_ → sget 0 g.imageKeys slot.val = 0 →
      exec (.keyenrol slot key signer sig) s = .next (if g.signedBy signer (enrolBytes slot key) sig then
        (({ s with mgt := { g with imageKeys := sset 0 g.imageKeys slot key } } : State).answer 0 []) else s.answer errInvalid []))
  ∧ (∀ (slot : Fin 4) key (signer : Fin 2) sig, open_ → sget 0 g.imageKeys slot.val ≠ 0 →
      exec (.keyenrol slot key signer sig) s = .next (s.answer errInvalid []))
  ∧ (∀ (slot : Fin 4) (signer : Fin 2) sig, open_ →
      exec (.keyrevoke false slot signer sig) s = .next (if g.signedBy signer (revokeBytes false slot) sig then
        (({ s with mgt := { g with keyRevoked := setBit g.keyRevoked slot } } : State).answer 0 []) else s.answer errInvalid []))
  ∧ (∀ (slot : Fin 4) key (signer : Fin 2) sig fw, served → (g.locked = true ∨ bitAt g.fwRevoked signer.val = true) →
      exec (.keyenrol slot key signer sig) s = .next (s.answer errInvalid [])
      ∧ exec (.keyrevoke fw slot signer sig) s = .next (s.answer errInvalid []))
  ∧ (∀ v : Word, y.cfgReady = true → g.locked = false → exec (.secPolicyWrite v) s = .next { s with
      mgt := { g with policy := v &&& policyMask }
      mod := { s.mod with host := if bitAt v.toNat 2 then { s.mod.host with ctrl := s.mod.host.ctrl &&& 0xFFFF_FFFD } else s.mod.host } })
  ∧ (∀ v : Word, g.locked = true → exec (.secPolicyWrite v) s = .next s)
  ∧ (∀ n, served → exec (.getcertchain n) s = .next (s.answer 0 (certPart Config.certChain n)) ∧ (certPart Config.certChain n).length ≤ 1024)
  ∧ (∀ nonce, served → exec (.getattestation nonce) s = .next (s.answer 0
      (s.report nonce ++ (leBytes 96 (Config.identitySign (Config.sha384 (s.report nonce))).toNat).reverse))
      ∧ at_ (s.report nonce) 8 32 = nonce.toNat)
  ∧ (∀ msg, y.cfgReady = true → g.inBusy = false →
      exec (.mailboxInbound msg) s = .next { s with mgt := { g with mboxIn := msg, inBusy := true } })
  ∧ (∀ msg, g.inBusy = true → exec (.mailboxInbound msg) s = .next s)
  ∧ (∀ msg, s.crownServes = true → g.inBusy = true → g.outReady = true → exec (.mailboxOutbound msg) s = .next
      { s with mgt := { g with inBusy := false, outWait := g.outWait ++ [msg] } })
  ∧ (∀ msg, s.crownServes = true → g.inBusy = true → g.outReady = false → exec (.mailboxOutbound msg) s = .next
      (({ s with mgt := { g with inBusy := false } } : State).writeOut msg))
  ∧ (y.cfgReady = true → g.outReady = true → g.outWait = [] →
      exec .crnMboxOutReadyClear s = .next { s with mgt := { g with outReady := false } })
  ∧ (∀ w ws, y.cfgReady = true → g.outReady = true → g.outWait = w :: ws → s.crownServes = true →
      exec .crnMboxOutReadyClear s = .next (({ s with mgt := { g with outReady := false, outWait := ws } } : State).writeOut w))
  ∧ (∀ off v, (regAt off = none ∨ ∃ r, regAt off = some r ∧ Mod.regAbsent s.mod r = true) →
      s.regRead off = 0 ∧ s.regWriteAt off v = s)
  ∧ (∀ n, y.grade = .s64 → Mod.regAbsent s.mod (.portCtrl n) = decide (8 ≤ n) ∧ Mod.regAbsent s.mod (.portStatus n) = decide (8 ≤ n)
      ∧ Mod.regAbsent s.mod (.site n) = decide (12 ≤ n) ∧ Mod.regAbsent s.mod (.flpQueues n) = decide (2 ≤ n)
      ∧ Mod.regAbsent s.mod (.flpPort n) = decide (2 ≤ n))
  ∧ (∀ (off : BitVec 16) v r, y.cfgReady = true → off.toNat % 8 = 0 → regAt off.toNat = some r → r.wide = true →
      exec (.registerWrite off 8 v) s = .next (s.regWrite r v.toNat)
      ∧ exec (.registerWrite off 4 v) s = .next (s.holdLow (some (off.toNat, BitVec.ofNat 32 v.toNat))))
  ∧ (∀ (off : BitVec 16) (v : DWord) r lo, y.cfgReady = true → off.toNat % 8 = 4 → regAt (off.toNat - 4) = some r → r.wide = true →
      y.heldLow = some (off.toNat - 4, lo) → exec (.registerWrite off 4 v) s = .next
        ((s.holdLow none).regWrite r (lo.toNat + 2 ^ 32 * (v.toNat % 2 ^ 32))))
  ∧ (∀ (off : BitVec 16) v r, y.cfgReady = true → off.toNat % 4 = 0 → regAt off.toNat = some r → r.wide = false →
      (∀ b, regAt (off.toNat / 8 * 8) = some b → b.wide = false) →
      exec (.registerWrite off 4 v) s = .next (s.regWrite r (v.toNat % 2 ^ 32)))

/-- Once the helper has power, FAULT_LED shows the first state that applies: a latched trip or overvoltage blinks at 1
Hz, FAILING or recovery is on, locate blinks at 4 Hz, and otherwise it is off (R503). -/
def Obligations.FaultLed : Prop := ∀ (s : State), s.mod.sys.input = true →
  let trip := s.mod.sys.trip = true
  let alarm := s.mod.sys.failing = true ∨ s.mod.sys.crown = 3
  let locate := bitAt s.mgt.sideband.toNat 8 = true
  (trip → s.faultLed = 2) ∧ (¬ trip → alarm → s.faultLed = 1) ∧ (¬ trip → ¬ alarm → locate → s.faultLed = 3)
  ∧ (¬ trip → ¬ alarm → ¬ locate → s.faultLed = 0)

/-- An offset that chapter 22 does not list, and that is no upper half of a 64-bit register, reads zero and ignores
writes; so do the registers of the ports, sites and flash ports that BRN-S64 lacks (R512). -/
def Obligations.UnlistedOffsets : Prop := ∀ (s : State) (off : BitVec 16) (v : DWord),
  let o := off.toNat
  let silent := (s.barRead o 4).1 = 0 ∧ (s.barRead o 4).2.mgt = s.mgt ∧ exec (.registerWrite off 4 v) s = .next s
  (o % 4 = 0 → ¬ listedWide o → ¬ listedNarrow o → ¬ listedWide (o / 8 * 8) → silent)
  ∧ (o % 8 = 0 → (s.mod.sys.grade = .s64 ∧ (inArray o 0x2140 8 8 ∨ inArray o 0x21C0 8 8 ∨ inArray o 0x1860 8 4
        ∨ inArray o 0x1C10 8 2 ∨ inArray o 0x1C50 8 2)) →
      s.regRead o = 0 ∧ s.regWriteAt o v.toNat = s ∧ exec (.registerWrite off 8 v) s = .next s)

/-! ## Memory (R210, R211, R215, R217, R219) -/

/-- A write of device memory reads back, leaves every other byte as it was, is discarded in the firmware reserve and on
an absent or offline site, marks its granules when it is poisoned and clears the granules it covers whole when it is
not; a write of host memory reads back with its poison and leaves every other byte. Every write keeps the canonical
form. What the spec leaves open here is the model's choice (log entry 7). -/
def Obligations.MemoryReadsAndWrites : Prop := ∀ (m : Mod) (pa : Nat) (bs : List Byte) (poison : Bool),
  let w := Mod.physWrite m pa bs poison
  let h := Mod.hostWrite m pa bs poison
  let lands := Mod.paAbsent m pa = false ∧ inReserve pa = false ∧ bs ≠ []
  (lands → (Mod.physRead w pa bs.length).1 = bs)
  ∧ (∀ a, (a < pa ∨ pa + bs.length ≤ a) → (Mod.physRead w a 1).1 = (Mod.physRead m a 1).1)
  ∧ ((Mod.paAbsent m pa = true ∨ inReserve pa = true) → w = m)
  ∧ (lands → poison = true → (Mod.physRead w pa bs.length).2 = true)
  ∧ (lands → poison = false → pa % 65536 = 0 → bs.length % 65536 = 0 → (Mod.physRead w pa bs.length).2 = false)
  ∧ (lands → poison = false → pa % 64 = 0 → bs.length % 64 = 0 →
      (∀ g, pa / 64 ≤ g → g < (pa + bs.length) / 64 → sget false m.mem.blocks (g / 1024) = false) →
      ∀ g, pa / 64 ≤ g → g < (pa + bs.length) / 64 → Mod.granulePoison w g = false)
  ∧ ((Mod.hostRead h pa bs.length).1 = bs)
  ∧ (∀ a, (a < pa ∨ pa + bs.length ≤ a) → (Mod.hostRead h a 1).1 = (Mod.hostRead m a 1).1)
  ∧ (bs ≠ [] → poison = true → (Mod.hostRead h pa bs.length).2 = true)
  ∧ (poison = false → (Mod.hostRead h pa bs.length).2 = false)
  ∧ (Memory.wf m.mem = true → Memory.wf w.mem = true ∧ Memory.wf h.mem = true)

/-! ## The machine as a whole -/

/-- Right after reset every set-up register reads its reset value, device memory lists nothing and is canonical, no
context is live and no command waits; and what the steps keep holds (R211, R216, R513). What the spec leaves open here
is the model's choice (log entries 5, 6 and 7). -/
def Obligations.ResetState : Prop :=
  let r := State.reset
  (∀ n : Fin 64, ∀ k ∈ [0, 8, 0x10, 0x18], r.regRead (32 * n.val + k) = 0 ∧ r.regRead (0x800 + 32 * n.val + k) = 0)
  ∧ (∀ k ∈ [0x1000, 0x1008, 0x1400, 0x1408, 0x1410, 0x1418, 0x2000, 0x2040, 0x2048, 0x2050, 0x3008, 0x3010, 0x3018, 0x6180,
      0x6188, 0x7008], r.regRead k = 0)
  ∧ (∀ n : Fin 4, r.regRead (0x1C00 + 8 * n.val) = 0x0300_0400_0004_0808 ∧ r.regRead (0x1C40 + 8 * n.val) = 0)
  ∧ (∀ n : Fin 16, r.regRead (0x2100 + 8 * n.val) = 0 ∧ r.regRead (0x2180 + 8 * n.val) = 0 ∧ r.regRead (0x6000 + 8 * n.val) = 0)
  ∧ (∀ n : Fin 64, r.regRead (0x6080 + 4 * n.val) = 0x00FF_0000)
  ∧ (∀ n : Fin 256, r.regRead (0x4400 + 4 * n.val) = 0 ∧ r.regRead (0x4800 + 4 * n.val) = 0
      ∧ r.regRead (0x4C00 + 8 * n.val) = 0x0000_02EE)
  ∧ r.regRead 0x3000 = 0x0000_0004 ∧ r.regRead 0x3100 = 0x0000_00C8_0000_0000 ∧ r.regRead 0x4000 = 0x07D0_07D0
  ∧ r.regRead 0x4008 = 0x0000_0010_0000_07D0 ∧ r.regRead 0x8000 = 0x0000_0055
  ∧ r.mod.mem.gddr = [] ∧ r.mod.ctxs = [] ∧ r.mod.model = none ∧ r.pending = [] ∧ Memory.wf r.mod.mem = true
  ∧ Sound r.mgt

/-- Every command is answered with a next state that leaves the queue of commands alone. The only stop is a PVIS row
whose words no accepted image can hold (R293): it stops by name; and a PVIS row that is accepted touches neither the
management helper nor the answers. No command is refused. What the spec leaves open here is the model's choice (log
entry 14). -/
def Obligations.EveryCommandAnswers : Prop := ∀ (s : State) (i : Instr),
  (pvisRow i = none → ∃ t, exec i s = .next t ∧ t.pending = s.pending)
  ∧ (∀ name op c p, pvisRow i = some (name, op, c, p) →
      (accepted s op c p → ∃ t, exec i s = .next t ∧ t.pending = s.pending ∧ t.mgt = s.mgt ∧ t.resp = s.resp)
      ∧ (¬ accepted s op c p → exec i s = .fault (.rejectedEncoding name)))

/-- What `Sound` says holds after every step from a state in which it holds. -/
def Obligations.SoundnessKept : Prop := ∀ (s t : State), Sound s.mgt → step s = .next t → Sound t.mgt

/-- No step takes a fuse back, whatever command it runs; and while SEC_POLICY lock is set the policy stays as it is
until PERST# or a loss of power (R486, R487). -/
def Obligations.FusesAndLockedPolicy : Prop := ∀ (s t : State), step s = .next t →
  Blown s.mgt t.mgt ∧ (s.mgt.locked = true → t.mgt.policy = s.mgt.policy ∨ t.mod.sys.perst = true)
end

