-- ==== Sys2Proof/Laws/SMapLaws.lean ====
section
/-!
SUPPORT. The laws of the sparse map: a read after a write, and that a write keeps the canonical form. Every
memory and every table of State is one of these maps.
-/
namespace Sys2Proof.Laws

open Sys2Proof.Machine

variable {α : Type}

theorem sget_sdel_same (d : α) (m : SMap α) (k : Nat) : sget d (sdel m k) k = d := by
  induction m with
  | nil => rfl
  | cons p m ih =>
    obtain ⟨k', v⟩ := p
    by_cases h : k' = k
    · simp [sdel, h, ih]
    · simp [sdel, h, sget, ih]

theorem sget_sdel_ne (d : α) (m : SMap α) {k j : Nat} (h : j ≠ k) : sget d (sdel m k) j = sget d m j := by
  induction m with
  | nil => rfl
  | cons p m ih =>
    obtain ⟨k', v⟩ := p
    by_cases hk : k' = k
    · subst hk
      have hj : ¬ k' = j := fun e => h e.symm
      simp [sdel, sget, hj, ih]
    · simp only [sdel, hk, if_false, sget, ih]

theorem sget_sins_same (d : α) (m : SMap α) (k : Nat) (v : α) (hm : ∀ p ∈ m, p.1 ≠ k) :
    sget d (sins m k v) k = v := by
  induction m with
  | nil => simp [sins, sget]
  | cons p m ih =>
    obtain ⟨k', v'⟩ := p
    have h1 : k' ≠ k := hm (k', v') (by simp)
    have h2 : ∀ p ∈ m, p.1 ≠ k := fun q hq => hm q (by simp [hq])
    by_cases hlt : k < k'
    · simp [sins, hlt, sget]
    · simp [sins, hlt, sget, h1, ih h2]

theorem sget_sins_ne (d : α) (m : SMap α) {k j : Nat} (v : α) (h : j ≠ k) :
    sget d (sins m k v) j = sget d m j := by
  induction m with
  | nil => simp [sins, sget, Ne.symm h]
  | cons p m ih =>
    obtain ⟨k', v'⟩ := p
    by_cases hlt : k < k'
    · simp [sins, hlt, sget, Ne.symm h]
    · simp only [sins, hlt, if_false, sget, ih]

theorem mem_sdel_ne {m : SMap α} {k : Nat} {p : Nat × α} (h : p ∈ sdel m k) : p.1 ≠ k := by
  induction m with
  | nil => simp [sdel] at h
  | cons q m ih =>
    obtain ⟨k', v⟩ := q
    by_cases hk : k' = k
    · simp [sdel, hk] at h; exact ih h
    · simp [sdel, hk] at h
      rcases h with rfl | h
      · exact hk
      · exact ih h

theorem mem_sdel_mem {m : SMap α} {k : Nat} {p : Nat × α} (h : p ∈ sdel m k) : p ∈ m := by
  induction m with
  | nil => simp [sdel] at h
  | cons q m ih =>
    obtain ⟨k', v⟩ := q
    by_cases hk : k' = k
    · simp [sdel, hk] at h; exact List.mem_cons_of_mem _ (ih h)
    · simp [sdel, hk] at h
      rcases h with rfl | h
      · simp
      · exact List.mem_cons_of_mem _ (ih h)

/-- A read after a write to the same key gives the value written. -/
@[simp] theorem sget_sset_same [DecidableEq α] (d : α) (m : SMap α) (k : Nat) (v : α) :
    sget d (sset d m k v) k = v := by
  unfold sset
  split
  · next h => rw [sget_sdel_same, h]
  · exact sget_sins_same d _ k v (fun p hp => mem_sdel_ne hp)

/-- A write leaves every other key alone. -/
theorem sget_sset_ne [DecidableEq α] (d : α) (m : SMap α) {k j : Nat} (v : α) (h : j ≠ k) :
    sget d (sset d m k v) j = sget d m j := by
  unfold sset
  split
  · exact sget_sdel_ne d m h
  · rw [sget_sins_ne d _ v h, sget_sdel_ne d m h]

theorem sget_sset [DecidableEq α] (d : α) (m : SMap α) (k j : Nat) (v : α) :
    sget d (sset d m k v) j = if j = k then v else sget d m j := by
  split
  · next h => subst h; simp
  · next h => exact sget_sset_ne d m v h

theorem sabove_sdel {m : SMap α} {k j : Nat} (h : sabove j m = true) : sabove j (sdel m k) = true := by
  simp only [sabove, List.all_eq_true] at h ⊢
  exact fun p hp => h p (mem_sdel_mem hp)

theorem swf_sdel [DecidableEq α] (d : α) {m : SMap α} (k : Nat) (h : swf d m = true) :
    swf d (sdel m k) = true := by
  induction m with
  | nil => rfl
  | cons p m ih =>
    obtain ⟨k', v⟩ := p
    simp only [swf, Bool.and_eq_true] at h
    by_cases hk : k' = k
    · simp [sdel, hk, ih h.2]
    · simp [sdel, hk, swf, ih h.2, sabove_sdel h.1.2]
      simpa using h.1.1

theorem mem_sins {m : SMap α} {k : Nat} {v : α} {p : Nat × α} (h : p ∈ sins m k v) :
    p = (k, v) ∨ p ∈ m := by
  induction m with
  | nil => simp [sins] at h; exact .inl h
  | cons q m ih =>
    obtain ⟨k', v'⟩ := q
    by_cases hlt : k < k'
    · simp [sins, hlt] at h
      rcases h with h | h | h <;> simp [h]
    · simp [sins, hlt] at h
      rcases h with h | h
      · simp [h]
      · rcases ih h with h | h <;> simp [h]

theorem swf_sins [DecidableEq α] (d : α) {m : SMap α} {k : Nat} {v : α} (hv : v ≠ d)
    (hk : ∀ p ∈ m, p.1 ≠ k) (h : swf d m = true) : swf d (sins m k v) = true := by
  induction m with
  | nil => simp [sins, swf, hv, sabove]
  | cons p m ih =>
    obtain ⟨k', v'⟩ := p
    have hne : k' ≠ k := hk (k', v') (by simp)
    simp only [swf, Bool.and_eq_true] at h
    by_cases hlt : k < k'
    · have hab : sabove k m = true := by
        simp only [sabove, List.all_eq_true, decide_eq_true_eq] at h ⊢
        exact fun q hq => Nat.lt_trans hlt (h.1.2 q hq)
      simp only [sins, hlt, if_true, swf, h.2, h.1.2, Bool.and_true]
      simp only [sabove, List.all_cons, hlt, decide_true, Bool.true_and] at hab ⊢
      simp [hv, hab]
      simpa using h.1.1
    · have hgt : k' < k := by omega
      simp only [sins, hlt, if_false, swf, Bool.and_eq_true]
      refine ⟨⟨h.1.1, ?_⟩, ih (fun q hq => hk q (by simp [hq])) h.2⟩
      simp only [sabove, List.all_eq_true, decide_eq_true_eq] at h ⊢
      intro q hq
      rcases mem_sins hq with rfl | hq
      · exact hgt
      · exact h.1.2 q hq

/-- Every write of a sparse map keeps its canonical form. -/
theorem swf_sset [DecidableEq α] (d : α) {m : SMap α} (k : Nat) (v : α) (h : swf d m = true) :
    swf d (sset d m k v) = true := by
  unfold sset
  split
  · exact swf_sdel d k h
  · next hv => exact swf_sins d hv (fun p hp => mem_sdel_ne hp) (swf_sdel d k h)

theorem swf_smod [DecidableEq α] (d : α) {m : SMap α} (k : Nat) (f : α → α) (h : swf d m = true) :
    swf d (smod d m k f) = true := swf_sset d k _ h

end Sys2Proof.Laws
end

