-- ==== Sys2Proof/Laws/State.lean ====
section
/-!
SUPPORT. What each update of State leaves alone, one lemma per field, so that no proof unfolds a record update.
-/
namespace Sys2Proof.Laws

open Sys2Proof Sys2Proof.Machine

/-! ## A command that acts on the module alone -/

@[simp] theorem onMod_mgt (s : State) (f : Mod → Mod) : (s.onMod f).mgt = s.mgt := rfl
@[simp] theorem onMod_resp (s : State) (f : Mod → Mod) : (s.onMod f).resp = s.resp := rfl
@[simp] theorem onMod_pending (s : State) (f : Mod → Mod) : (s.onMod f).pending = s.pending := rfl
@[simp] theorem onMod_mod_sys (s : State) (f : Mod → Mod) : (s.onMod f).mod.sys = (f s.mod).sys := rfl
@[simp] theorem onMod_mod_host (s : State) (f : Mod → Mod) : (s.onMod f).mod.host = (f s.mod).host := rfl
@[simp] theorem onMod_mod_flt (s : State) (f : Mod → Mod) : (s.onMod f).mod.flt = (f s.mod).flt := rfl
@[simp] theorem onMod_mod_mem (s : State) (f : Mod → Mod) : (s.onMod f).mod.mem = (f s.mod).mem := rfl
@[simp] theorem onMod_mod_model (s : State) (f : Mod → Mod) : (s.onMod f).mod.model = (f s.mod).model := rfl
@[simp] theorem onMod_mod_trans (s : State) (f : Mod → Mod) : (s.onMod f).mod.trans = (f s.mod).trans := rfl
@[simp] theorem onMod_mod_ctxs (s : State) (f : Mod → Mod) : (s.onMod f).mod.ctxs = (f s.mod).ctxs := rfl
@[simp] theorem onMod_mod_clusters (s : State) (f : Mod → Mod) : (s.onMod f).mod.clusters = (f s.mod).clusters := rfl
@[simp] theorem onMod_mod_cores (s : State) (f : Mod → Mod) : (s.onMod f).mod.cores = (f s.mod).cores := rfl
@[simp] theorem onMod_mod_kv (s : State) (f : Mod → Mod) : (s.onMod f).mod.kv = (f s.mod).kv := rfl
@[simp] theorem onMod_mod_dev (s : State) (f : Mod → Mod) : (s.onMod f).mod.dev = (f s.mod).dev := rfl
@[simp] theorem onMod_mod_flash (s : State) (f : Mod → Mod) : (s.onMod f).mod.flash = (f s.mod).flash := rfl
@[simp] theorem onMod_mod_tab (s : State) (f : Mod → Mod) : (s.onMod f).mod.tab = (f s.mod).tab := rfl
@[simp] theorem onMod_mod_fab (s : State) (f : Mod → Mod) : (s.onMod f).mod.fab = (f s.mod).fab := rfl
@[simp] theorem onMod_mod_coll (s : State) (f : Mod → Mod) : (s.onMod f).mod.coll = (f s.mod).coll := rfl
@[simp] theorem onMod_mod_rcv (s : State) (f : Mod → Mod) : (s.onMod f).mod.rcv = (f s.mod).rcv := rfl
@[simp] theorem onMod_mod_pwr (s : State) (f : Mod → Mod) : (s.onMod f).mod.pwr = (f s.mod).pwr := rfl
@[simp] theorem onMod_mod_free (s : State) (f : Mod → Mod) : (s.onMod f).mod.free = (f s.mod).free := rfl

/-- Counting edges touches the visor's values alone: its registers stay. -/
@[simp] theorem onMod_vis_clsel (s : State) (f : Mod → Mod) : (s.onMod f).mod.vis.clsel = (f s.mod).vis.clsel := rfl
@[simp] theorem onMod_vis_clInForce (s : State) (f : Mod → Mod) : (s.onMod f).mod.vis.clInForce = (f s.mod).vis.clInForce := rfl
@[simp] theorem onMod_vis_brsel (s : State) (f : Mod → Mod) : (s.onMod f).mod.vis.brsel = (f s.mod).vis.brsel := rfl
@[simp] theorem onMod_vis_snapAddr (s : State) (f : Mod → Mod) : (s.onMod f).mod.vis.snapAddr = (f s.mod).vis.snapAddr := rfl
@[simp] theorem onMod_vis_snaps (s : State) (f : Mod → Mod) : (s.onMod f).mod.vis.snaps = (f s.mod).vis.snaps := rfl
@[simp] theorem onMod_vis_busy (s : State) (f : Mod → Mod) : (s.onMod f).mod.vis.busy = (f s.mod).vis.busy := rfl

/-! ## onHost -/

@[simp] theorem onHost_sys (m : Mod) (f : HostIf → HostIf) : (Mod.onHost m f).sys = m.sys := rfl
@[simp] theorem onHost_host (m : Mod) (f : HostIf → HostIf) : (Mod.onHost m f).host = f m.host := rfl
@[simp] theorem onHost_flt (m : Mod) (f : HostIf → HostIf) : (Mod.onHost m f).flt = m.flt := rfl
@[simp] theorem onHost_mem (m : Mod) (f : HostIf → HostIf) : (Mod.onHost m f).mem = m.mem := rfl
@[simp] theorem onHost_model (m : Mod) (f : HostIf → HostIf) : (Mod.onHost m f).model = m.model := rfl
@[simp] theorem onHost_trans (m : Mod) (f : HostIf → HostIf) : (Mod.onHost m f).trans = m.trans := rfl
@[simp] theorem onHost_ctxs (m : Mod) (f : HostIf → HostIf) : (Mod.onHost m f).ctxs = m.ctxs := rfl
@[simp] theorem onHost_clusters (m : Mod) (f : HostIf → HostIf) : (Mod.onHost m f).clusters = m.clusters := rfl
@[simp] theorem onHost_cores (m : Mod) (f : HostIf → HostIf) : (Mod.onHost m f).cores = m.cores := rfl
@[simp] theorem onHost_kv (m : Mod) (f : HostIf → HostIf) : (Mod.onHost m f).kv = m.kv := rfl
@[simp] theorem onHost_dev (m : Mod) (f : HostIf → HostIf) : (Mod.onHost m f).dev = m.dev := rfl
@[simp] theorem onHost_flash (m : Mod) (f : HostIf → HostIf) : (Mod.onHost m f).flash = m.flash := rfl
@[simp] theorem onHost_tab (m : Mod) (f : HostIf → HostIf) : (Mod.onHost m f).tab = m.tab := rfl
@[simp] theorem onHost_fab (m : Mod) (f : HostIf → HostIf) : (Mod.onHost m f).fab = m.fab := rfl
@[simp] theorem onHost_coll (m : Mod) (f : HostIf → HostIf) : (Mod.onHost m f).coll = m.coll := rfl
@[simp] theorem onHost_rcv (m : Mod) (f : HostIf → HostIf) : (Mod.onHost m f).rcv = m.rcv := rfl
@[simp] theorem onHost_vis (m : Mod) (f : HostIf → HostIf) : (Mod.onHost m f).vis = m.vis := rfl
@[simp] theorem onHost_pwr (m : Mod) (f : HostIf → HostIf) : (Mod.onHost m f).pwr = m.pwr := rfl
@[simp] theorem onHost_free (m : Mod) (f : HostIf → HostIf) : (Mod.onHost m f).free = m.free := rfl

/-! ## setSq -/

@[simp] theorem setSq_sys (m : Mod) (n : Nat) (q : Sq) : (Mod.setSq m n q).sys = m.sys := rfl
@[simp] theorem setSq_host (m : Mod) (n : Nat) (q : Sq) : (Mod.setSq m n q).host = { m.host with sq := sset {} m.host.sq n q } := rfl
@[simp] theorem setSq_flt (m : Mod) (n : Nat) (q : Sq) : (Mod.setSq m n q).flt = m.flt := rfl
@[simp] theorem setSq_mem (m : Mod) (n : Nat) (q : Sq) : (Mod.setSq m n q).mem = m.mem := rfl
@[simp] theorem setSq_model (m : Mod) (n : Nat) (q : Sq) : (Mod.setSq m n q).model = m.model := rfl
@[simp] theorem setSq_trans (m : Mod) (n : Nat) (q : Sq) : (Mod.setSq m n q).trans = m.trans := rfl
@[simp] theorem setSq_ctxs (m : Mod) (n : Nat) (q : Sq) : (Mod.setSq m n q).ctxs = m.ctxs := rfl
@[simp] theorem setSq_clusters (m : Mod) (n : Nat) (q : Sq) : (Mod.setSq m n q).clusters = m.clusters := rfl
@[simp] theorem setSq_cores (m : Mod) (n : Nat) (q : Sq) : (Mod.setSq m n q).cores = m.cores := rfl
@[simp] theorem setSq_kv (m : Mod) (n : Nat) (q : Sq) : (Mod.setSq m n q).kv = m.kv := rfl
@[simp] theorem setSq_dev (m : Mod) (n : Nat) (q : Sq) : (Mod.setSq m n q).dev = m.dev := rfl
@[simp] theorem setSq_flash (m : Mod) (n : Nat) (q : Sq) : (Mod.setSq m n q).flash = m.flash := rfl
@[simp] theorem setSq_tab (m : Mod) (n : Nat) (q : Sq) : (Mod.setSq m n q).tab = m.tab := rfl
@[simp] theorem setSq_fab (m : Mod) (n : Nat) (q : Sq) : (Mod.setSq m n q).fab = m.fab := rfl
@[simp] theorem setSq_coll (m : Mod) (n : Nat) (q : Sq) : (Mod.setSq m n q).coll = m.coll := rfl
@[simp] theorem setSq_rcv (m : Mod) (n : Nat) (q : Sq) : (Mod.setSq m n q).rcv = m.rcv := rfl
@[simp] theorem setSq_vis (m : Mod) (n : Nat) (q : Sq) : (Mod.setSq m n q).vis = m.vis := rfl
@[simp] theorem setSq_pwr (m : Mod) (n : Nat) (q : Sq) : (Mod.setSq m n q).pwr = m.pwr := rfl
@[simp] theorem setSq_free (m : Mod) (n : Nat) (q : Sq) : (Mod.setSq m n q).free = m.free := rfl

/-! ## setCq -/

@[simp] theorem setCq_sys (m : Mod) (n : Nat) (q : Cq) : (Mod.setCq m n q).sys = m.sys := rfl
@[simp] theorem setCq_host (m : Mod) (n : Nat) (q : Cq) : (Mod.setCq m n q).host = { m.host with cq := sset {} m.host.cq n q } := rfl
@[simp] theorem setCq_flt (m : Mod) (n : Nat) (q : Cq) : (Mod.setCq m n q).flt = m.flt := rfl
@[simp] theorem setCq_mem (m : Mod) (n : Nat) (q : Cq) : (Mod.setCq m n q).mem = m.mem := rfl
@[simp] theorem setCq_model (m : Mod) (n : Nat) (q : Cq) : (Mod.setCq m n q).model = m.model := rfl
@[simp] theorem setCq_trans (m : Mod) (n : Nat) (q : Cq) : (Mod.setCq m n q).trans = m.trans := rfl
@[simp] theorem setCq_ctxs (m : Mod) (n : Nat) (q : Cq) : (Mod.setCq m n q).ctxs = m.ctxs := rfl
@[simp] theorem setCq_clusters (m : Mod) (n : Nat) (q : Cq) : (Mod.setCq m n q).clusters = m.clusters := rfl
@[simp] theorem setCq_cores (m : Mod) (n : Nat) (q : Cq) : (Mod.setCq m n q).cores = m.cores := rfl
@[simp] theorem setCq_kv (m : Mod) (n : Nat) (q : Cq) : (Mod.setCq m n q).kv = m.kv := rfl
@[simp] theorem setCq_dev (m : Mod) (n : Nat) (q : Cq) : (Mod.setCq m n q).dev = m.dev := rfl
@[simp] theorem setCq_flash (m : Mod) (n : Nat) (q : Cq) : (Mod.setCq m n q).flash = m.flash := rfl
@[simp] theorem setCq_tab (m : Mod) (n : Nat) (q : Cq) : (Mod.setCq m n q).tab = m.tab := rfl
@[simp] theorem setCq_fab (m : Mod) (n : Nat) (q : Cq) : (Mod.setCq m n q).fab = m.fab := rfl
@[simp] theorem setCq_coll (m : Mod) (n : Nat) (q : Cq) : (Mod.setCq m n q).coll = m.coll := rfl
@[simp] theorem setCq_rcv (m : Mod) (n : Nat) (q : Cq) : (Mod.setCq m n q).rcv = m.rcv := rfl
@[simp] theorem setCq_vis (m : Mod) (n : Nat) (q : Cq) : (Mod.setCq m n q).vis = m.vis := rfl
@[simp] theorem setCq_pwr (m : Mod) (n : Nat) (q : Cq) : (Mod.setCq m n q).pwr = m.pwr := rfl
@[simp] theorem setCq_free (m : Mod) (n : Nat) (q : Cq) : (Mod.setCq m n q).free = m.free := rfl

/-! ## modCore -/

@[simp] theorem modCore_sys (m : Mod) (c : Nat) (f : Core → Core) : (Mod.modCore m c f).sys = m.sys := rfl
@[simp] theorem modCore_host (m : Mod) (c : Nat) (f : Core → Core) : (Mod.modCore m c f).host = m.host := rfl
@[simp] theorem modCore_flt (m : Mod) (c : Nat) (f : Core → Core) : (Mod.modCore m c f).flt = m.flt := rfl
@[simp] theorem modCore_mem (m : Mod) (c : Nat) (f : Core → Core) : (Mod.modCore m c f).mem = m.mem := rfl
@[simp] theorem modCore_model (m : Mod) (c : Nat) (f : Core → Core) : (Mod.modCore m c f).model = m.model := rfl
@[simp] theorem modCore_trans (m : Mod) (c : Nat) (f : Core → Core) : (Mod.modCore m c f).trans = m.trans := rfl
@[simp] theorem modCore_ctxs (m : Mod) (c : Nat) (f : Core → Core) : (Mod.modCore m c f).ctxs = m.ctxs := rfl
@[simp] theorem modCore_clusters (m : Mod) (c : Nat) (f : Core → Core) : (Mod.modCore m c f).clusters = m.clusters := rfl
@[simp] theorem modCore_cores (m : Mod) (c : Nat) (f : Core → Core) : (Mod.modCore m c f).cores = smod {} m.cores c f := rfl
@[simp] theorem modCore_kv (m : Mod) (c : Nat) (f : Core → Core) : (Mod.modCore m c f).kv = m.kv := rfl
@[simp] theorem modCore_dev (m : Mod) (c : Nat) (f : Core → Core) : (Mod.modCore m c f).dev = m.dev := rfl
@[simp] theorem modCore_flash (m : Mod) (c : Nat) (f : Core → Core) : (Mod.modCore m c f).flash = m.flash := rfl
@[simp] theorem modCore_tab (m : Mod) (c : Nat) (f : Core → Core) : (Mod.modCore m c f).tab = m.tab := rfl
@[simp] theorem modCore_fab (m : Mod) (c : Nat) (f : Core → Core) : (Mod.modCore m c f).fab = m.fab := rfl
@[simp] theorem modCore_coll (m : Mod) (c : Nat) (f : Core → Core) : (Mod.modCore m c f).coll = m.coll := rfl
@[simp] theorem modCore_rcv (m : Mod) (c : Nat) (f : Core → Core) : (Mod.modCore m c f).rcv = m.rcv := rfl
@[simp] theorem modCore_vis (m : Mod) (c : Nat) (f : Core → Core) : (Mod.modCore m c f).vis = m.vis := rfl
@[simp] theorem modCore_pwr (m : Mod) (c : Nat) (f : Core → Core) : (Mod.modCore m c f).pwr = m.pwr := rfl
@[simp] theorem modCore_free (m : Mod) (c : Nat) (f : Core → Core) : (Mod.modCore m c f).free = m.free := rfl

/-! ## modCluster -/

@[simp] theorem modCluster_sys (m : Mod) (l : Nat) (f : Cluster → Cluster) : (Mod.modCluster m l f).sys = m.sys := rfl
@[simp] theorem modCluster_host (m : Mod) (l : Nat) (f : Cluster → Cluster) : (Mod.modCluster m l f).host = m.host := rfl
@[simp] theorem modCluster_flt (m : Mod) (l : Nat) (f : Cluster → Cluster) : (Mod.modCluster m l f).flt = m.flt := rfl
@[simp] theorem modCluster_mem (m : Mod) (l : Nat) (f : Cluster → Cluster) : (Mod.modCluster m l f).mem = m.mem := rfl
@[simp] theorem modCluster_model (m : Mod) (l : Nat) (f : Cluster → Cluster) : (Mod.modCluster m l f).model = m.model := rfl
@[simp] theorem modCluster_trans (m : Mod) (l : Nat) (f : Cluster → Cluster) : (Mod.modCluster m l f).trans = m.trans := rfl
@[simp] theorem modCluster_ctxs (m : Mod) (l : Nat) (f : Cluster → Cluster) : (Mod.modCluster m l f).ctxs = m.ctxs := rfl
@[simp] theorem modCluster_clusters (m : Mod) (l : Nat) (f : Cluster → Cluster) : (Mod.modCluster m l f).clusters = smod {} m.clusters l f := rfl
@[simp] theorem modCluster_cores (m : Mod) (l : Nat) (f : Cluster → Cluster) : (Mod.modCluster m l f).cores = m.cores := rfl
@[simp] theorem modCluster_kv (m : Mod) (l : Nat) (f : Cluster → Cluster) : (Mod.modCluster m l f).kv = m.kv := rfl
@[simp] theorem modCluster_dev (m : Mod) (l : Nat) (f : Cluster → Cluster) : (Mod.modCluster m l f).dev = m.dev := rfl
@[simp] theorem modCluster_flash (m : Mod) (l : Nat) (f : Cluster → Cluster) : (Mod.modCluster m l f).flash = m.flash := rfl
@[simp] theorem modCluster_tab (m : Mod) (l : Nat) (f : Cluster → Cluster) : (Mod.modCluster m l f).tab = m.tab := rfl
@[simp] theorem modCluster_fab (m : Mod) (l : Nat) (f : Cluster → Cluster) : (Mod.modCluster m l f).fab = m.fab := rfl
@[simp] theorem modCluster_coll (m : Mod) (l : Nat) (f : Cluster → Cluster) : (Mod.modCluster m l f).coll = m.coll := rfl
@[simp] theorem modCluster_rcv (m : Mod) (l : Nat) (f : Cluster → Cluster) : (Mod.modCluster m l f).rcv = m.rcv := rfl
@[simp] theorem modCluster_vis (m : Mod) (l : Nat) (f : Cluster → Cluster) : (Mod.modCluster m l f).vis = m.vis := rfl
@[simp] theorem modCluster_pwr (m : Mod) (l : Nat) (f : Cluster → Cluster) : (Mod.modCluster m l f).pwr = m.pwr := rfl
@[simp] theorem modCluster_free (m : Mod) (l : Nat) (f : Cluster → Cluster) : (Mod.modCluster m l f).free = m.free := rfl

/-! ## modCtx -/

@[simp] theorem modCtx_sys (m : Mod) (k : Nat) (f : Ctx → Ctx) : (Mod.modCtx m k f).sys = m.sys := rfl
@[simp] theorem modCtx_host (m : Mod) (k : Nat) (f : Ctx → Ctx) : (Mod.modCtx m k f).host = m.host := rfl
@[simp] theorem modCtx_flt (m : Mod) (k : Nat) (f : Ctx → Ctx) : (Mod.modCtx m k f).flt = m.flt := rfl
@[simp] theorem modCtx_mem (m : Mod) (k : Nat) (f : Ctx → Ctx) : (Mod.modCtx m k f).mem = m.mem := rfl
@[simp] theorem modCtx_model (m : Mod) (k : Nat) (f : Ctx → Ctx) : (Mod.modCtx m k f).model = m.model := rfl
@[simp] theorem modCtx_trans (m : Mod) (k : Nat) (f : Ctx → Ctx) : (Mod.modCtx m k f).trans = m.trans := rfl
@[simp] theorem modCtx_ctxs (m : Mod) (k : Nat) (f : Ctx → Ctx) : (Mod.modCtx m k f).ctxs = smod none m.ctxs k (fun c => c.map f) := rfl
@[simp] theorem modCtx_clusters (m : Mod) (k : Nat) (f : Ctx → Ctx) : (Mod.modCtx m k f).clusters = m.clusters := rfl
@[simp] theorem modCtx_cores (m : Mod) (k : Nat) (f : Ctx → Ctx) : (Mod.modCtx m k f).cores = m.cores := rfl
@[simp] theorem modCtx_kv (m : Mod) (k : Nat) (f : Ctx → Ctx) : (Mod.modCtx m k f).kv = m.kv := rfl
@[simp] theorem modCtx_dev (m : Mod) (k : Nat) (f : Ctx → Ctx) : (Mod.modCtx m k f).dev = m.dev := rfl
@[simp] theorem modCtx_flash (m : Mod) (k : Nat) (f : Ctx → Ctx) : (Mod.modCtx m k f).flash = m.flash := rfl
@[simp] theorem modCtx_tab (m : Mod) (k : Nat) (f : Ctx → Ctx) : (Mod.modCtx m k f).tab = m.tab := rfl
@[simp] theorem modCtx_fab (m : Mod) (k : Nat) (f : Ctx → Ctx) : (Mod.modCtx m k f).fab = m.fab := rfl
@[simp] theorem modCtx_coll (m : Mod) (k : Nat) (f : Ctx → Ctx) : (Mod.modCtx m k f).coll = m.coll := rfl
@[simp] theorem modCtx_rcv (m : Mod) (k : Nat) (f : Ctx → Ctx) : (Mod.modCtx m k f).rcv = m.rcv := rfl
@[simp] theorem modCtx_vis (m : Mod) (k : Nat) (f : Ctx → Ctx) : (Mod.modCtx m k f).vis = m.vis := rfl
@[simp] theorem modCtx_pwr (m : Mod) (k : Nat) (f : Ctx → Ctx) : (Mod.modCtx m k f).pwr = m.pwr := rfl
@[simp] theorem modCtx_free (m : Mod) (k : Nat) (f : Ctx → Ctx) : (Mod.modCtx m k f).free = m.free := rfl

/-! ## modFlight -/

@[simp] theorem modFlight_sys (m : Mod) (i : Nat) (f : Flight → Flight) : (Mod.modFlight m i f).sys = m.sys := rfl
@[simp] theorem modFlight_flt (m : Mod) (i : Nat) (f : Flight → Flight) : (Mod.modFlight m i f).flt = m.flt := rfl
@[simp] theorem modFlight_mem (m : Mod) (i : Nat) (f : Flight → Flight) : (Mod.modFlight m i f).mem = m.mem := rfl
@[simp] theorem modFlight_model (m : Mod) (i : Nat) (f : Flight → Flight) : (Mod.modFlight m i f).model = m.model := rfl
@[simp] theorem modFlight_trans (m : Mod) (i : Nat) (f : Flight → Flight) : (Mod.modFlight m i f).trans = m.trans := rfl
@[simp] theorem modFlight_ctxs (m : Mod) (i : Nat) (f : Flight → Flight) : (Mod.modFlight m i f).ctxs = m.ctxs := rfl
@[simp] theorem modFlight_clusters (m : Mod) (i : Nat) (f : Flight → Flight) : (Mod.modFlight m i f).clusters = m.clusters := rfl
@[simp] theorem modFlight_cores (m : Mod) (i : Nat) (f : Flight → Flight) : (Mod.modFlight m i f).cores = m.cores := rfl
@[simp] theorem modFlight_kv (m : Mod) (i : Nat) (f : Flight → Flight) : (Mod.modFlight m i f).kv = m.kv := rfl
@[simp] theorem modFlight_dev (m : Mod) (i : Nat) (f : Flight → Flight) : (Mod.modFlight m i f).dev = m.dev := rfl
@[simp] theorem modFlight_flash (m : Mod) (i : Nat) (f : Flight → Flight) : (Mod.modFlight m i f).flash = m.flash := rfl
@[simp] theorem modFlight_tab (m : Mod) (i : Nat) (f : Flight → Flight) : (Mod.modFlight m i f).tab = m.tab := rfl
@[simp] theorem modFlight_fab (m : Mod) (i : Nat) (f : Flight → Flight) : (Mod.modFlight m i f).fab = m.fab := rfl
@[simp] theorem modFlight_coll (m : Mod) (i : Nat) (f : Flight → Flight) : (Mod.modFlight m i f).coll = m.coll := rfl
@[simp] theorem modFlight_rcv (m : Mod) (i : Nat) (f : Flight → Flight) : (Mod.modFlight m i f).rcv = m.rcv := rfl
@[simp] theorem modFlight_vis (m : Mod) (i : Nat) (f : Flight → Flight) : (Mod.modFlight m i f).vis = m.vis := rfl
@[simp] theorem modFlight_pwr (m : Mod) (i : Nat) (f : Flight → Flight) : (Mod.modFlight m i f).pwr = m.pwr := rfl
@[simp] theorem modFlight_free (m : Mod) (i : Nat) (f : Flight → Flight) : (Mod.modFlight m i f).free = m.free := rfl

/-! ## setPort -/

@[simp] theorem setPort_sys (m : Mod) (p : Nat) (x : Port) : (Mod.setPort m p x).sys = m.sys := rfl
@[simp] theorem setPort_host (m : Mod) (p : Nat) (x : Port) : (Mod.setPort m p x).host = m.host := rfl
@[simp] theorem setPort_flt (m : Mod) (p : Nat) (x : Port) : (Mod.setPort m p x).flt = m.flt := rfl
@[simp] theorem setPort_mem (m : Mod) (p : Nat) (x : Port) : (Mod.setPort m p x).mem = m.mem := rfl
@[simp] theorem setPort_model (m : Mod) (p : Nat) (x : Port) : (Mod.setPort m p x).model = m.model := rfl
@[simp] theorem setPort_trans (m : Mod) (p : Nat) (x : Port) : (Mod.setPort m p x).trans = m.trans := rfl
@[simp] theorem setPort_ctxs (m : Mod) (p : Nat) (x : Port) : (Mod.setPort m p x).ctxs = m.ctxs := rfl
@[simp] theorem setPort_clusters (m : Mod) (p : Nat) (x : Port) : (Mod.setPort m p x).clusters = m.clusters := rfl
@[simp] theorem setPort_cores (m : Mod) (p : Nat) (x : Port) : (Mod.setPort m p x).cores = m.cores := rfl
@[simp] theorem setPort_kv (m : Mod) (p : Nat) (x : Port) : (Mod.setPort m p x).kv = m.kv := rfl
@[simp] theorem setPort_dev (m : Mod) (p : Nat) (x : Port) : (Mod.setPort m p x).dev = m.dev := rfl
@[simp] theorem setPort_flash (m : Mod) (p : Nat) (x : Port) : (Mod.setPort m p x).flash = m.flash := rfl
@[simp] theorem setPort_tab (m : Mod) (p : Nat) (x : Port) : (Mod.setPort m p x).tab = m.tab := rfl
@[simp] theorem setPort_fab (m : Mod) (p : Nat) (x : Port) : (Mod.setPort m p x).fab = { m.fab with ports := sset {} m.fab.ports p x } := rfl
@[simp] theorem setPort_coll (m : Mod) (p : Nat) (x : Port) : (Mod.setPort m p x).coll = m.coll := rfl
@[simp] theorem setPort_rcv (m : Mod) (p : Nat) (x : Port) : (Mod.setPort m p x).rcv = m.rcv := rfl
@[simp] theorem setPort_vis (m : Mod) (p : Nat) (x : Port) : (Mod.setPort m p x).vis = m.vis := rfl
@[simp] theorem setPort_pwr (m : Mod) (p : Nat) (x : Port) : (Mod.setPort m p x).pwr = m.pwr := rfl
@[simp] theorem setPort_free (m : Mod) (p : Nat) (x : Port) : (Mod.setPort m p x).free = m.free := rfl

/-! ## onPwr -/

@[simp] theorem onPwr_sys (m : Mod) (f : Power → Power) : (Mod.onPwr m f).sys = m.sys := rfl
@[simp] theorem onPwr_host (m : Mod) (f : Power → Power) : (Mod.onPwr m f).host = m.host := rfl
@[simp] theorem onPwr_flt (m : Mod) (f : Power → Power) : (Mod.onPwr m f).flt = m.flt := rfl
@[simp] theorem onPwr_mem (m : Mod) (f : Power → Power) : (Mod.onPwr m f).mem = m.mem := rfl
@[simp] theorem onPwr_model (m : Mod) (f : Power → Power) : (Mod.onPwr m f).model = m.model := rfl
@[simp] theorem onPwr_trans (m : Mod) (f : Power → Power) : (Mod.onPwr m f).trans = m.trans := rfl
@[simp] theorem onPwr_ctxs (m : Mod) (f : Power → Power) : (Mod.onPwr m f).ctxs = m.ctxs := rfl
@[simp] theorem onPwr_clusters (m : Mod) (f : Power → Power) : (Mod.onPwr m f).clusters = m.clusters := rfl
@[simp] theorem onPwr_cores (m : Mod) (f : Power → Power) : (Mod.onPwr m f).cores = m.cores := rfl
@[simp] theorem onPwr_kv (m : Mod) (f : Power → Power) : (Mod.onPwr m f).kv = m.kv := rfl
@[simp] theorem onPwr_dev (m : Mod) (f : Power → Power) : (Mod.onPwr m f).dev = m.dev := rfl
@[simp] theorem onPwr_flash (m : Mod) (f : Power → Power) : (Mod.onPwr m f).flash = m.flash := rfl
@[simp] theorem onPwr_tab (m : Mod) (f : Power → Power) : (Mod.onPwr m f).tab = m.tab := rfl
@[simp] theorem onPwr_fab (m : Mod) (f : Power → Power) : (Mod.onPwr m f).fab = m.fab := rfl
@[simp] theorem onPwr_coll (m : Mod) (f : Power → Power) : (Mod.onPwr m f).coll = m.coll := rfl
@[simp] theorem onPwr_rcv (m : Mod) (f : Power → Power) : (Mod.onPwr m f).rcv = m.rcv := rfl
@[simp] theorem onPwr_vis (m : Mod) (f : Power → Power) : (Mod.onPwr m f).vis = m.vis := rfl
@[simp] theorem onPwr_pwr (m : Mod) (f : Power → Power) : (Mod.onPwr m f).pwr = f m.pwr := rfl
@[simp] theorem onPwr_free (m : Mod) (f : Power → Power) : (Mod.onPwr m f).free = m.free := rfl

/-! ## setIsland -/

@[simp] theorem setIsland_sys (m : Mod) (i : Nat) (x : Island) : (Mod.setIsland m i x).sys = m.sys := rfl
@[simp] theorem setIsland_host (m : Mod) (i : Nat) (x : Island) : (Mod.setIsland m i x).host = m.host := rfl
@[simp] theorem setIsland_flt (m : Mod) (i : Nat) (x : Island) : (Mod.setIsland m i x).flt = m.flt := rfl
@[simp] theorem setIsland_mem (m : Mod) (i : Nat) (x : Island) : (Mod.setIsland m i x).mem = m.mem := rfl
@[simp] theorem setIsland_model (m : Mod) (i : Nat) (x : Island) : (Mod.setIsland m i x).model = m.model := rfl
@[simp] theorem setIsland_trans (m : Mod) (i : Nat) (x : Island) : (Mod.setIsland m i x).trans = m.trans := rfl
@[simp] theorem setIsland_ctxs (m : Mod) (i : Nat) (x : Island) : (Mod.setIsland m i x).ctxs = m.ctxs := rfl
@[simp] theorem setIsland_clusters (m : Mod) (i : Nat) (x : Island) : (Mod.setIsland m i x).clusters = m.clusters := rfl
@[simp] theorem setIsland_cores (m : Mod) (i : Nat) (x : Island) : (Mod.setIsland m i x).cores = m.cores := rfl
@[simp] theorem setIsland_kv (m : Mod) (i : Nat) (x : Island) : (Mod.setIsland m i x).kv = m.kv := rfl
@[simp] theorem setIsland_dev (m : Mod) (i : Nat) (x : Island) : (Mod.setIsland m i x).dev = m.dev := rfl
@[simp] theorem setIsland_flash (m : Mod) (i : Nat) (x : Island) : (Mod.setIsland m i x).flash = m.flash := rfl
@[simp] theorem setIsland_tab (m : Mod) (i : Nat) (x : Island) : (Mod.setIsland m i x).tab = m.tab := rfl
@[simp] theorem setIsland_fab (m : Mod) (i : Nat) (x : Island) : (Mod.setIsland m i x).fab = m.fab := rfl
@[simp] theorem setIsland_coll (m : Mod) (i : Nat) (x : Island) : (Mod.setIsland m i x).coll = m.coll := rfl
@[simp] theorem setIsland_rcv (m : Mod) (i : Nat) (x : Island) : (Mod.setIsland m i x).rcv = m.rcv := rfl
@[simp] theorem setIsland_vis (m : Mod) (i : Nat) (x : Island) : (Mod.setIsland m i x).vis = m.vis := rfl
@[simp] theorem setIsland_pwr (m : Mod) (i : Nat) (x : Island) : (Mod.setIsland m i x).pwr = { m.pwr with islands := sset {} m.pwr.islands i x } := rfl
@[simp] theorem setIsland_free (m : Mod) (i : Nat) (x : Island) : (Mod.setIsland m i x).free = m.free := rfl

/-! ## setSite -/

@[simp] theorem setSite_sys (m : Mod) (i : Nat) (x : Site) : (Mod.setSite m i x).sys = m.sys := rfl
@[simp] theorem setSite_host (m : Mod) (i : Nat) (x : Site) : (Mod.setSite m i x).host = m.host := rfl
@[simp] theorem setSite_flt (m : Mod) (i : Nat) (x : Site) : (Mod.setSite m i x).flt = m.flt := rfl
@[simp] theorem setSite_mem (m : Mod) (i : Nat) (x : Site) : (Mod.setSite m i x).mem = { m.mem with sites := sset {} m.mem.sites i x } := rfl
@[simp] theorem setSite_model (m : Mod) (i : Nat) (x : Site) : (Mod.setSite m i x).model = m.model := rfl
@[simp] theorem setSite_trans (m : Mod) (i : Nat) (x : Site) : (Mod.setSite m i x).trans = m.trans := rfl
@[simp] theorem setSite_ctxs (m : Mod) (i : Nat) (x : Site) : (Mod.setSite m i x).ctxs = m.ctxs := rfl
@[simp] theorem setSite_clusters (m : Mod) (i : Nat) (x : Site) : (Mod.setSite m i x).clusters = m.clusters := rfl
@[simp] theorem setSite_cores (m : Mod) (i : Nat) (x : Site) : (Mod.setSite m i x).cores = m.cores := rfl
@[simp] theorem setSite_kv (m : Mod) (i : Nat) (x : Site) : (Mod.setSite m i x).kv = m.kv := rfl
@[simp] theorem setSite_dev (m : Mod) (i : Nat) (x : Site) : (Mod.setSite m i x).dev = m.dev := rfl
@[simp] theorem setSite_flash (m : Mod) (i : Nat) (x : Site) : (Mod.setSite m i x).flash = m.flash := rfl
@[simp] theorem setSite_tab (m : Mod) (i : Nat) (x : Site) : (Mod.setSite m i x).tab = m.tab := rfl
@[simp] theorem setSite_fab (m : Mod) (i : Nat) (x : Site) : (Mod.setSite m i x).fab = m.fab := rfl
@[simp] theorem setSite_coll (m : Mod) (i : Nat) (x : Site) : (Mod.setSite m i x).coll = m.coll := rfl
@[simp] theorem setSite_rcv (m : Mod) (i : Nat) (x : Site) : (Mod.setSite m i x).rcv = m.rcv := rfl
@[simp] theorem setSite_vis (m : Mod) (i : Nat) (x : Site) : (Mod.setSite m i x).vis = m.vis := rfl
@[simp] theorem setSite_pwr (m : Mod) (i : Nat) (x : Site) : (Mod.setSite m i x).pwr = m.pwr := rfl
@[simp] theorem setSite_free (m : Mod) (i : Nat) (x : Site) : (Mod.setSite m i x).free = m.free := rfl

/-! ## bumpFree -/

@[simp] theorem bumpFree_sys (m : Mod) : (Mod.bumpFree m).sys = m.sys := rfl
@[simp] theorem bumpFree_host (m : Mod) : (Mod.bumpFree m).host = m.host := rfl
@[simp] theorem bumpFree_flt (m : Mod) : (Mod.bumpFree m).flt = m.flt := rfl
@[simp] theorem bumpFree_mem (m : Mod) : (Mod.bumpFree m).mem = m.mem := rfl
@[simp] theorem bumpFree_model (m : Mod) : (Mod.bumpFree m).model = m.model := rfl
@[simp] theorem bumpFree_trans (m : Mod) : (Mod.bumpFree m).trans = m.trans := rfl
@[simp] theorem bumpFree_ctxs (m : Mod) : (Mod.bumpFree m).ctxs = m.ctxs := rfl
@[simp] theorem bumpFree_clusters (m : Mod) : (Mod.bumpFree m).clusters = m.clusters := rfl
@[simp] theorem bumpFree_cores (m : Mod) : (Mod.bumpFree m).cores = m.cores := rfl
@[simp] theorem bumpFree_kv (m : Mod) : (Mod.bumpFree m).kv = m.kv := rfl
@[simp] theorem bumpFree_dev (m : Mod) : (Mod.bumpFree m).dev = m.dev := rfl
@[simp] theorem bumpFree_flash (m : Mod) : (Mod.bumpFree m).flash = m.flash := rfl
@[simp] theorem bumpFree_tab (m : Mod) : (Mod.bumpFree m).tab = m.tab := rfl
@[simp] theorem bumpFree_fab (m : Mod) : (Mod.bumpFree m).fab = m.fab := rfl
@[simp] theorem bumpFree_coll (m : Mod) : (Mod.bumpFree m).coll = m.coll := rfl
@[simp] theorem bumpFree_rcv (m : Mod) : (Mod.bumpFree m).rcv = m.rcv := rfl
@[simp] theorem bumpFree_vis (m : Mod) : (Mod.bumpFree m).vis = m.vis := rfl
@[simp] theorem bumpFree_pwr (m : Mod) : (Mod.bumpFree m).pwr = m.pwr := rfl
@[simp] theorem bumpFree_free (m : Mod) : (Mod.bumpFree m).free = m.free + 1 := rfl

/-! ## Reading back -/

@[simp] theorem core_modCore_same (m : Mod) (c : Nat) (f : Core → Core) :
    Mod.core (Mod.modCore m c f) c = f (Mod.core m c) := by
  simp [Mod.core, smod]

theorem core_modCore_ne (m : Mod) {c d : Nat} (f : Core → Core) (h : d ≠ c) :
    Mod.core (Mod.modCore m c f) d = Mod.core m d := by
  simp [Mod.core, smod, sget_sset_ne, h]

@[simp] theorem cluster_modCluster_same (m : Mod) (l : Nat) (f : Cluster → Cluster) :
    Mod.cluster (Mod.modCluster m l f) l = f (Mod.cluster m l) := by
  simp [Mod.cluster, smod]

theorem cluster_modCluster_ne (m : Mod) {l k : Nat} (f : Cluster → Cluster) (h : k ≠ l) :
    Mod.cluster (Mod.modCluster m l f) k = Mod.cluster m k := by
  simp [Mod.cluster, smod, sget_sset_ne, h]

@[simp] theorem ctx_modCtx_same (m : Mod) (k : Nat) (f : Ctx → Ctx) :
    Mod.ctx (Mod.modCtx m k f) k = (Mod.ctx m k).map f := by
  simp [Mod.ctx, smod]

theorem ctx_modCtx_ne (m : Mod) {k j : Nat} (f : Ctx → Ctx) (h : j ≠ k) :
    Mod.ctx (Mod.modCtx m k f) j = Mod.ctx m j := by
  simp [Mod.ctx, smod, sget_sset_ne, h]

@[simp] theorem sq_setSq_same (m : Mod) (n : Nat) (q : Sq) : Mod.sq (Mod.setSq m n q) n = q := by
  simp [Mod.sq]

theorem sq_setSq_ne (m : Mod) {n k : Nat} (q : Sq) (h : k ≠ n) : Mod.sq (Mod.setSq m n q) k = Mod.sq m k := by
  simp [Mod.sq, sget_sset_ne, h]

@[simp] theorem cq_setCq_same (m : Mod) (n : Nat) (q : Cq) : Mod.cq (Mod.setCq m n q) n = q := by
  simp [Mod.cq]

theorem cq_setCq_ne (m : Mod) {n k : Nat} (q : Cq) (h : k ≠ n) : Mod.cq (Mod.setCq m n q) k = Mod.cq m k := by
  simp [Mod.cq, sget_sset_ne, h]

@[simp] theorem sq_setCq (m : Mod) (n k : Nat) (q : Cq) : Mod.sq (Mod.setCq m n q) k = Mod.sq m k := rfl

@[simp] theorem cq_setSq (m : Mod) (n k : Nat) (q : Sq) : Mod.cq (Mod.setSq m n q) k = Mod.cq m k := rfl

@[simp] theorem port_setPort_same (m : Mod) (p : Nat) (x : Port) : Mod.port (Mod.setPort m p x) p = x := by
  simp [Mod.port]

theorem port_setPort_ne (m : Mod) {p q : Nat} (x : Port) (h : q ≠ p) :
    Mod.port (Mod.setPort m p x) q = Mod.port m q := by
  simp [Mod.port, sget_sset_ne, h]

@[simp] theorem island_setIsland_same (m : Mod) (i : Nat) (x : Island) :
    Mod.island (Mod.setIsland m i x) i = x := by
  simp [Mod.island]

theorem island_setIsland_ne (m : Mod) {i j : Nat} (x : Island) (h : j ≠ i) :
    Mod.island (Mod.setIsland m i x) j = Mod.island m j := by
  simp [Mod.island, sget_sset_ne, h]

@[simp] theorem site_setSite_same (m : Mod) (i : Nat) (x : Site) : Mod.site (Mod.setSite m i x) i = x := by
  simp [Mod.site]

theorem site_setSite_ne (m : Mod) {i j : Nat} (x : Site) (h : j ≠ i) :
    Mod.site (Mod.setSite m i x) j = Mod.site m j := by
  simp [Mod.site, sget_sset_ne, h]

end Sys2Proof.Laws
end

