-- ==== Sys2Proof/Laws/Frames.lean ====
section
/-!
SUPPORT. What each shared operation can change, said once: counting an event changes the visor, posting a record the host
interface and memory, raising a fault the fault ring and memory, and every other field of the module stays.
-/
namespace Sys2Proof.Laws

open Sys2Proof Sys2Proof.Machine

/-- Counting an event in a cluster changes the values of the cluster counters alone. -/
theorem visor_counts (m : Mod) (l src inc : Nat) :
    ∃ v, Mod.visor m l src inc = { m with vis := { m.vis with clVals := v } } := by
  simp only [Mod.visor]
  split
  · exact ⟨_, rfl⟩
  · split
    · exact ⟨_, rfl⟩
    · exact ⟨_, rfl⟩

/-- Counting an event on a brim die changes the values of the brim counters alone. -/
theorem visorBrim_counts (m : Mod) (d c src inc : Nat) :
    ∃ v, Mod.visorBrim m d c src inc = { m with vis := { m.vis with brVals := v } } := by
  simp only [Mod.visorBrim]
  split
  · exact ⟨_, rfl⟩
  · exact ⟨_, rfl⟩

theorem visor_only (m : Mod) (l src inc : Nat) : ∃ v, Mod.visor m l src inc = { m with vis := v } := by
  obtain ⟨v, e⟩ := visor_counts m l src inc
  exact ⟨_, e⟩

theorem visorBrim_only (m : Mod) (d c src inc : Nat) : ∃ v, Mod.visorBrim m d c src inc = { m with vis := v } := by
  obtain ⟨v, e⟩ := visorBrim_counts m d c src inc
  exact ⟨_, e⟩

theorem edges_only (a b : Mod) : ∃ v, Mod.edges a b = { b with vis := v } := ⟨_, rfl⟩

theorem hostWrite_only (m : Mod) (a : Nat) (bs : List Byte) (p : Bool) :
    ∃ x, Mod.hostWrite m a bs p = { m with mem := x } := ⟨_, rfl⟩

theorem physWrite_only (m : Mod) (pa : Nat) (bs : List Byte) (p : Bool) :
    ∃ x, Mod.physWrite m pa bs p = { m with mem := x } := by
  unfold Mod.physWrite
  split
  · exact ⟨_, rfl⟩
  · exact ⟨_, rfl⟩

theorem sendVector_only (m : Mod) (v : Nat) : ∃ h, Mod.sendVector m v = { m with host := h } := ⟨_, rfl⟩

theorem sendRing_only (m : Mod) (n : Nat) : ∃ h, Mod.sendRing m n = { m with host := h } := ⟨_, rfl⟩

theorem postRecord_only (m : Mod) (n : Nat) (r : Bool → List Byte) :
    ∃ h x, Mod.postRecord m n r = { m with host := h, mem := x } := ⟨_, _, rfl⟩

theorem coalesce_only (m : Mod) (n : Nat) (irq : Bool) : ∃ h, Mod.coalesce m n irq = { m with host := h } := by
  simp only [Mod.coalesce]
  split
  · exact sendRing_only m n
  · exact ⟨_, rfl⟩

theorem postOneEvent_only {m m' : Mod} (h : Mod.postOneEvent m = some m') :
    ∃ x y, m' = { m with host := x, mem := y } := by
  unfold Mod.postOneEvent at h
  split at h
  · dsimp only at h
    split at h
    · cases h
      obtain ⟨x, y, e⟩ := postRecord_only (Mod.onHost m fun h => { h with events := _, eventsLost := 0 }) _ _
      rw [e]
      obtain ⟨z, e⟩ := coalesce_only _ _ _
      rw [e]
      exact ⟨_, _, rfl⟩
    · cases h
  · cases h

theorem drainEvents_only (k : Nat) (m : Mod) : ∃ x y, Mod.drainEvents m k = { m with host := x, mem := y } := by
  induction k generalizing m with
  | zero => exact ⟨_, _, rfl⟩
  | succ k ih =>
    unfold Mod.drainEvents
    split
    · next h =>
      obtain ⟨x, y, rfl⟩ := postOneEvent_only h
      obtain ⟨x', y', e⟩ := ih { m with host := x, mem := y }
      exact ⟨x', y', e⟩
    · exact ⟨_, _, rfl⟩

theorem event_only (m : Mod) (code : EventCode) (c s p : Nat) :
    ∃ x y, Mod.event m code c s p = { m with host := x, mem := y } := by
  simp only [Mod.event]
  obtain ⟨x, y, e⟩ := drainEvents_only m.host.events.length m
  rw [e]
  split
  · obtain ⟨x', y', e'⟩ := drainEvents_only 257 (Mod.onHost { m with host := x, mem := y } fun h =>
      { h with events := h.events ++ [⟨code, c, s, p⟩] })
    rw [e']
    exact ⟨_, _, rfl⟩
  · exact ⟨_, _, rfl⟩

theorem alert_only (m : Mod) (k : AlertKind) (x : Nat) : ∃ s, Mod.alert m k x = { m with sys := s } := by
  unfold Mod.alert
  split
  · exact ⟨_, rfl⟩
  · exact ⟨_, rfl⟩

theorem modFlight_only (m : Mod) (id : Nat) (f : Flight → Flight) :
    ∃ h, Mod.modFlight m id f = { m with host := h } := ⟨_, rfl⟩

theorem postFlight_only (m : Mod) (fl : Flight) (st : Status) (p d : Nat) :
    ∃ h x, Mod.postFlight m fl st p d = { m with host := h, mem := x } := by
  simp only [Mod.postFlight]
  obtain ⟨h, e⟩ := coalesce_only (Mod.setCq (Mod.postRecord (Mod.onHost m fun h =>
    { h with flights := h.flights.filter (·.id != fl.id) }) (Mod.sq m fl.ring).cqNum _) _ _) _ _
  rw [e]
  exact ⟨_, _, rfl⟩

theorem postAborts_only (l : List Flight) (m : Mod) (t : Nat) :
    ∃ h x, Mod.postAborts m t l = { m with host := h, mem := x } := by
  induction l generalizing m with
  | nil => exact ⟨_, _, rfl⟩
  | cons a as ih =>
    simp only [Mod.postAborts]
    split
    · split
      · obtain ⟨h, x, e⟩ := postFlight_only (Mod.modFlight m a.id fun y =>
          { y with waitsFor := a.waitsFor.filter (· != t) }) a (a.endStatus.getD .abortLate) 0 0
        rw [e]
        obtain ⟨h', x', e'⟩ := ih (m := { Mod.modFlight m a.id (fun y =>
          { y with waitsFor := a.waitsFor.filter (· != t) }) with host := h, mem := x })
        rw [e']
        exact ⟨_, _, rfl⟩
      · obtain ⟨h', x', e'⟩ := ih (m := Mod.modFlight m a.id fun y =>
          { y with waitsFor := a.waitsFor.filter (· != t) })
        rw [e']
        exact ⟨_, _, rfl⟩
    · exact ih m

theorem endFlight_only (m : Mod) (id : Nat) (st : Status) (p d : Nat) :
    ∃ h x, Mod.endFlight m id st p d = { m with host := h, mem := x } := by
  simp only [Mod.endFlight]
  split
  · exact ⟨_, _, rfl⟩
  · next fl _ =>
    obtain ⟨h, x, e⟩ := postFlight_only m fl st p d
    rw [e]
    obtain ⟨h', x', e'⟩ := postAborts_only h.flights { m with host := h, mem := x } id
    rw [e']
    exact ⟨_, _, rfl⟩

theorem startFlight_only (m : Mod) (id : Nat) : ∃ h, Mod.startFlight m id = { m with host := h } := ⟨_, rfl⟩

theorem writeFaultRec_only (m : Mod) (r : FaultRec) :
    ∃ f x, Mod.writeFaultRec m r = { m with flt := f, mem := x } := by
  unfold Mod.writeFaultRec
  extract_lets q slot m1
  obtain ⟨x, e⟩ := hostWrite_only m (q.base.toNat + 64 * slot) (faultBytes r q.phase) false
  have e1 : m1 = { m with mem := x } := e
  rw [e1]
  exact ⟨_, _, rfl⟩

theorem joinFault_only (m : Mod) (n : Nat) (op : Option ParkedOp) : ∃ f, Mod.joinFault m n op = { m with flt := f } :=
  ⟨_, rfl⟩

theorem collectFault_only (m : Mod) (r : FaultRec) : ∃ f x, Mod.collectFault m r = { m with flt := f, mem := x } := by
  unfold Mod.collectFault
  split
  · exact ⟨_, _, rfl⟩
  · exact ⟨_, _, rfl⟩

theorem raiseFault_only (m : Mod) (k : FaultKind) (src : FaultSource) (c va : Nat) (w : Bool) (u t p d : Nat) (cw : Bool)
    (op : Option ParkedOp) : ∃ f x, (Mod.raiseFault m k src c va w u t p d cw op).1 = { m with flt := f, mem := x } := by
  simp only [Mod.raiseFault]
  split
  · obtain ⟨f, e⟩ := joinFault_only m _ op
    exact ⟨f, _, e⟩
  · exact collectFault_only m _

theorem raiseAcc_only (m : Mod) (f : AccFault) (src : FaultSource) (c u t p : Nat) (cw : Bool) (op : Option ParkedOp) :
    ∃ x y, (Mod.raiseAcc m f src c u t p cw op).1 = { m with flt := x, mem := y } :=
  raiseFault_only m f.kind src c f.va f.write u t p (accDetail f) cw op

theorem dropOps_only (m : Mod) (p : ParkedOp → Bool) : ∃ f, Mod.dropOps m p = { m with flt := f } := ⟨_, rfl⟩

theorem drainFaults_only (k : Nat) (m : Mod) : ∃ f x, Mod.drainFaults m k = { m with flt := f, mem := x } := by
  induction k generalizing m with
  | zero => exact ⟨_, _, rfl⟩
  | succ k ih =>
    unfold Mod.drainFaults
    split
    · next r rs _ =>
      split
      · obtain ⟨f, x, e⟩ := ih (Mod.writeFaultRec { m with flt := { m.flt with buffered := rs } } r)
        rw [e]
        exact ⟨_, _, rfl⟩
      · exact ⟨_, _, rfl⟩
    · exact ⟨_, _, rfl⟩

theorem orCond_only (m : Mod) (c bits : Nat) : ∃ v x, Mod.orCond m c bits = { m with vis := v, cores := x } := by
  simp only [Mod.orCond]
  have h : ∃ x, (if bits = 0 then m else Mod.modCore m c fun y => { y with cond := y.cond ||| bits })
      = { m with cores := x } := by
    split
    · exact ⟨_, rfl⟩
    · exact ⟨_, rfl⟩
  obtain ⟨x, e⟩ := h
  rw [e]
  obtain ⟨v1, e1⟩ := visor_only { m with cores := x } (c / 16) 0x1B (b2n (bitAt bits 0 || bitAt bits 4))
  rw [e1]
  obtain ⟨v2, e2⟩ := visor_only { m with cores := x, vis := v1 } (c / 16) 0x1C (b2n (bitAt bits 1 || bitAt bits 5))
  rw [e2]
  obtain ⟨v3, e3⟩ := visor_only { m with cores := x, vis := v2 } (c / 16) 0x1D (b2n (bitAt bits 2 || bitAt bits 6))
  rw [e3]
  obtain ⟨v4, e4⟩ := visor_only { m with cores := x, vis := v3 } (c / 16) 0x04 (b2n (bitAt bits 3))
  rw [e4]
  obtain ⟨v5, e5⟩ := visor_only { m with cores := x, vis := v4 } (c / 16) 0x1E (b2n (bitAt bits 8))
  rw [e5]
  exact ⟨_, _, rfl⟩

/-! ## Packets and pushes -/

theorem sendFlit_only {m m1 : Mod} {p : Nat} (h : Mod.sendFlit m p = some m1) :
    ∃ f v, m1 = { m with fab := f, vis := v } := by
  simp only [Mod.sendFlit] at h
  split at h
  · cases h
  · split at h
    · cases h
    · cases h
      exact (visorBrim_only _ _ _ _ _).elim fun v e => ⟨_, v, e⟩

theorem pumpPort_only (k : Nat) (m : Mod) (p : Nat) : ∃ f v, Mod.pumpPort m p k = { m with fab := f, vis := v } := by
  induction k generalizing m with
  | zero => exact ⟨_, _, rfl⟩
  | succ k ih =>
    unfold Mod.pumpPort
    split
    · next m1 h =>
      obtain ⟨f, v, rfl⟩ := sendFlit_only h
      obtain ⟨f', v', e⟩ := ih { m with fab := f, vis := v }
      exact ⟨f', v', e⟩
    · exact ⟨_, _, rfl⟩

theorem queuePacket_only (m : Mod) (pkt : Packet) (half cls : Option Nat) (same : Bool) :
    ∃ f v, Mod.queuePacket m pkt half cls same = { m with fab := f, vis := v } := by
  simp only [Mod.queuePacket, Mod.pump512]
  obtain ⟨f, v, e⟩ := pumpPort_only replayRoom (Mod.modPort m (Mod.outPort m pkt half).1 fun q => { q with
    txq := insertTx (vcOf pkt.ptype, 2 * b2n ((Mod.outPort m pkt half).2.detour || (match cls with | some c => 2 ≤ c | none => false))
      + b2n ((Mod.outPort m pkt half).2.dateline || (same && (match cls with | some c => c % 2 == 1 | none => false))),
      flitsOf pkt, pkt) q.txq }) (Mod.outPort m pkt half).1
  exact ⟨f, v, e⟩

/-- Sending a packet changes the fabric, and the visor's counts of flits. -/
theorem sendPacket_only (m : Mod) (pkt : Packet) (half : Option Nat) :
    ∃ f v, Mod.sendPacket m pkt half = { m with fab := f, vis := v } := by
  unfold Mod.sendPacket
  split
  · exact ⟨_, _, rfl⟩
  · exact queuePacket_only m pkt half none false

theorem ring_only (k : Nat) (m : Mod) (c : Nat) : ∃ x, Mod.ring m c k = { m with cores := x } := by
  induction k generalizing m with
  | zero => exact ⟨_, rfl⟩
  | succ k ih =>
    unfold Mod.ring
    split
    · exact ⟨_, rfl⟩
    · next q qs _ =>
      dsimp only
      split
      · obtain ⟨x, e⟩ := ih (Mod.modCore (Mod.modCore m c fun x => x.setQueue 11 qs) (ringNext c)
          fun x => x.setQueue 10 (x.queue 10 ++ [q]))
        exact ⟨x, e⟩
      · exact ⟨_, rfl⟩

theorem pushEnd_only {m m1 : Mod} {c e : Nat} {q : QEntry} (h : Mod.pushEnd m c e q = some m1) :
    ∃ x v, m1 = { m with cores := x, vis := v } := by
  unfold Mod.pushEnd at h
  split at h
  · cases h
    obtain ⟨v, ev⟩ := visor_only (Mod.modCore m c fun x => x.setQueue e (x.queue e ++ [q])) (c / 16) 0x1A (b2n q.poison)
    rw [ev]
    split
    · obtain ⟨x, ex⟩ := ring_only 16 { Mod.modCore m c (fun x => x.setQueue e (x.queue e ++ [q])) with vis := v } c
      exact ⟨x, v, ex⟩
    · exact ⟨_, v, rfl⟩
  · cases h

/-- A push changes queues of cores, or goes out as a packet. -/
theorem push_only {m m1 : Mod} {c e : Nat} {q : QEntry} (h : Mod.push m c e q = some m1) :
    ∃ x v f, m1 = { m with cores := x, vis := v, fab := f } := by
  unfold Mod.push at h
  split at h
  · obtain ⟨x, v, rfl⟩ := pushEnd_only h
    exact ⟨x, v, _, rfl⟩
  · unfold Mod.pushChan at h
    split at h
    · cases h
    · split at h
      · dsimp only at h
        split at h
        · cases h
          obtain ⟨f, v, e⟩ := sendPacket_only (Mod.setChan m (Mod.ctxOf m c) (e - 65536)
            { Mod.chan m (Mod.ctxOf m c) (e - 65536) with used := (Mod.chan m (Mod.ctxOf m c) (e - 65536)).used + 1 }) _ none
          rw [e]
          exact ⟨_, v, f, rfl⟩
        · cases h
      · split at h
        · cases h
        · split at h
          · obtain ⟨x, v, rfl⟩ := pushEnd_only h
            exact ⟨x, v, _, rfl⟩
          · cases h

theorem macroPush_only (m : Mod) (c : Nat) (p : PvisWords) (po : Bool) :
    ∃ x v f, Mod.macroPush m c p po = { m with cores := x, vis := v, fab := f } := by
  unfold Mod.macroPush
  split
  · next e q _ _ =>
    cases h : Mod.push m c e q with
    | none => exact ⟨_, _, _, rfl⟩
    | some m1 => exact push_only h
  · exact ⟨_, _, _, rfl⟩

/-- An instruction that the core cannot issue now changes nothing. -/
theorem issue_blocked (m : Mod) (c : Nat) (p : PvisWords) (zero run : Mod → Mod) (h : Mod.canIssue m c = false) :
    Mod.issue m c p zero run = m := by
  simp [Mod.issue, h]

/-- An instruction whose operands are in range runs on the core that has fetched it. -/
theorem issue_ok (m : Mod) (c : Nat) (p : PvisWords) (zero run : Mod → Mod) (h : Mod.canIssue m c = true)
    (ho : checkOperands (operandsOf p (Mod.core m c).regs) = .ok) :
    Mod.issue m c p zero run = run (Mod.modCore m c fun x => Core.fetched x p) := by
  simp [Mod.issue, h, ho]

end Sys2Proof.Laws
end

