-- ==== Sys2Proof/Laws/Issue.lean ====
section
/-!
SUPPORT. What the issue of an instruction and the change of a core come to: a command of a module is its effect and the
visor's edges; a core's two changes are one; an instruction that may issue runs on the core that has fetched it.
-/
namespace Sys2Proof.Laws

open Sys2Proof Sys2Proof.Machine

variable {α : Type}

/-! ## Two writes of one key -/

theorem sdel_sdel (m : SMap α) (k : Nat) : sdel (sdel m k) k = sdel m k := by
  induction m with
  | nil => rfl
  | cons p m ih =>
    obtain ⟨k', v⟩ := p
    by_cases h : k' = k
    · simp [sdel, h, ih]
    · simp [sdel, h, ih]

theorem sdel_sins (m : SMap α) (k : Nat) (v : α) : sdel (sins m k v) k = sdel m k := by
  induction m with
  | nil => simp [sins, sdel]
  | cons p m ih =>
    obtain ⟨k', v'⟩ := p
    by_cases hlt : k < k'
    · simp [sins, hlt, sdel]
    · by_cases h : k' = k
      · simp [sins, sdel, h, ih]
      · simp [sins, hlt, sdel, h, ih]

theorem sdel_sset [DecidableEq α] (d : α) (m : SMap α) (k : Nat) (v : α) : sdel (sset d m k v) k = sdel m k := by
  unfold sset
  split
  · exact sdel_sdel m k
  · rw [sdel_sins, sdel_sdel]

/-- Of two writes of one key the second stands. -/
@[simp] theorem sset_sset [DecidableEq α] (d : α) (m : SMap α) (k : Nat) (v w : α) :
    sset d (sset d m k v) k w = sset d m k w := by
  have h := sdel_sset d m k v
  unfold sset at h ⊢
  split
  · exact h
  · rw [h]

/-! ## The module -/

/-- A command of the module: its effect, and the visor's count of edges. -/
theorem onMod_eq (s : State) (f : Mod → Mod) : ∃ v, s.onMod f = { s with mod := { f s.mod with vis := v } } := ⟨_, rfl⟩

theorem onReg_ready {s : State} (h : s.mod.sys.cfgReady = true) (f : Mod → Mod) : s.onReg f = s.onMod f := by
  simp [State.onReg, h]

theorem onCrown_up {s : State} (h : s.mod.sys.crown = 0) (f : Mod → Mod) : s.onCrown f = s.onMod f := by
  simp [State.onCrown, h]

/-! ## A core -/

theorem modCore_eq (m : Mod) (c : Nat) (f : Core → Core) :
    Mod.modCore m c f = { m with cores := sset {} m.cores c (f (Mod.core m c)) } := rfl

@[simp] theorem modCore_modCore (m : Mod) (c : Nat) (f g : Core → Core) :
    Mod.modCore (Mod.modCore m c f) c g = Mod.modCore m c fun x => g (f x) := by
  simp [Mod.modCore, smod]

/-! ## Issue -/

/-- An instruction whose words an accepted image can hold, that its core can issue and whose operands are in range, runs
on the core that has fetched it. -/
theorem coreCmd_ok {name : String} {op : Nat} {c : CoreId} {p : PvisWords} {s : State} (zero run : Mod → Mod)
    (h1 : pvisIs op p = true) (h2 : Mod.canIssue s.mod c = true)
    (h3 : checkOperands (operandsOf p (Mod.core s.mod c).regs) = .ok) :
    coreCmd name op c p s zero run = .next (s.onMod fun m => run (Mod.modCore m c fun x => Core.fetched x p)) := by
  simp only [coreCmd, h1, if_true, State.onMod]
  rw [issue_ok _ _ _ _ _ h2 h3]

/-! ## An engine -/

variable {u : Mod → Nat → ECmd → EStep}

/-- An engine that cannot move stays as it is. -/
theorem runEngine_stop {m : Mod} {c e : Nat} (k : Nat) (h : Mod.engineOne u m c e = none) : Mod.runEngine u m c e k = m := by
  cases k with
  | zero => rfl
  | succ k => simp [Mod.runEngine, h]

/-- One step of an engine. -/
theorem runEngine_step {m m1 : Mod} {c e : Nat} (k : Nat) (h : Mod.engineOne u m c e = some m1) :
    Mod.runEngine u m c e (k + 1) = Mod.runEngine u m1 c e k := by
  simp [Mod.runEngine, h]

end Sys2Proof.Laws
end

