-- ==== Sys2Proof/Laws/Outcomes.lean ====
section
/-!
SUPPORT. How an outcome is shown to be a module given (`Claims.Gives`): what the visor counts on the way is left open, step
by step.
-/
namespace Sys2Proof.Laws

open Sys2Proof Sys2Proof.Machine Sys2Proof.Claims

variable {α : Type}

@[simp] theorem tallied_tallied (m : Mod) (a b c d : SMap VCount) : tallied (tallied m a b) c d = tallied m c d := rfl

theorem tallied_self (m : Mod) : tallied m m.vis.clVals m.vis.brVals = m := rfl

theorem visor_tallied (m : Mod) (l src inc : Nat) : ∃ a b, Mod.visor m l src inc = tallied m a b := by
  obtain ⟨v, e⟩ := visor_counts m l src inc
  exact ⟨v, m.vis.brVals, e⟩

theorem visorBrim_tallied (m : Mod) (d c src inc : Nat) : ∃ a b, Mod.visorBrim m d c src inc = tallied m a b := by
  obtain ⟨v, e⟩ := visorBrim_counts m d c src inc
  exact ⟨m.vis.clVals, v, e⟩

/-- A command of the module gives what its effect gives. -/
theorem gives_onMod {s : State} {f : Mod → Mod} {m : Mod} (h : ∃ a b, f s.mod = tallied m a b) :
    Gives (.next (s.onMod f)) s m := by
  obtain ⟨a, b, e⟩ := h
  refine ⟨?_, ?_, ?_⟩
  · exact (s.onMod f).mod.vis.clVals
  · exact (s.onMod f).mod.vis.brVals
  · simp only [State.onMod, Mod.edges, e]
    rfl

theorem gives_same {s : State} {f : Mod → Mod} {m : Mod} (h : f s.mod = m) : Gives (.next (s.onMod f)) s m :=
  gives_onMod ⟨m.vis.clVals, m.vis.brVals, h⟩

@[simp] theorem tallied_core (m : Mod) (a b : SMap VCount) (c : Nat) : Mod.core (tallied m a b) c = Mod.core m c := rfl

theorem setCore_modCore (m : Mod) (c : Nat) (f : Core → Core) : Mod.modCore m c f = setCore m c (f (Mod.core m c)) := rfl

/-- An instruction that issues gives what its run gives on the core that has fetched it. -/
theorem gives_cmd {name : String} {op : Nat} {c : CoreId} {p : PvisWords} {s : State} {m : Mod} (zero run : Mod → Mod)
    (h : Issues s c op p) (hr : ∃ a b, run (setCore s.mod c (past s c p)) = tallied m a b) :
    Gives (coreCmd name op c p s zero run) s m := by
  rw [coreCmd_ok zero run h.words h.free h.range]
  exact gives_onMod hr

/-- An instruction whose run counts nothing. -/
theorem gives_cmd_same {name : String} {op : Nat} {c : CoreId} {p : PvisWords} {s : State} {m : Mod} (zero run : Mod → Mod)
    (h : Issues s c op p) (hr : run (setCore s.mod c (past s c p)) = m) : Gives (coreCmd name op c p s zero run) s m :=
  gives_cmd zero run h ⟨m.vis.clVals, m.vis.brVals, hr⟩

/-- The words of an accepted instruction are one and its extension words (R285). -/
theorem pvisLen_of {op : Nat} {p : PvisWords} (h : pvisIs op p = true) {n : Nat} (hn : extCount op = some n) :
    pvisLen p = 1 + n := by
  simp only [pvisIs, Bool.and_eq_true, beq_iff_eq] at h
  obtain ⟨h1, h2⟩ := h
  simp only [pvisOk, h1, hn, Bool.and_eq_true, beq_iff_eq] at h2
  simp [pvisLen, h2.1.1.1.1.1.1]

@[simp] theorem core_setCore (m : Mod) (c : Nat) (x : Core) : Mod.core (setCore m c x) c = x := by
  simp [Mod.core, setCore]

@[simp] theorem setCore_setCore (m : Mod) (c : Nat) (x y : Core) : setCore (setCore m c x) c y = setCore m c y := by
  simp [setCore]

@[simp] theorem modCore_setCore (m : Mod) (c : Nat) (x : Core) (f : Core → Core) :
    Mod.modCore (setCore m c x) c f = setCore m c (f x) := by
  rw [setCore_modCore]
  simp

theorem core_def (m : Mod) (c : Nat) : Mod.core m c = sget {} m.cores c := rfl

theorem core_setCore_ne (m : Mod) {c d : Nat} (x : Core) (h : d ≠ c) : Mod.core (setCore m c x) d = Mod.core m d := by
  simp [Mod.core, setCore, sget_sset_ne _ _ _ h]

theorem modCore_set (m : Mod) (c : Nat) (f : Core → Core) : Mod.modCore m c f = setCore m c (f (Mod.core m c)) := rfl
theorem modCluster_set (m : Mod) (l : Nat) (f : Cluster → Cluster) :
    Mod.modCluster m l f = setCluster m l (f (Mod.cluster m l)) := rfl

@[simp] theorem cluster_setCore (m : Mod) (c l : Nat) (x : Core) : Mod.cluster (setCore m c x) l = Mod.cluster m l := rfl
@[simp] theorem core_setCluster (m : Mod) (c l : Nat) (x : Cluster) : Mod.core (setCluster m l x) c = Mod.core m c := rfl
@[simp] theorem cluster_setCluster (m : Mod) (l : Nat) (x : Cluster) : Mod.cluster (setCluster m l x) l = x := by
  simp [Mod.cluster, setCluster]
@[simp] theorem setCluster_setCluster (m : Mod) (l : Nat) (x y : Cluster) :
    setCluster (setCluster m l x) l y = setCluster m l y := by
  simp [setCluster]
theorem setCluster_setCore (m : Mod) (c l : Nat) (x : Core) (y : Cluster) :
    setCluster (setCore m c x) l y = setCore (setCluster m l y) c x := rfl

theorem ctxOf_setCore (m : Mod) (c d : Nat) (x : Core) (h : x.ctx = (Mod.core m c).ctx) :
    Mod.ctxOf (setCore m c x) d = Mod.ctxOf m d := by
  by_cases e : d = c
  · subst e; simp [Mod.ctxOf, h]
  · simp [Mod.ctxOf, core_setCore_ne _ _ e]

/-- Idleness of a core's engines rests on their commands and the core's bags alone. -/
theorem maskIdle_setCore {m : Mod} {c mask : Nat} {x : Core} (h : x.engines = (Mod.core m c).engines) :
    Mod.maskIdle (setCore m c x) c mask = Mod.maskIdle m c mask := by
  simp only [Mod.maskIdle, core_setCore, Core.cmds, h]; rfl

theorem ackWaits_setCore {m : Mod} {c : Nat} {x : Core} (h : x.job = (Mod.core m c).job) :
    Mod.ackWaits (setCore m c x) c = Mod.ackWaits m c := by
  simp only [Mod.ackWaits, core_setCore, h]; rfl

theorem mem_coresOf (c : Nat) : c ∈ coresOf (c / 16) := by
  simp [coresOf]; exact ⟨c % 16, by omega, by omega⟩

/-- A macro that issues in the ordinary way does its work on the core that has fetched it. -/
theorem macroCmd_ok {name : String} {op mask : Nat} {c : CoreId} {p : PvisWords} {s : State} (run : Bool → Mod → Mod)
    (h : IssuesMacro s c op mask p) :
    macroCmd name op mask c p s run = .next (s.onMod fun _ => run false (issued s c p)) := by
  have hw : ¬ 2 ≤ PvisWords.tmode p := Nat.not_le.mpr h.plain
  have e : Mod.issueMacro s.mod c p mask run = run false (issued s c p) := by
    simp only [Mod.issueMacro, h.free, h.idle, h.room, Mod.macroToken, Mod.startCmd]
    simp only [h.plain, if_true, Bool.not_true, Bool.or_false, Bool.false_eq_true, if_false]
    rw [issue_ok _ _ _ _ _ h.free h.range]
    simp only [Mod.untake, hw, decide_false, Bool.false_and, Bool.false_eq_true, if_false]
    rfl
  simp only [macroCmd, h.words, if_true, State.onMod, e]

theorem gives_macro {name : String} {op mask : Nat} {c : CoreId} {p : PvisWords} {s : State} {m : Mod}
    (run : Bool → Mod → Mod) (h : IssuesMacro s c op mask p) (hr : ∃ a b, run false (issued s c p) = tallied m a b) :
    Gives (macroCmd name op mask c p s run) s m := by
  rw [macroCmd_ok run h]
  exact gives_onMod hr

theorem gives_macro_same {name : String} {op mask : Nat} {c : CoreId} {p : PvisWords} {s : State} {m : Mod}
    (run : Bool → Mod → Mod) (h : IssuesMacro s c op mask p) (hr : run false (issued s c p) = m) :
    Gives (macroCmd name op mask c p s run) s m :=
  gives_macro run h ⟨m.vis.clVals, m.vis.brVals, hr⟩

/-- A macro whose engines have work, or whose token has no room, does not issue. -/
theorem macroCmd_waits {name : String} {op mask : Nat} {c : CoreId} {p : PvisWords} {s : State} (run : Bool → Mod → Mod)
    (hw : pvisIs op p = true) (h : Mod.maskIdle s.mod c mask = false ∨ Mod.macroRoom s.mod c p = false) :
    Gives (macroCmd name op mask c p s run) s s.mod := by
  have e : Mod.issueMacro s.mod c p mask run = s.mod := by
    simp only [Mod.issueMacro]
    rw [if_pos]
    rcases h with h | h <;> simp [h]
  simp only [macroCmd, hw, if_true]
  exact gives_same e

@[simp] theorem core_issued (s : State) (c : CoreId) (p : PvisWords) : Mod.core (issued s c p) c = past s c p := by
  simp [issued]

@[simp] theorem ctxOf_issued (s : State) (c : CoreId) (p : PvisWords) (d : Nat) :
    Mod.ctxOf (issued s c p) d = Mod.ctxOf s.mod d := ctxOf_setCore _ _ _ _ rfl

/-- A sparse map whose values have been changed by a function that leaves the default alone. -/
theorem sget_map (d : α) (l : SMap α) (g : Nat → α → α) (q : Nat) (hg : g q d = d) :
    sget d (l.map fun r => (r.1, g r.1 r.2)) q = g q (sget d l q) := by
  induction l with
  | nil => exact hg.symm
  | cons r l ih =>
    obtain ⟨a, b⟩ := r
    by_cases h : a = q
    · subst h; simp only [List.map, sget, if_true]
    · simp only [List.map, sget, if_neg h, ih]

/-- Which waits a change of a flag satisfies. -/
theorem core_wakeCores (m : Mod) (k v : Nat) (val : Bool) (pr : Nat → Bool) (q : Nat) :
    Mod.core (Mod.wakeCores m k v val pr) q =
      if pr q && (Mod.core m q).ctx == some k then wakeWait v val (Mod.core m q) else Mod.core m q := by
  have h := sget_map {} m.cores (fun q y => if pr q && y.ctx == some k then wakeWait v val y else y) q (by simp)
  have e : (Mod.wakeCores m k v val pr).cores
      = m.cores.map fun r => (r.1, if pr r.1 && r.2.ctx == some k then wakeWait v val r.2 else r.2) := by
    apply List.map_congr_left
    intro r _
    split <;> rfl
  rw [core_def, e]
  exact h

end Sys2Proof.Laws
end

