-- ==== Sys2Proof/Laws/Control.lean ====
section
/-!
SUPPORT. Laws of the control unit: flags, Hatband lines, work counters, bank switches, engine queues and macro instructions.
-/
namespace Sys2Proof.Laws

open Sys2Proof Sys2Proof.Machine Sys2Proof.Claims

theorem reg_fetched (x : Core) (p) (i) : (x.fetched p).reg i = x.reg i := rfl

theorem past_engines (s c p) : (past s c p).engines = (Mod.core s.mod c).engines := rfl

theorem visor_isTallied (m : Mod) (l a b) : ∃ x y, Mod.visor m l a b = tallied m x y := visor_tallied m l a b

/-- Entering a bank after the core was written: the bank the core leaves loses a user and the one it enters gains one. -/
theorem enterBank_setCore (m : Mod) (c b : Nat) (z : Core) :
    let k := Mod.cluster m (c / 16)
    let k1 := k.setBank z.bank (k.bank z.bank).leave
    ∃ x y, Mod.enterBank (setCore m c z) c b = tallied (setCore (setCluster m (c/16) (k1.setBank b (k1.bank b).enter)) c
      { z with bank := b, pc := 0, role := (k.bank b).role, fetchBuf := [], wait := .none }) x y := by
  intro k k1
  unfold Mod.enterBank
  simp only [core_setCore, modCluster_set, cluster_setCore, setCluster_setCore, cluster_setCluster,
      setCluster_setCluster, modCore_setCore]
  exact visor_isTallied _ _ _ _

theorem setCore_self_core (m : Mod) (c : Nat) : ∀ f, Mod.modCore m c f = setCore m c (f (Mod.core m c)) := fun _ => rfl

/-- Entering a bank: what it leaves of the core and the cluster. -/
theorem enterBank_self (m : Mod) (c b : Nat) :
    let z := Mod.core m c
    let k := Mod.cluster m (c / 16)
    let k1 := k.setBank z.bank (k.bank z.bank).leave
    ∃ x y, Mod.enterBank m c b = tallied (setCore (setCluster m (c/16) (k1.setBank b (k1.bank b).enter)) c
      { z with bank := b, pc := 0, role := (k.bank b).role, fetchBuf := [], wait := .none }) x y := by
  intro z k k1
  unfold Mod.enterBank
  simp only [modCluster_set, cluster_setCluster, setCluster_setCluster, setCore_self_core]
  exact visor_isTallied _ _ _ _

theorem flagValue_setCore (m : Mod) (c : Nat) (x : Core) (k l v) : Mod.flagValue (setCore m c x) k l v
    = Mod.flagValue m k l v := rfl

/-- A flag changed in its home cluster: every core of the cluster that waits for it goes on. -/
def flagAtCluster (m : Mod) (k l v : Nat) (val : Bool) : Mod :=
  Mod.wakeCores (Mod.modCluster m l fun x => { x with flags := sset false x.flags (flagKey k v) val }) k v val fun q
      => q / 16 == l

theorem flagAtCluster_ctx (m k l v val j) : Mod.ctx (flagAtCluster m k l v val) j = Mod.ctx m j := rfl

theorem flagAtCluster_mem (m k l v val) : (flagAtCluster m k l v val).mem = m.mem := rfl

theorem flagAtCluster_cluster (m k l v val) : Mod.cluster (flagAtCluster m k l v val) l =
    { Mod.cluster m l with flags := sset false (Mod.cluster m l).flags (flagKey k v) val } :=
  cluster_modCluster_same m l (fun x => { x with flags := sset false x.flags (flagKey k v) val })

theorem flagAtCluster_core (m k l v val q) : Mod.core (flagAtCluster m k l v val) q = if q / 16 == l &&
    (Mod.core m q).ctx == some k then wakeWait v val (Mod.core m q) else Mod.core m q :=
  core_wakeCores _ k v val _ q

/-- A flag changed at the device: every core of the context that waits for it goes on. -/
def flagAtDevice (m : Mod) (k n v : Nat) (val : Bool) : Mod :=
  Mod.wakeFlights (Mod.wakeCores { m with dev := { m.dev with flags := sset false m.dev.flags n val } } k v val fun _
      => true) k v val

theorem flagAtDevice_core (m k n v val q) : Mod.core (flagAtDevice m k n v val) q = if true && (Mod.core m q).ctx
    == some k then wakeWait v val (Mod.core m q) else Mod.core m q :=
  core_wakeCores { m with dev := { m.dev with flags := sset false m.dev.flags n val } } k v val (fun _ => true) q

theorem flagAtDevice_ctx (m k l v val j) : Mod.ctx (flagAtDevice m k l v val) j = Mod.ctx m j := rfl

theorem flagAtDevice_mem (m k l v val) : (flagAtDevice m k l v val).mem = m.mem := rfl

theorem flagAtDevice_flags (m k n v val) : (flagAtDevice m k n v val).dev.flags = sset false m.dev.flags n val := rfl

theorem hostWrite_ctxs (m a b c) : (Mod.hostWrite m a b c).ctxs = m.ctxs := rfl

theorem sendVector_ctxs (m a) : (Mod.sendVector m a).ctxs = m.ctxs := rfl

/-- The context after a host-visible flag is written: its value and its count. -/
theorem writeHostFlag_ctx (m : Mod) (k v x val) (hx : Mod.ctx m k = some x) : Mod.ctx (Mod.writeHostFlag m k v x val) k =
    some { x with hostFlags := sset (false, 0) x.hostFlags v (val, ((sget (false, 0) x.hostFlags v).2 + 1) % 2 ^ 32) } := by
  have h := ctx_modCtx_same m k fun y =>
      { y with hostFlags := sset (false, 0) y.hostFlags v (val, ((sget (false, 0) x.hostFlags v).2 + 1) % 2 ^ 32) }
  rw [hx] at h
  have e : (Mod.writeHostFlag m k v x val).ctxs = (Mod.modCtx m k fun y =>
      { y with hostFlags := sset (false, 0) y.hostFlags v (val, ((sget (false, 0) x.hostFlags v).2 + 1) % 2 ^ 32) }).ctxs := by
    simp only [Mod.writeHostFlag]
    split
    · rw [hostWrite_ctxs]
    · split
      · rw [sendVector_ctxs, hostWrite_ctxs]
      · rw [hostWrite_ctxs]
  have d : ∀ M : Mod, Mod.ctx M k = sget none M.ctxs k := fun _ => rfl
  rw [d, e, ← d]
  exact h

theorem lineOf_setCore (m c x k v) : Mod.lineOf (setCore m c x) k v = Mod.lineOf m k v := rfl

theorem unreleased_setCore (m : Mod) (c x v n) (h : x.phaseOf = (Mod.core m c).phaseOf) : Mod.unreleased
    (setCore m c x) c v n = Mod.unreleased m c v n := by
  simp only [Mod.unreleased, core_setCore, h]; rfl

theorem arrive_dev (m c v n) : (Mod.arrive m c v n).dev = m.dev ∧ (Mod.arrive m c v n).mem = m.mem := by
  simp only [Mod.arrive]
  split
  · obtain ⟨a, b, e⟩ := visor_tallied (Mod.modCluster (Mod.modCore m c fun x =>
      { x with phaseOf := sset 0 x.phaseOf v (1 + b2n (!sget false (Mod.cluster m (c/16)).taps n)), wait := .none })
      (c/16) fun x =>
      { x with taps := sset false x.taps n (!sget false (Mod.cluster m (c/16)).taps n), arrivals := sset 0 x.arrivals n 0 }) (c/16) 0x13 1
    rw [e]; exact ⟨rfl, rfl⟩
  · exact ⟨rfl, rfl⟩

theorem resumeLine_dev (n m c) : (Mod.resumeLine n m c).dev = m.dev ∧ (Mod.resumeLine n m c).mem = m.mem := by
  simp only [Mod.resumeLine]
  split
  · split <;> exact ⟨rfl, rfl⟩
  · split
    · exact arrive_dev ..
    · exact ⟨rfl, rfl⟩
  · exact ⟨rfl, rfl⟩

theorem resumeLines_dev (n : Nat) (l : List Nat) (m) : (l.foldl (Mod.resumeLine n) m).dev = m.dev ∧ (l.foldl
    (Mod.resumeLine n) m).mem = m.mem := by
  induction l generalizing m with
  | nil => exact ⟨rfl, rfl⟩
  | cons a l ih =>
    have h := resumeLine_dev n m a
    have h2 := ih (Mod.resumeLine n m a)
    exact ⟨h2.1.trans h.1, h2.2.trans h.2⟩

theorem ctrPlace_setCore (s : State) (c : CoreId) (p) : Mod.ctrPlace (setCore s.mod c (past s c p)) c p
    = Mod.ctrPlace s.mod c p := by
  simp only [Mod.ctrPlace, ctxOf_setCore s.mod c c (past s c p) rfl]; rfl

theorem counter_setCore (m c x w) : Mod.counter (setCore m c x) w = Mod.counter m w := by cases w <;> rfl

theorem setCounter_setCore (m c x w y) : Mod.setCounter (setCore m c x) w y = setCore (Mod.setCounter m w y) c x :=
    by cases w <;> rfl

theorem enqueue_gives (m : Mod) (c e op p) (x : Core) : ∃ a b, Mod.enqueue (setCore m c x) c e op p =
    tallied (setCore m c (queued x e (commandOf x op p))) a b := by
  simp only [Mod.enqueue, core_setCore, modCore_setCore]
  obtain ⟨a, b, h⟩ := visor_tallied (setCore m c (queued x e (commandOf x op p))) (c/16) 0x11 (b2n (2 ≤ PvisWords.tmode p
    && (match Core.tokenHead x (commandOf x op p) (nth 15 (inEnds p) (PvisWords.tend p)) with | some _ => false | none => true)))
  exact ⟨a, b, h⟩

/-- An engine command that issues is queued on its engine, which then runs (R19). -/
theorem engineCmd_issued (s : State) (name) (op e) (c : CoreId) (p) (h : Issues s c op p) : ∃ cl br,
    engineCmd name op e c p s = .next (s.onMod fun m =>
    Mod.pump (tallied (setCore m c (queued (past s c p) e (commandOf (past s c p) op p))) cl br) c e) := by
  obtain ⟨a, b, hh⟩ := enqueue_gives s.mod c e op p (past s c p)
  refine ⟨a, b, ?_⟩
  rw [engineCmd, coreCmd_ok _ _ h.words h.free h.range]
  simp only [State.onMod, Mod.runOn]
  have : (Mod.modCore s.mod c fun x => x.fetched p) = setCore s.mod c (past s c p) := rfl
  rw [this, hh]

/-- One move of an engine by its oldest command, with the engine free to move. -/
theorem engineOne_front {m : Mod} {c e : Nat} {x : ECmd} (h : front m c e x) (u) (hp : sget 0 (Mod.core m c).parked e
    = 0) (hh : Mod.held m c = false) :
    Mod.engineOne u m c e = match x.out with
      | (q, ent) :: rest => (Mod.push m c q ent).map fun m1 => Mod.setFront m1 c e { x with out := rest }
      | [] =>
        if x.finished then
          if x.op = 0x61 && PvisWords.f x.p 20 19 != 0 && Mod.ackWaits m c then none else some (Mod.complete m c e x)
        else if (Mod.core m c).claimed e x then none
        else
          let r := if x.started then (if x.op = 0 then .more m (ECmd.finish { x with cond := 0x100 }) else u m c x)
            else Mod.startCmd m c x
          match r with
          | .blocked => none
          | .more m1 x1 => some (Mod.setFront m1 c e x1)
          | .dead m1 => some m1
          | .waits m1 => some m1 := by
  obtain ⟨rest, h⟩ := h
  simp only [Mod.engineOne, h]
  exact if_neg (by simp [hp, hh])

theorem setFront_set (m c e x) : Mod.setFront m c e x = setCore m c ((Mod.core m c).setCmds e (x ::
    ((Mod.core m c).cmds e).tail)) := rfl

theorem orCond_mem (m : Mod) (c b) : (Mod.orCond m c b).mem = m.mem := by
  obtain ⟨v, x, e⟩ := orCond_only m c b
  rw [e]

theorem macroPush_mem (m : Mod) (c : Nat) (p) (b) : (Mod.macroPush m c p b).mem = m.mem := by
  obtain ⟨x, v, f, e⟩ := macroPush_only m c p b
  rw [e]

theorem putReg_free (m : Mod) (c i : Nat) (w : Word) (n : Nat) : Mod.putReg { m with free := n } c i w =
    { setCore m c ((Mod.core m c).setReg i w) with free := n } := rfl

theorem putReg_putReg_free (m : Mod) (c i j : Nat) (w u : Word) (n : Nat) : Mod.putReg (Mod.putReg
    { m with free := n } c i w) c j u =
    { setCore m c (((Mod.core m c).setReg i w).setReg j u) with free := n } := by
  have : Mod.putReg (Mod.putReg { m with free := n } c i w) c j u =
      { Mod.putReg (Mod.putReg m c i w) c j u with free := n } := rfl
  rw [this]
  simp only [Mod.putReg, modCore_modCore]
  rfl

end Sys2Proof.Laws
end

