-- ==== Sys2Proof/Laws/HostRing.lean ====
section
/-!
SUPPORT. Laws of the rings: doorbells, completion records, descriptors in flight, invalidation; and of folds over sparse maps.
-/
namespace Sys2Proof.Laws

open Sys2Proof Sys2Proof.Machine Sys2Proof.Claims

@[simp] theorem sq_setSq (m : Mod) (n : Nat) (q : Sq) : Mod.sq (Mod.setSq m n q) n = q := by
  simp [Mod.sq, Mod.setSq, Mod.onHost]

@[simp] theorem cq_setCq (m : Mod) (n : Nat) (q : Cq) : Mod.cq (Mod.setCq m n q) n = q := by
  simp [Mod.cq, Mod.setCq, Mod.onHost]

@[simp] theorem setSq_setSq (m : Mod) (n : Nat) (q r : Sq) : Mod.setSq (Mod.setSq m n q) n r = Mod.setSq m n r := by
  simp [Mod.setSq, Mod.onHost]

theorem hostStores_only (l : List Host.Cell) (m : Mod) : ∃ x, Mod.hostStores m l = { m with mem := x } := by
  induction l generalizing m with
  | nil => exact ⟨_, rfl⟩
  | cons c l ih =>
    obtain ⟨a, b⟩ := c
    simp only [Mod.hostStores]
    obtain ⟨y, hy⟩ := hostWrite_only m a [b] false
    obtain ⟨x, hx⟩ := ih (Mod.hostWrite m a [b] false)
    exact ⟨x, by rw [hx, hy]⟩

theorem sq_hostStores (l : List Host.Cell) (m : Mod) (n : Nat) : Mod.sq (Mod.hostStores m l) n = Mod.sq m n := by
  obtain ⟨x, e⟩ := hostStores_only l m
  rw [e]; rfl

theorem onReg_gives {s : State} (hr : s.mod.sys.cfgReady = true) {f : Mod → Mod} {m : Mod} (h : f s.mod = m) :
   Gives (.next (s.onReg f)) s m := by
  rw [onReg_ready hr]; exact gives_same h

/-- A doorbell record that is in range and differs from the tail makes the ring active (R354). -/
theorem takeRecord_new {m : Mod} {n : Nat} {record : DWord} {x : Sq} (hx : Mod.sq m n = x)
   (h1 : ahead32 (BitVec.ofNat 32 (fld record.toNat 31 0)).toNat x.fetched.toNat ≤ x.size)
   (h2 : BitVec.ofNat 32 (fld record.toNat 31 0) ≠ x.tail) :
   Mod.takeRecord m n record = Mod.setSq m n
       { x with tail := BitVec.ofNat 32 (fld record.toNat 31 0), active := true } := by
  subst hx
  simp only [Mod.takeRecord]
  rw [if_neg (Nat.not_lt.mpr h1), if_neg h2]

/-- A doorbell record equal to the tail changes nothing. -/
theorem takeRecord_old {m : Mod} {n : Nat} {record : DWord} {x : Sq} (hx : Mod.sq m n = x)
   (h1 : ahead32 (BitVec.ofNat 32 (fld record.toNat 31 0)).toNat x.fetched.toNat ≤ x.size)
   (h2 : BitVec.ofNat 32 (fld record.toNat 31 0) = x.tail) :
   Mod.takeRecord m n record = m := by
  subst hx
  simp only [Mod.takeRecord]
  rw [if_neg (Nat.not_lt.mpr h1), if_pos h2]

theorem size_kick (q : Sq) (k) : ({ q with kick := k } : Sq).size = q.size := by simp only [Sq.size]

theorem kick_new {m : Mod} {n : Nat} {record : DWord} {x : Sq} (kk : Option (Word × Nat))
   (h1 : ahead32 (BitVec.ofNat 32 (fld record.toNat 31 0)).toNat x.fetched.toNat ≤ x.size)
   (h2 : BitVec.ofNat 32 (fld record.toNat 31 0) ≠ x.tail) :
   Mod.takeRecord (Mod.setSq m n { x with kick := kk }) n record = Mod.setSq m n
       { x with kick := kk, tail := BitVec.ofNat 32 (fld record.toNat 31 0), active := true } := by
  rw [← size_kick x kk] at h1
  rw [takeRecord_new (x := { x with kick := kk }) (sq_setSq _ _ _) h1 h2, setSq_setSq]

theorem kick_old {m : Mod} {n : Nat} {record : DWord} {x : Sq} (kk : Option (Word × Nat))
   (h1 : ahead32 (BitVec.ofNat 32 (fld record.toNat 31 0)).toNat x.fetched.toNat ≤ x.size)
   (h2 : BitVec.ofNat 32 (fld record.toNat 31 0) = x.tail) :
   Mod.takeRecord (Mod.setSq m n { x with kick := kk }) n record = Mod.setSq m n { x with kick := kk } := by
  rw [← size_kick x kk] at h1
  rw [takeRecord_old (x := { x with kick := kk }) (sq_setSq _ _ _) h1 h2]

theorem leBytes_length (n v : Nat) : (leBytes n v).length = n := by
  induction n generalizing v with
  | zero => rfl
  | succ n ih => simp [leBytes, ih]

/-- Bytes written little-endian read back, cut to their width. -/
theorem leNat_leBytes (n v : Nat) : leNat (leBytes n v) = v % 256 ^ n := by
  induction n generalizing v with
  | zero => simp [leBytes, leNat, Nat.mod_one]
  | succ n ih =>
    have h : leNat (leBytes (n + 1) v) = v % 256 + 256 * (v / 256 % 256 ^ n) := by
      simp only [leBytes, leNat, ih]
      congr 1
    rw [h, Nat.pow_succ, Nat.mul_comm (256 ^ n), Nat.mod_mul]

/-- The field at the front of a blob. -/
theorem at_here (n v : Nat) (xs : List Byte) : at_ (leBytes n v ++ xs) 0 n = v % 256 ^ n := by
  simp only [at_, List.drop_zero]
  rw [List.take_left' (leBytes_length n v), leNat_leBytes]

/-- A field behind one that is skipped. -/
theorem at_skip (k v : Nat) (xs : List Byte) (off n : Nat) (h : k ≤ off) : at_ (leBytes k v ++ xs) off n = at_ xs
    (off - k) n := by
  simp only [at_]
  have : (leBytes k v ++ xs).drop off = xs.drop (off - k) := by
    rw [List.drop_append, List.drop_of_length_le (by rw [leBytes_length]; exact h), leBytes_length]; rfl
  rw [this]

/-- The last field of a blob. -/
theorem at_last (n v : Nat) : at_ (leBytes n v) 0 n = v % 256 ^ n := by
  have := at_here n v []
  rwa [List.append_nil] at this

theorem sendVector_cq (m : Mod) (v n : Nat) : Mod.cq (Mod.sendVector m v) n = Mod.cq m n := by
  simp only [Mod.sendVector, Mod.onHost, Mod.cq]
  split <;> rfl

theorem sendVector_flights (m : Mod) (v : Nat) : (Mod.sendVector m v).host.flights = m.host.flights := by
  simp only [Mod.sendVector, Mod.onHost]
  split <;> rfl

theorem coalesce_facts (m : Mod) (n : Nat) (irq : Bool) : (Mod.coalesce m n irq).mem = m.mem ∧
   (Mod.coalesce m n irq).host.flights = m.host.flights ∧ (Mod.cq (Mod.coalesce m n irq) n).posted = (Mod.cq m n).posted ∧
   (Mod.cq (Mod.coalesce m n irq) n).reserved = (Mod.cq m n).reserved := by
  simp only [Mod.coalesce]
  split
  · simp only [Mod.sendRing]
    rw [sendVector_cq, sendVector_flights, cq_setCq_same]
    exact ⟨rfl, rfl, rfl, rfl⟩
  · exact ⟨rfl, rfl, rfl, rfl⟩

theorem postAborts_none (l : List Flight) (m : Mod) (t : Nat) (h : ∀ f ∈ l, f.waitsFor.contains t = false)
    : Mod.postAborts m t l = m := by
  induction l generalizing m with
  | nil => rfl
  | cons a as ih =>
    simp only [Mod.postAborts]
    rw [if_neg (by rw [h a (by simp)]; simp)]
    exact ih m fun f hf => h f (by simp [hf])

/-- What posting a completion record writes and counts (R370). -/
theorem postRecord_facts (m : Mod) (n : Nat) (r : Bool → List Byte) :
   (Mod.postRecord m n r).mem = (Mod.hostWrite m ((Mod.cq m n).base.toNat + 32 * ((Mod.cq m n).posted.toNat %
       (Mod.cq m n).size)) (r (Mod.cq m n).phase) false).mem
   ∧ (Mod.postRecord m n r).host.flights = m.host.flights ∧ (Mod.cq (Mod.postRecord m n r) n).posted =
       (Mod.cq m n).posted + 1
   ∧ (Mod.cq (Mod.postRecord m n r) n).reserved = (Mod.cq m n).reserved := by
  simp only [Mod.postRecord]
  rw [cq_setCq_same]
  exact ⟨rfl, rfl, rfl, rfl⟩

theorem onCrown_gives {s : State} (hr : s.mod.sys.crown = 0) {f : Mod → Mod} {m : Mod} (h : f s.mod = m) :
   Gives (.next (s.onCrown f)) s m := by
  rw [onCrown_up hr]; exact gives_same h

/-- No entry that an invalidation names is left. -/
theorem invalidate_dropped (p : TlbEntry → Bool) (l : SMap (List TlbEntry)) (n : Nat) (e : TlbEntry)
   (h : e ∈ sget [] ((l.map fun (q : Nat × List TlbEntry) => (q.1, q.2.filter fun e => !p e)).filter fun (q
       : Nat × List TlbEntry) => !q.2.isEmpty) n) : p e = false := by
  induction l with
  | nil => simp [sget] at h
  | cons a l ih =>
    obtain ⟨k, es⟩ := a
    rw [List.map_cons, List.filter_cons] at h
    split at h
    · by_cases hk : k = n
      · simp only [sget, hk, if_true] at h
        simpa using (List.mem_filter.mp h).2
      · simp only [sget, hk, if_false] at h
        exact ih h
    · exact ih h

/-- An entry that an invalidation does not name stays. -/
theorem invalidate_kept (p : TlbEntry → Bool) (l : SMap (List TlbEntry)) (n : Nat) (e : TlbEntry)
   (h : e ∈ sget [] l n) (hp : p e = false) : e ∈ sget [] ((l.map fun (q : Nat × List TlbEntry) => (q.1, q.2.filter
       fun e => !p e)).filter fun (q : Nat × List TlbEntry) => !q.2.isEmpty) n := by
  induction l with
  | nil => simp [sget] at h
  | cons a l ih =>
    obtain ⟨k, es⟩ := a
    rw [List.map_cons, List.filter_cons]
    by_cases hk : k = n
    · simp only [sget, hk, if_true] at h
      have hm : e ∈ es.filter fun e => !p e := List.mem_filter.mpr ⟨h, by simp [hp]⟩
      rw [if_pos (by simp only [Bool.not_eq_true', List.isEmpty_eq_false_iff]; exact List.ne_nil_of_mem hm)]
      simp only [sget, hk, if_true]
      exact hm
    · simp only [sget, hk, if_false] at h
      split
      · simp only [sget, hk, if_false]; exact ih h
      · exact ih h

theorem flatMap_length {α : Type} (l : List α) (f : α → List Byte) (k : Nat) (h : ∀ a ∈ l, (f a).length = k) :
    (l.flatMap f).length = k * l.length := by
  induction l with
  | nil => rfl
  | cons a l ih =>
    rw [List.flatMap_cons, List.length_append, h a (by simp), ih (fun b hb => h b (by simp [hb])), List.length_cons,
        Nat.mul_succ]; omega

theorem ready_flight {m : Mod} {id kind : Nat} {fl : Flight} (h : Mod.ready m id kind = some fl) : Mod.flight m id
    = some fl := by
  simp only [Mod.ready] at h
  split at h
  · next f hf =>
    split at h
    · simp only [Option.some.injEq] at h; rw [← h]; exact hf
    · cases h
  · cases h

theorem fold_smod_other {α : Type} [DecidableEq α] (d : α) (f : StreamRef → α → α) (l : List StreamRef) (t : SMap α) (n
    : Nat) (h : n ∉ l.map (·.stream)) :
   sget d (l.foldl (fun t r => smod d t r.stream (f r)) t) n = sget d t n := by
  induction l generalizing t with
  | nil => rfl
  | cons a l ih =>
    simp only [List.map_cons, List.mem_cons, not_or] at h
    rw [List.foldl_cons, ih _ h.2, smod, sget_sset_ne _ _ _ h.1]

theorem fold_smod_in {α : Type} [DecidableEq α] (d : α) (f : StreamRef → α → α) (l : List StreamRef) (t : SMap α) (r
    : StreamRef) (hr : r ∈ l) (h : (l.map (·.stream)).Nodup) :
   sget d (l.foldl (fun t r => smod d t r.stream (f r)) t) r.stream = f r (sget d t r.stream) := by
  induction l generalizing t with
  | nil => cases hr
  | cons a l ih =>
    rw [List.map_cons, List.nodup_cons] at h
    rw [List.foldl_cons]
    rcases List.mem_cons.mp hr with rfl | hr
    · rw [fold_smod_other _ _ _ _ _ h.1, smod, sget_sset_same]
    · rw [ih _ hr h.2, smod, sget_sset_ne]
      intro e; exact h.1 (by rw [← e]; exact List.mem_map_of_mem hr)

theorem sget_append_lo {α : Type} (d : α) (a b : SMap α) (i : Nat) (h : ∀ p ∈ b, p.1 ≠ i) : sget d (a ++ b) i
    = sget d a i := by
  induction a with
  | nil =>
    rw [List.nil_append]
    induction b with
    | nil => rfl
    | cons q b ih =>
      obtain ⟨x, y⟩ := q
      have hx : x ≠ i := h (x, y) (by simp)
      have := ih fun p hp => h p (by simp [hp])
      simp only [sget, hx, if_false]; exact this
  | cons q a ih =>
    obtain ⟨x, y⟩ := q
    simp only [List.cons_append, sget, ih]

theorem sget_append_hi {α : Type} (d : α) (a b : SMap α) (i : Nat) (h : ∀ p ∈ a, p.1 ≠ i) : sget d (a ++ b) i
    = sget d b i := by
  induction a with
  | nil => rfl
  | cons q a ih =>
    obtain ⟨x, y⟩ := q
    have hx : x ≠ i := h (x, y) (by simp)
    simp only [List.cons_append, sget, hx, if_false]
    exact ih fun p hp => h p (by simp [hp])

theorem sget_filter {α : Type} (d : α) (l : SMap α) (p : Nat → Bool) (i : Nat) (h : p i = true) : sget d (l.filter fun q
    => p q.1) i = sget d l i := by
  induction l with
  | nil => rfl
  | cons q l ih =>
    obtain ⟨x, y⟩ := q
    rw [List.filter_cons]
    by_cases hx : x = i
    · subst hx; simp [h, sget]
    · split
      · simp only [sget, hx, if_false, ih]
      · simp only [sget, hx, if_false, ih]

end Sys2Proof.Laws
end

