-- ==== Sys2Proof/Laws/Fabric.lean ====
section
/-!
SUPPORT. Laws of the tables and of the fabric: bags, updates, ports and messages.
-/
namespace Sys2Proof.Laws

open Sys2Proof Sys2Proof.Machine Sys2Proof.Claims

/-- The rows of a bag are distinct, each with how often the list names it. -/
theorem bagRows_facts : ∀ rows : List Nat, ((bagRows rows).map (·.1)).Nodup ∧ (∀ r n, (r, n) ∈ bagRows rows → n
    = rows.count r ∧ 0 < n)
      ∧ (∀ r ∈ rows, (r, rows.count r) ∈ bagRows rows) := by
  intro rows
  induction rows with
  | nil => exact ⟨List.nodup_nil, by simp [bagRows], by simp⟩
  | cons a rows ih =>
    obtain ⟨i1, i2, i3⟩ := ih
    have hn : (match (bagRows rows).find? (·.1 == a) with | some x => x.2 | none => 0) = rows.count a := by
      split
      · next x hx =>
        have h1 := List.find?_some hx
        have h2 := List.mem_of_find?_eq_some hx
        obtain ⟨x1, x2⟩ := x
        simp at h1; subst h1
        exact (i2 _ _ h2).1
      · next hx =>
        rw [List.find?_eq_none] at hx
        symm; rw [List.count_eq_zero]
        intro h; have := hx _ (i3 a h); simp at this
    have e : bagRows (a :: rows) = (a, rows.count a + 1) :: (bagRows rows).filter (·.1 != a) := by
      rw [← hn]; rfl
    rw [e]
    refine ⟨?_, ?_, ?_⟩
    · rw [List.map_cons, List.nodup_cons]
      refine ⟨?_, ?_⟩
      · intro h; obtain ⟨x, hx, he⟩ := List.mem_map.mp h
        have := (List.mem_filter.mp hx).2; simp [he] at this
      · exact i1.sublist (List.filter_sublist.map _)
    · intro r n h
      rcases List.mem_cons.mp h with h | h
      · obtain ⟨rfl, rfl⟩ := Prod.mk.inj h; simp
      · obtain ⟨h1, h2⟩ := List.mem_filter.mp h
        simp at h2
        obtain ⟨h3, h4⟩ := i2 _ _ h1
        refine ⟨?_, h4⟩
        rw [List.count_cons_of_ne (Ne.symm h2)]; exact h3
    · intro r h
      by_cases hr : r = a
      · subst hr; simp
      · rcases List.mem_cons.mp h with h | h
        · exact absurd h hr
        · rw [List.count_cons_of_ne (Ne.symm hr)]
          exact List.mem_cons_of_mem _ (List.mem_filter.mpr ⟨i3 r h, by simpa using hr⟩)

theorem touchWay_updates (m : Mod) (k : Nat) (lc : Bool) : (Mod.touchWay m k lc).tab.updates = m.tab.updates := by
  simp only [Mod.touchWay]
  have h : ∀ (l : List Nat) (x : Mod) (g : Mod → Nat → Mod), (∀ y j, (g y j).tab.updates = y.tab.updates) →
      (l.foldl g x).tab.updates = x.tab.updates := by
    intro l
    induction l with
    | nil => intro x g hg; rfl
    | cons a l ih => intro x g hg; rw [List.foldl_cons, ih _ _ hg, hg]
  simp only [Mod.setWay]
  apply h
  intro y j
  split <;> rfl

theorem sendRow_tab (m : Mod) (dest : Xyz) (lc : Bool) (a : Nat) (d : List Byte) (c j v : Nat) :
    (Mod.sendRow m dest lc a d c j v).tab = m.tab := by
  simp only [Mod.sendRow, Mod.sendRequest]
  obtain ⟨f, g, h⟩ := sendPacket_only
      { m with fab := { m.fab with nextTag := m.fab.nextTag + 1, reqs := m.fab.reqs ++ [{ tag := m.fab.nextTag, job := j, dest := dest, ptype := 0x06, ctx := 0xFF, va := v }] } } { ptype := 0x06, dest := dest, src := Mod.here m, lc := lc, address := a, data := d, tag := m.fab.nextTag } none
  rw [h]

theorem mergeInto_updates (m m1 : Mod) (t page k v : Nat) (bs : List Byte) (h : Mod.vaWrite m (brimTlbOf
    (Mod.wayVa m v)) 0xFF (Mod.wayVa m v)
        (mergedPage (Mod.tableD m t) bs (Mod.dirtyRows m t page)) false = (m1, none)) :
    (Mod.mergeInto m t page k v bs).tab.updates = m1.tab.updates.filter fun u =>
        !(u.table == t && slotPage (Mod.tableD m t) u.row == page) := by
  simp only [Mod.mergeInto, h, Mod.onHost]
  have e1 : ∀ x : Mod, ∀ f, (Mod.modBound x t f).tab.updates = x.tab.updates := fun _ _ => rfl
  have e2 : ∀ (x : Mod) k w, (Mod.setWay x k w).tab.updates = x.tab.updates := fun _ _ _ => rfl
  have e3 : ∀ (x : Mod) p n, (Mod.nvme x p n).tab.updates = x.tab.updates := fun _ _ _ => rfl
  have e4 : ∀ (x : Mod) d c src i, (Mod.visorBrim x d c src i).tab.updates = x.tab.updates := by
    intro x d c src i; obtain ⟨a, b, h⟩ := visorBrim_tallied x d c src i; rw [h]; rfl
  have e5 : ∀ (x : Mod) d lc a dd c j v, (Mod.sendRow x d lc a dd c j v).tab.updates = x.tab.updates := by
    intro x d lc a dd c j v; rw [sendRow_tab]
  repeat' split
  all_goals simp only [e1, e2, e3, e4, e5, touchWay_updates]

theorem toState_tallied (m : Mod) (p st : Nat) : ∃ a b, Mod.toState m p st = tallied (Mod.modPort m p fun q =>
    { q with state := st }) a b :=
  visorBrim_tallied _ _ _ _ _

theorem modPort_modPort (m : Mod) (p : Nat) (f g : Port → Port) : Mod.modPort (Mod.modPort m p f) p g
    = Mod.modPort m p fun x => g (f x) := by
  simp [Mod.modPort, Mod.setPort, Mod.port]

theorem modPort_congr (m : Mod) (p : Nat) (f g : Port → Port) (h : f (Mod.port m p) = g (Mod.port m p))
    : Mod.modPort m p f = Mod.modPort m p g := by
  simp only [Mod.modPort, h]

/-- A command that moves a port to a state gives the module with that port changed. -/
theorem gives_toState {s : State} {f : Mod → Mod} {m m1 : Mod} {p st : Nat} (h : f s.mod = Mod.toState m1 p st) (e :
    (Mod.modPort m1 p fun q => { q with state := st }) = m) :
    Gives (.next (s.onMod f)) s m := by
  apply gives_onMod
  obtain ⟨a, b, h1⟩ := toState_tallied m1 p st
  exact ⟨a, b, by rw [h, h1, e]⟩

theorem port_modPort_same (m : Mod) (p : Nat) (f : Port → Port) : Mod.port (Mod.modPort m p f) p = f (Mod.port m p) := by
  simp [Mod.modPort, Mod.setPort, Mod.port]

theorem port_modPort_ne (m : Mod) (p q : Nat) (f : Port → Port) (h : q ≠ p) : Mod.port (Mod.modPort m p f) q
    = Mod.port m q := by
  simp [Mod.modPort, Mod.setPort, Mod.port, sget_sset_ne _ _ _ h]

theorem toState_port (m : Mod) (p st q : Nat) : Mod.port (Mod.toState m p st) q = Mod.port (Mod.modPort m p fun q =>
    { q with state := st }) q := by
  obtain ⟨a, b, h⟩ := toState_tallied m p st
  rw [h]; rfl

theorem disable_fold (ps : List Nat) (f : Mod → Nat → Mod) (hf : ∀ x p q, (Mod.port (f x p) q).state = if q = p
    then 0 else (Mod.port x q).state)
   (m : Mod) (q : Nat) : (Mod.port (ps.foldl f m) q).state = if q ∈ ps then 0 else (Mod.port m q).state := by
  induction ps generalizing m with
  | nil => simp
  | cons a ps ih =>
    rw [List.foldl_cons, ih, hf]
    by_cases h : q = a
    · simp [h]
    · simp [h]

theorem sget_mem {α : Type} (d : α) (l : SMap α) (k : Nat) : sget d l k = d ∨ (k, sget d l k) ∈ l := by
  induction l with
  | nil => exact .inl rfl
  | cons q l ih =>
    obtain ⟨x, y⟩ := q
    by_cases h : x = k
    · subst h; simp [sget]
    · simp only [sget, if_neg h]
      rcases ih with h | h
      · exact .inl h
      · exact .inr (List.mem_cons_of_mem _ h)

theorem foldl_mem (ps : List Nat) (f : Mod → Nat → Mod) (hf : ∀ x p, (f x p).mem = x.mem) (m : Mod) : (ps.foldl f m).mem
    = m.mem := by
  induction ps generalizing m with
  | nil => rfl
  | cons a ps ih => rw [List.foldl_cons, ih, hf]

theorem header_replay (m : Mod) (p : Nat) (h : FlitHdr) : (Mod.port (Mod.header m p h) p).replay =
    (Mod.port m p).replay.filter fun e => !seqLe e.1 h.ack := by
  simp only [Mod.header]
  split
  · simp only [Mod.addCredits, port_modPort_same]
  · simp only [port_modPort_same]

theorem takeIn_ctx (m : Mod) (k : Packet) (c : Nat) : Mod.ctx (Mod.takeIn m k) c = Mod.ctx m c := rfl

theorem takeMsg_slow (m : Mod) (p : Packet → Bool) : (Mod.takeMsg m p).fab.slow = m.fab.slow ∧
    (Mod.takeMsg m p).fab.lost = m.fab.lost ∧ (Mod.takeMsg m p).fab.ready = m.fab.ready := by
  simp only [Mod.takeMsg]; split <;> exact ⟨rfl, rfl, rfl⟩

theorem any_isSome_false {α : Type} (l : List (Nat × Option α)) (h : ∀ p ∈ l, p.2 = none) : (l.any fun p => p.2.isSome)
    = false := by
  rw [List.any_eq_false]; intro p hp; rw [h p hp]; simp

end Sys2Proof.Laws
end

