-- ==== Sys2Proof/Laws/Memory.lean ====
section
/-!
SUPPORT. The laws of the memories: a read after a write, what a write leaves alone, and that every operation that writes
keeps the canonical form of Memory.wf, which State.reset's memory has.
-/
namespace Sys2Proof.Laws

open Sys2Proof Sys2Proof.Machine

/-- A byte outside what is written stays. -/
theorem sget_wrBytes_out (m : SMap Byte) (a k : Nat) (bs : List Byte) (h : k < a ∨ a + bs.length ≤ k) :
    sget 0 (wrBytes m a bs) k = sget 0 m k := by
  induction bs generalizing m a with
  | nil => rfl
  | cons b bs ih =>
    simp only [List.length_cons] at h
    unfold wrBytes
    rw [ih _ _ (by omega), sget_sset_ne _ _ _ (by omega)]

/-- A read gives as many bytes as it asks for. -/
@[simp] theorem rdBytes_length (m : SMap Byte) (a n : Nat) : (rdBytes m a n).length = n := by
  induction n generalizing a with
  | zero => rfl
  | succ n ih => unfold rdBytes; simp [ih]

/-- Memories that agree on a range read the same there. -/
theorem rdBytes_congr (x y : SMap Byte) (a n : Nat) (h : ∀ k, a ≤ k → k < a + n → sget 0 x k = sget 0 y k) :
    rdBytes x a n = rdBytes y a n := by
  induction n generalizing a with
  | zero => rfl
  | succ n ih =>
    unfold rdBytes
    rw [h a (by omega) (by omega), ih (a + 1) (fun k h1 h2 => h k (by omega) (by omega))]

/-- What is written reads back. -/
theorem rdBytes_wrBytes (m : SMap Byte) (a : Nat) (bs : List Byte) : rdBytes (wrBytes m a bs) a bs.length = bs := by
  induction bs generalizing m a with
  | nil => rfl
  | cons b bs ih =>
    unfold wrBytes; simp only [List.length_cons]; unfold rdBytes
    rw [ih, sget_wrBytes_out _ _ _ _ (by omega), sget_sset_same]

/-- Writing bytes keeps the canonical form. -/
theorem swf_wrBytes (m : SMap Byte) (a : Nat) (bs : List Byte) (h : swf 0 m = true) : swf 0 (wrBytes m a bs) = true := by
  induction bs generalizing m a with
  | nil => exact h
  | cons b bs ih => exact ih _ _ (swf_sset 0 a b h)

/-- Setting a run of keys keeps the canonical form. -/
theorem swf_setRun {α : Type} [DecidableEq α] (d : α) (m : SMap α) (k : Nat) (v : α) (n : Nat) (h : swf d m = true) :
    swf d (setRun d m k v n) = true := by
  induction n generalizing m k with
  | zero => exact h
  | succ n ih => exact ih _ _ (swf_sset d k v h)

/-- What a run of keys holds after it is set. -/
theorem sget_setRun {α : Type} [DecidableEq α] (d : α) (m : SMap α) (k j : Nat) (v : α) (n : Nat) :
    sget d (setRun d m k v n) j = if k ≤ j ∧ j < k + n then v else sget d m j := by
  induction n generalizing m k with
  | zero => rw [if_neg (by omega)]; rfl
  | succ n ih =>
    unfold setRun; rw [ih, sget_sset]
    by_cases h1 : k + 1 ≤ j ∧ j < k + 1 + n
    · rw [if_pos h1, if_pos (by omega)]
    · rw [if_neg h1]
      by_cases h2 : j = k
      · rw [if_pos h2, if_pos (by omega)]
      · rw [if_neg h2, if_neg (by omega)]

/-- Leaving entries out keeps a lower bound of the keys. -/
theorem sabove_filter {α : Type} (f : Nat × α → Bool) (m : SMap α) (k : Nat) (h : sabove k m = true) :
    sabove k (m.filter f) = true := by
  simp only [sabove, List.all_eq_true] at *
  exact fun p hp => h p (List.mem_filter.mp hp).1

/-- Leaving entries out keeps the canonical form. -/
theorem swf_filter {α : Type} [DecidableEq α] (d : α) (f : Nat × α → Bool) (m : SMap α) (h : swf d m = true) :
    swf d (m.filter f) = true := by
  induction m with
  | nil => rfl
  | cons p m ih =>
    obtain ⟨k, v⟩ := p
    simp only [swf, Bool.and_eq_true] at h
    rw [List.filter_cons]
    split
    · simp only [swf, Bool.and_eq_true]; exact ⟨⟨h.1.1, sabove_filter f m k h.1.2⟩, ih h.2⟩
    · exact ih h.2

/-- A key that reads true is listed. -/
theorem mem_of_sget (m : SMap Bool) (k : Nat) (h : sget false m k = true) : (k, true) ∈ m := by
  induction m with
  | nil => simp [sget] at h
  | cons p m ih =>
    obtain ⟨k', v⟩ := p
    simp only [sget] at h
    split at h
    · next e => subst e; rw [h]; simp
    · exact List.mem_cons_of_mem _ (ih h)

/-- A key of the range that reads true is found. -/
theorem anyIn_of_sget (m : SMap Bool) (k n j : Nat) (h : sget false m j = true) (hj : k ≤ j ∧ j < k + n) :
    anyIn m k n = true := by
  simp only [anyIn, List.any_eq_true]
  exact ⟨(j, true), mem_of_sget m j h, by simp [hj]⟩

/-- What a map lists after one write. -/
theorem mem_sset {m : SMap Bool} {k : Nat} {v : Bool} {p : Nat × Bool} (h : p ∈ sset false m k v) :
    p = (k, v) ∧ v = true ∨ p.1 ≠ k ∧ p ∈ m := by
  unfold sset at h
  split at h
  · exact .inr ⟨mem_sdel_ne h, mem_sdel_mem h⟩
  · next hv =>
    rcases mem_sins h with h | h
    · exact .inl ⟨h, by simpa using hv⟩
    · exact .inr ⟨mem_sdel_ne h, mem_sdel_mem h⟩

/-- Clearing a run of keys leaves none of them listed. -/
theorem mem_setRun_false (m : SMap Bool) (k n : Nat) (p : Nat × Bool) (h : p ∈ setRun false m k false n) :
    p ∈ m ∧ ¬ (k ≤ p.1 ∧ p.1 < k + n) := by
  induction n generalizing m k with
  | zero => exact ⟨h, by omega⟩
  | succ n ih =>
    have := ih _ _ h
    rcases mem_sset this.1 with h1 | h1
    · exact absurd h1.2 (by simp)
    · exact ⟨h1.2, by omega⟩

/-- With no key of the range listed none is found. -/
theorem anyIn_none (m : SMap Bool) (k n : Nat) (h : ∀ p ∈ m, ¬ (k ≤ p.1 ∧ p.1 < k + n)) : anyIn m k n = false := by
  simp only [anyIn, List.any_eq_false]
  intro p hp; simp [h p hp]

/-- What a map reads once keys are left out. -/
theorem sget_filter_key {α : Type} (d : α) (f : Nat → Bool) (m : SMap α) (k : Nat) :
    sget d (m.filter fun p => f p.1) k = if f k = true then sget d m k else d := by
  induction m with
  | nil => simp [sget]
  | cons p m ih =>
    obtain ⟨k', v⟩ := p
    rw [List.filter_cons]
    simp only
    by_cases e : k' = k
    · subst e
      by_cases hf : f k' = true
      · simp only [hf, if_true, sget]
      · simp [hf, ih]
    · split
      · simp only [sget, e, if_false, ih]
      · simp only [ih, sget, e, if_false]

/-- The guard of a write that takes place. -/
theorem physWrite_lands {m : Mod} {pa : Nat} {bs : List Byte}
    (h : Mod.paAbsent m pa = false ∧ inReserve pa = false ∧ bs ≠ []) :
    ¬ ((Mod.paAbsent m pa || inReserve pa || bs.isEmpty) = true) := by
  obtain ⟨h1, h2, h3⟩ := h
  simp [h1, h2, h3]

/-- A write of device memory keeps the canonical form. -/
theorem physWrite_wf {m : Mod} (pa : Nat) (bs : List Byte) (poison : Bool) (h : Memory.wf m.mem = true) :
    Memory.wf (Mod.physWrite m pa bs poison).mem = true := by
  unfold Mod.physWrite
  split
  · exact h
  · simp only [Memory.wf, Bool.and_eq_true] at h ⊢
    obtain ⟨⟨⟨⟨h1, h2⟩, h3⟩, h4⟩, h5⟩ := h
    refine ⟨⟨⟨⟨swf_wrBytes _ _ _ h1, h2⟩, h3⟩, ?_⟩, ?_⟩ <;> split
    · exact swf_setRun _ _ _ _ _ h4
    · exact swf_filter _ _ _ h4
    · exact h5
    · exact swf_filter _ _ _ h5

/-- A write of host memory keeps the canonical form. -/
theorem hostWrite_wf {m : Mod} (a : Nat) (bs : List Byte) (poison : Bool) (h : Memory.wf m.mem = true) :
    Memory.wf (Mod.hostWrite m a bs poison).mem = true := by
  simp only [Memory.wf, Mod.hostWrite, Bool.and_eq_true] at h ⊢
  obtain ⟨⟨⟨⟨h1, h2⟩, h3⟩, h4⟩, h5⟩ := h
  refine ⟨⟨⟨⟨h1, swf_wrBytes _ _ _ h2⟩, ?_⟩, h4⟩, h5⟩
  split
  · rfl
  · exact swf_setRun _ _ _ _ _ h3

/-- A write through translation keeps the canonical form, up to the piece that faults. -/
theorem writePieces_wf (tlb ctx : Nat) (poison : Bool) (ps : List (Nat × Nat)) :
    ∀ (m : Mod) (done : Nat) (bs : List Byte), Memory.wf m.mem = true →
      Memory.wf (Mod.writePieces m tlb ctx poison done ps bs).1.mem = true := by
  induction ps with
  | nil => exact fun _ _ _ h => h
  | cons p ps ih =>
    intro m done bs h
    unfold Mod.writePieces
    split
    · exact h
    · apply ih
      unfold Mod.writePhys
      split
      · exact hostWrite_wf _ _ _ h
      · exact physWrite_wf _ _ _ h

/-- A write at a device virtual address keeps the canonical form. -/
theorem vaWrite_wf {m : Mod} (tlb ctx va : Nat) (bs : List Byte) (poison : Bool) (h : Memory.wf m.mem = true) :
    Memory.wf (Mod.vaWrite m tlb ctx va bs poison).1.mem = true := writePieces_wf _ _ _ _ _ _ _ h

/-- The merge of a block of a poison directory keeps the canonical form. -/
theorem mergeBlock_wf {m : Mod} (site : Nat) (h : Memory.wf m.mem = true) :
    Memory.wf (Mod.mergeBlock m site).1.mem = true := by
  unfold Mod.mergeBlock
  split
  · exact h
  · split
    · simp only [Memory.wf, Bool.and_eq_true] at h ⊢
      obtain ⟨⟨⟨⟨h1, h2⟩, h3⟩, h4⟩, h5⟩ := h
      exact ⟨⟨⟨⟨h1, h2⟩, h3⟩, swf_filter _ _ _ h4⟩, swf_sset _ _ _ h5⟩
    · exact h

/-- The memory after reset is in the canonical form. -/
theorem reset_wf : Memory.wf State.reset.mod.mem = true := rfl

end Sys2Proof.Laws
end

