-- ==== Sys2Proof/Laws/Numbers.lean ====
section
/-!
SUPPORT. What an open value can be: a gate function's result and the address of an object.
-/
namespace Sys2Proof.Laws

open Sys2Proof Sys2Proof.Machine

/-- A result that R103 does not fix lies within R104's bound, or is the word nearest to the exact value. -/
theorem gateOpen_bounded (f : Nat) (x : Word) : gateWithin f x (gateOpen f x) = true ∨ gateOpen f x = gateNear f x := by
  unfold gateOpen
  split
  · exact .inl ‹_›
  · exact .inr rfl

/-- A placed object is where its block places it. -/
theorem objVa_placed {m : Mod} {ctx n a : Nat} (h : Mod.objPlace m ctx n = some a) : Mod.objVa m ctx n = a := by
  simp [Mod.objVa, h]

end Sys2Proof.Laws
end

