-- ==== Sys2Proof/WellFormed.lean ====
section
/-!
DEFINITION. Well-formed commands: the operands a sender can give. Index spaces are bounded by their types; what is left
are the words of a PVIS instruction, an access of a register, and the coordinates of a module.
-/
namespace Sys2Proof

open Sys2Proof.Machine

/-- Module coordinates are 8 bits each (R400). -/
def xyzWf (p : Nat × Nat × Nat) : Bool := p.1 < 256 && p.2.1 < 256 && p.2.2 < 256

/-- A packet's coordinates and data are ones a flit can carry (R405, R411). -/
def packetWf (p : Packet) : Bool :=
  xyzWf p.dest && xyzWf p.src && p.address < 2 ^ 48 && p.tag < 2 ^ 64 && p.data.length ≤ 4096

/-- The words of a PVIS command are an accepted instruction of its own opcode (R293). -/
def Instr.wf : Instr → Bool
  | .doorbellPoll _ _ _ _ => true
  | .ringIdleTimeout _ => true
  | .hifKick _ _ => true
  | .kickRepoll _ _ _ => true
  | .descriptorFetch _ _ _ => true
  | .completionHeadPoll _ _ => true
  | .coalescingTimer _ => true
  | .loadModel _ _ _ => true
  | .loadProgramLoadRoles _ _ => true
  | .loadProgramCreateContext _ _ _ => true
  | .loadProgramEndContext _ => true
  | .bankLoad _ => true
  | .run _ => true
  | .runJobStart _ => true
  | .softPreemptTimeout _ => true
  | .clusterSave _ => true
  | .clusterRestore _ => true
  | .jobCompletion _ => true
  | .copy _ => true
  | .signal _ => true
  | .wait _ => true
  | .waitSatisfied _ => true
  | .fenceDescriptor _ => true
  | .fenceInvalidate _ => true
  | .streamExport _ => true
  | .streamExportMove _ => true
  | .streamImport _ => true
  | .tableBind _ _ _ _ => true
  | .tableUnbind _ => true
  | .tableBindSpillExtent _ _ => true
  | .tableFlush _ => true
  | .collectiveGroup _ _ => true
  | .collectiveGroupDissolve _ => true
  | .abort _ => true
  | .abortContextWide _ => true
  | .queryDevice _ => true
  | .querySites _ => true
  | .queryDrives _ => true
  | .queryContexts _ => true
  | .queryJob _ => true
  | .hifSqCtrlWrite _ _ => true
  | .hifCqCtrlWrite _ _ => true
  | .hifCtrlWrite _ => true
  | .mmuFaultCtrlWrite _ => true
  | .flpQueuesWrite _ _ => true
  | .lnkPortEnable _ => true
  | .lnkPortDisable _ => true
  | .lnkPortRetrain _ => true
  | .lnkCoordWrite _ => true
  | .lnkBuddyCtrlWrite _ => true
  | .lnkBuddyAreaWrite _ => true
  | .lnkDeclareLost _ => true
  | .lnkDeclareRelease _ => true
  | .crnPreemptWrite _ => true
  | .crnMboxOutReadyClear => true
  | .mailboxInbound msg => msg.length ≤ 4092
  | .mailboxOutbound msg => msg.length ≤ 4092
  | .pwrCeilingWrite _ => true
  | .pwrFloorWrite _ _ => true
  | .pwrPinWrite _ _ => true
  | .pwrStatusFloorUnmetClear => true
  | .visClselWrite _ _ => true
  | .visBrselWrite _ _ => true
  | .visSnapGo _ => true
  | .secPolicyWrite _ => true
  | .registerWrite _ size _ => size ≤ 8
  | .bar4Access off _ _ => off < 2 ^ 37
  | .faultRecordDrain => true
  | .faultResponseRead _ _ => true
  | .faultServiceTimeout _ => true
  | .tlbMissWalk _ _ _ _ => true
  | .nop _ p => pvisIs 0x00 p
  | .li _ p => pvisIs 0x01 p
  | .alu _ p => pvisIs 0x02 p
  | .alui _ p => pvisIs 0x03 p
  | .sys _ p => pvisIs 0x04 p
  | .br _ p => pvisIs 0x06 p
  | .loop _ p => pvisIs 0x07 p
  | .level _ p => pvisIs 0x08 p
  | .cond _ p => pvisIs 0x09 p
  | .bank _ p => pvisIs 0x0A p
  | .bankReady _ => true
  | .endRole _ p => pvisIs 0x0B p
  | .qtok _ p => pvisIs 0x10 p
  | .qskip _ p => pvisIs 0x11 p
  | .qwait _ p => pvisIs 0x12 p
  | .qwaitSatisfied _ => true
  | .queuePushResume _ _ => true
  | .queuePopResume _ _ => true
  | .tokenArrival _ _ => true
  | .mma _ p => pvisIs 0x20 p
  | .combine _ p => pvisIs 0x21 p
  | .drain _ p => pvisIs 0x22 p
  | .gate _ p => pvisIs 0x30 p
  | .glstm _ p => pvisIs 0x31 p
  | .ggru _ p => pvisIs 0x32 p
  | .gcacc _ p => pvisIs 0x33 p
  | .vadd _ p => pvisIs 0x40 p
  | .vmul _ p => pvisIs 0x41 p
  | .vfma _ p => pvisIs 0x42 p
  | .vcmp _ p => pvisIs 0x43 p
  | .vsel _ p => pvisIs 0x44 p
  | .vmin _ p => pvisIs 0x45 p
  | .vmax _ p => pvisIs 0x46 p
  | .vld _ p => pvisIs 0x48 p
  | .vst _ p => pvisIs 0x49 p
  | .vbc _ p => pvisIs 0x4A p
  | .lbdecl _ p => pvisIs 0x50 p
  | .conv _ p => pvisIs 0x51 p
  | .hsend _ p => pvisIs 0x53 p
  | .hrecv _ p => pvisIs 0x54 p
  | .dmard _ p => pvisIs 0x60 p
  | .dmawr _ p => pvisIs 0x61 p
  | .attn _ p => pvisIs 0x70 p
  | .pageFetchDone _ _ => true
  | .kvapp _ p => pvisIs 0x71 p
  | .kvpf _ p => pvisIs 0x72 p
  | .pageSpill _ => true
  | .spillCopyDone _ => true
  | .bfork _ p => pvisIs 0x73 p
  | .bkill _ p => pvisIs 0x74 p
  | .bprune _ p => pvisIs 0x75 p
  | .killWaitDone _ _ => true
  | .bcommit _ p => pvisIs 0x76 p
  | .sample _ p => pvisIs 0x77 p
  | .verify _ p => pvisIs 0x78 p
  | .smodal _ p => pvisIs 0x80 p
  | .sscan _ p => pvisIs 0x81 p
  | .scell _ p => pvisIs 0x82 p
  | .sreset _ p => pvisIs 0x83 p
  | .sanchor _ p => pvisIs 0x84 p
  | .gather _ p => pvisIs 0x90 p
  | .gatherBagDeliver _ => true
  | .tpf _ p => pvisIs 0x91 p
  | .scatter _ p => pvisIs 0x92 p
  | .tableFillDone _ _ _ => true
  | .writeBack _ _ => true
  | .fset _ p => pvisIs 0xA0 p
  | .fclr _ p => pvisIs 0xA1 p
  | .fwaits _ p => pvisIs 0xA2 p
  | .fwaitc _ p => pvisIs 0xA3 p
  | .flagWaitSatisfied _ => true
  | .hbarr _ p => pvisIs 0xA4 p
  | .hbwait _ p => pvisIs 0xA5 p
  | .hatbandRelease _ => true
  | .ctake _ p => pvisIs 0xA6 p
  | .cpeek _ p => pvisIs 0xA7 p
  | .cset _ p => pvisIs 0xA8 p
  | .fence _ p => pvisIs 0xB0 p
  | .evmark _ p => pvisIs 0xC0 p
  | .evsnap _ p => pvisIs 0xC1 p
  | .nullEngineCommand _ _ _ => true
  | .clusterRetire _ _ => true
  | .failingPortDisable => true
  | .gddrTempRead _ _ _ => true
  | .poisonBlockMerge _ => true
  | .nvmeCompletionPoll _ _ => true
  | .driveBringUp _ _ _ _ _ _ _ => true
  | .driveReadyTimeout _ => true
  | .hedgeTimeout _ => true
  | .nvmeCommandTimeout _ _ => true
  | .readGiveUp _ => true
  | .remoteRowTimeout _ => true
  | .portDetectTimeout _ => true
  | .portEqualiseDone _ _ => true
  | .portFecLockDone _ _ => true
  | .identityFlit _ _ => true
  | .creditInitDone _ _ => true
  | .dataFlit _ _ _ => true
  | .idleFlit _ _ _ => true
  | .nakFlit _ _ _ => true
  | .nakRepeat _ => true
  | .retrainDone _ _ => true
  | .heartbeatIdle _ => true
  | .lossOfSignal _ => true
  | .portSilenceTimeout _ => true
  | .heldPacketTimeout _ => true
  | .requestTimeout _ => true
  | .writePacket pkt => packetWf pkt
  | .readRequestPacket pkt => packetWf pkt
  | .readResponsePacket pkt => packetWf pkt
  | .writeAcknowledgement pkt => packetWf pkt
  | .remoteQueuePush pkt => packetWf pkt
  | .flagChangePacket pkt => packetWf pkt
  | .rowRequest pkt => packetWf pkt
  | .rowResponse pkt => packetWf pkt
  | .collectiveData pkt => packetWf pkt
  | .collectiveGrant pkt => packetWf pkt
  | .collectiveTrigger _ => true
  | .collectiveOperationDone _ => true
  | .collectiveWatchdog _ => true
  | .healthPacket xyz _ _ _ => xyzWf xyz
  | .slowHealthTimer => true
  | .slowExtensionEnd xyz => xyzWf xyz
  | .silenceReport _ xyz => xyzWf xyz
  | .silenceEnded _ xyz => xyzWf xyz
  | .silenceDeclarationTimeout _ => true
  | .supervisorLost xyz _ => xyzWf xyz
  | .supervisorTakeoverReady xyz _ => xyzWf xyz
  | .supervisorRelease xyz => xyzWf xyz
  | .cableCutTimeout _ => true
  | .takeoverBegin _ _ => true
  | .takeoverLoadModel _ _ _ _ _ _ => true
  | .shardCopyDone _ _ => true
  | .voltageLoopInterval _ _ _ _ _ => true
  | .enforcerInterval _ => true
  | .thermalEstimate _ _ _ => true
  | .warmupEnd => true
  | .thermalTrip => true
  | .powerBrakeAssert => true
  | .powerBrakeDeassert => true
  | .inputOvercurrent => true
  | .brakeRelease => true
  | .uvHold _ => true
  | .uvRelease _ => true
  | .uvHoldTimeout _ => true
  | .inputPowerOn _ _ => true
  | .inputUndervoltage => true
  | .inputOvervoltage => true
  | .perstAssert => true
  | .perstRelease _ _ _ _ => true
  | .gddrTraining _ _ => true
  | .serviceReady _ => true
  | .telemetrySample _ => true
  | .crownWatchdogExpiry => true
  | .crownReturn _ _ => true
  | .smbusFallback => true
  | .setEndpointId _ => true
  | .getEndpointId => true
  | .getMctpVersionSupport => true
  | .getMessageTypeSupport => true
  | .getVendorDefinedMessageSupport => true
  | .gettid => true
  | .getpldmversion => true
  | .getpldmtypes => true
  | .getpldmcommands => true
  | .getsensorreading _ => true
  | .getstatesensorreadings _ => true
  | .getnumericeffectervalue _ => true
  | .setnumericeffectervalue _ _ => true
  | .getpdrrepositoryinfo => true
  | .getpdr _ => true
  | .pollforplatformeventmessage => true
  | .requestupdate => true
  | .getpackagedata => true
  | .passcomponenttable _ _ => true
  | .updatecomponent _ _ => true
  | .requestfirmwaredata _ _ => true
  | .transfercomplete _ => true
  | .verifycomplete _ => true
  | .applycomplete _ => true
  | .activatefirmware _ => true
  | .getstatus => true
  | .cancelupdate => true
  | .keyenrol _ _ _ _ => true
  | .keyrevoke _ _ _ _ => true
  | .getcertchain _ => true
  | .getattestation _ => true
  | .signalDetected _ _ => true
  | .atsInvalidationRequest _ _ => true
  | .pageRequestResponse _ _ => true
  | .pageRequestTimeout _ => true
  | .flashLinkDown _ => true
  | .controllerFatalStatus _ => true
  | .d3hotTransition _ => true
  | .dynamicAddressAssignment _ => true

end Sys2Proof
end

