-- ==== Sys2Proof/Laws/PerInstr.lean ====
section
/-!
SUPPORT. Laws of each command as syntax: a command that carries the words of a PVIS instruction carries, where it is
well-formed, words of its own opcode (R285, R293).
-/
namespace Sys2Proof.Laws

open Sys2Proof Sys2Proof.Machine

/-- The opcode of a row that carries the words of an instruction, and the words (R294). -/
def pvisOf : Instr → Option (Nat × PvisWords)
  | .doorbellPoll _ _ _ _ => none
  | .ringIdleTimeout _ => none
  | .hifKick _ _ => none
  | .kickRepoll _ _ _ => none
  | .descriptorFetch _ _ _ => none
  | .completionHeadPoll _ _ => none
  | .coalescingTimer _ => none
  | .loadModel _ _ _ => none
  | .loadProgramLoadRoles _ _ => none
  | .loadProgramCreateContext _ _ _ => none
  | .loadProgramEndContext _ => none
  | .bankLoad _ => none
  | .run _ => none
  | .runJobStart _ => none
  | .softPreemptTimeout _ => none
  | .clusterSave _ => none
  | .clusterRestore _ => none
  | .jobCompletion _ => none
  | .copy _ => none
  | .signal _ => none
  | .wait _ => none
  | .waitSatisfied _ => none
  | .fenceDescriptor _ => none
  | .fenceInvalidate _ => none
  | .streamExport _ => none
  | .streamExportMove _ => none
  | .streamImport _ => none
  | .tableBind _ _ _ _ => none
  | .tableUnbind _ => none
  | .tableBindSpillExtent _ _ => none
  | .tableFlush _ => none
  | .collectiveGroup _ _ => none
  | .collectiveGroupDissolve _ => none
  | .abort _ => none
  | .abortContextWide _ => none
  | .queryDevice _ => none
  | .querySites _ => none
  | .queryDrives _ => none
  | .queryContexts _ => none
  | .queryJob _ => none
  | .hifSqCtrlWrite _ _ => none
  | .hifCqCtrlWrite _ _ => none
  | .hifCtrlWrite _ => none
  | .mmuFaultCtrlWrite _ => none
  | .flpQueuesWrite _ _ => none
  | .lnkPortEnable _ => none
  | .lnkPortDisable _ => none
  | .lnkPortRetrain _ => none
  | .lnkCoordWrite _ => none
  | .lnkBuddyCtrlWrite _ => none
  | .lnkBuddyAreaWrite _ => none
  | .lnkDeclareLost _ => none
  | .lnkDeclareRelease _ => none
  | .crnPreemptWrite _ => none
  | .crnMboxOutReadyClear => none
  | .mailboxInbound _ => none
  | .mailboxOutbound _ => none
  | .pwrCeilingWrite _ => none
  | .pwrFloorWrite _ _ => none
  | .pwrPinWrite _ _ => none
  | .pwrStatusFloorUnmetClear => none
  | .visClselWrite _ _ => none
  | .visBrselWrite _ _ => none
  | .visSnapGo _ => none
  | .secPolicyWrite _ => none
  | .registerWrite _ _ _ => none
  | .bar4Access _ _ _ => none
  | .faultRecordDrain => none
  | .faultResponseRead _ _ => none
  | .faultServiceTimeout _ => none
  | .tlbMissWalk _ _ _ _ => none
  | .nop _ p => some (0x00, p)
  | .li _ p => some (0x01, p)
  | .alu _ p => some (0x02, p)
  | .alui _ p => some (0x03, p)
  | .sys _ p => some (0x04, p)
  | .br _ p => some (0x06, p)
  | .loop _ p => some (0x07, p)
  | .level _ p => some (0x08, p)
  | .cond _ p => some (0x09, p)
  | .bank _ p => some (0x0A, p)
  | .bankReady _ => none
  | .endRole _ p => some (0x0B, p)
  | .qtok _ p => some (0x10, p)
  | .qskip _ p => some (0x11, p)
  | .qwait _ p => some (0x12, p)
  | .qwaitSatisfied _ => none
  | .queuePushResume _ _ => none
  | .queuePopResume _ _ => none
  | .tokenArrival _ _ => none
  | .mma _ p => some (0x20, p)
  | .combine _ p => some (0x21, p)
  | .drain _ p => some (0x22, p)
  | .gate _ p => some (0x30, p)
  | .glstm _ p => some (0x31, p)
  | .ggru _ p => some (0x32, p)
  | .gcacc _ p => some (0x33, p)
  | .vadd _ p => some (0x40, p)
  | .vmul _ p => some (0x41, p)
  | .vfma _ p => some (0x42, p)
  | .vcmp _ p => some (0x43, p)
  | .vsel _ p => some (0x44, p)
  | .vmin _ p => some (0x45, p)
  | .vmax _ p => some (0x46, p)
  | .vld _ p => some (0x48, p)
  | .vst _ p => some (0x49, p)
  | .vbc _ p => some (0x4A, p)
  | .lbdecl _ p => some (0x50, p)
  | .conv _ p => some (0x51, p)
  | .hsend _ p => some (0x53, p)
  | .hrecv _ p => some (0x54, p)
  | .dmard _ p => some (0x60, p)
  | .dmawr _ p => some (0x61, p)
  | .attn _ p => some (0x70, p)
  | .pageFetchDone _ _ => none
  | .kvapp _ p => some (0x71, p)
  | .kvpf _ p => some (0x72, p)
  | .pageSpill _ => none
  | .spillCopyDone _ => none
  | .bfork _ p => some (0x73, p)
  | .bkill _ p => some (0x74, p)
  | .bprune _ p => some (0x75, p)
  | .killWaitDone _ _ => none
  | .bcommit _ p => some (0x76, p)
  | .sample _ p => some (0x77, p)
  | .verify _ p => some (0x78, p)
  | .smodal _ p => some (0x80, p)
  | .sscan _ p => some (0x81, p)
  | .scell _ p => some (0x82, p)
  | .sreset _ p => some (0x83, p)
  | .sanchor _ p => some (0x84, p)
  | .gather _ p => some (0x90, p)
  | .gatherBagDeliver _ => none
  | .tpf _ p => some (0x91, p)
  | .scatter _ p => some (0x92, p)
  | .tableFillDone _ _ _ => none
  | .writeBack _ _ => none
  | .fset _ p => some (0xA0, p)
  | .fclr _ p => some (0xA1, p)
  | .fwaits _ p => some (0xA2, p)
  | .fwaitc _ p => some (0xA3, p)
  | .flagWaitSatisfied _ => none
  | .hbarr _ p => some (0xA4, p)
  | .hbwait _ p => some (0xA5, p)
  | .hatbandRelease _ => none
  | .ctake _ p => some (0xA6, p)
  | .cpeek _ p => some (0xA7, p)
  | .cset _ p => some (0xA8, p)
  | .fence _ p => some (0xB0, p)
  | .evmark _ p => some (0xC0, p)
  | .evsnap _ p => some (0xC1, p)
  | .nullEngineCommand _ _ _ => none
  | .clusterRetire _ _ => none
  | .failingPortDisable => none
  | .gddrTempRead _ _ _ => none
  | .poisonBlockMerge _ => none
  | .nvmeCompletionPoll _ _ => none
  | .driveBringUp _ _ _ _ _ _ _ => none
  | .driveReadyTimeout _ => none
  | .hedgeTimeout _ => none
  | .nvmeCommandTimeout _ _ => none
  | .readGiveUp _ => none
  | .remoteRowTimeout _ => none
  | .portDetectTimeout _ => none
  | .portEqualiseDone _ _ => none
  | .portFecLockDone _ _ => none
  | .identityFlit _ _ => none
  | .creditInitDone _ _ => none
  | .dataFlit _ _ _ => none
  | .idleFlit _ _ _ => none
  | .nakFlit _ _ _ => none
  | .nakRepeat _ => none
  | .retrainDone _ _ => none
  | .heartbeatIdle _ => none
  | .lossOfSignal _ => none
  | .portSilenceTimeout _ => none
  | .heldPacketTimeout _ => none
  | .requestTimeout _ => none
  | .writePacket _ => none
  | .readRequestPacket _ => none
  | .readResponsePacket _ => none
  | .writeAcknowledgement _ => none
  | .remoteQueuePush _ => none
  | .flagChangePacket _ => none
  | .rowRequest _ => none
  | .rowResponse _ => none
  | .collectiveData _ => none
  | .collectiveGrant _ => none
  | .collectiveTrigger _ => none
  | .collectiveOperationDone _ => none
  | .collectiveWatchdog _ => none
  | .healthPacket _ _ _ _ => none
  | .slowHealthTimer => none
  | .slowExtensionEnd _ => none
  | .silenceReport _ _ => none
  | .silenceEnded _ _ => none
  | .silenceDeclarationTimeout _ => none
  | .supervisorLost _ _ => none
  | .supervisorTakeoverReady _ _ => none
  | .supervisorRelease _ => none
  | .cableCutTimeout _ => none
  | .takeoverBegin _ _ => none
  | .takeoverLoadModel _ _ _ _ _ _ => none
  | .shardCopyDone _ _ => none
  | .voltageLoopInterval _ _ _ _ _ => none
  | .enforcerInterval _ => none
  | .thermalEstimate _ _ _ => none
  | .warmupEnd => none
  | .thermalTrip => none
  | .powerBrakeAssert => none
  | .powerBrakeDeassert => none
  | .inputOvercurrent => none
  | .brakeRelease => none
  | .uvHold _ => none
  | .uvRelease _ => none
  | .uvHoldTimeout _ => none
  | .inputPowerOn _ _ => none
  | .inputUndervoltage => none
  | .inputOvervoltage => none
  | .perstAssert => none
  | .perstRelease _ _ _ _ => none
  | .gddrTraining _ _ => none
  | .serviceReady _ => none
  | .telemetrySample _ => none
  | .crownWatchdogExpiry => none
  | .crownReturn _ _ => none
  | .smbusFallback => none
  | .setEndpointId _ => none
  | .getEndpointId => none
  | .getMctpVersionSupport => none
  | .getMessageTypeSupport => none
  | .getVendorDefinedMessageSupport => none
  | .gettid => none
  | .getpldmversion => none
  | .getpldmtypes => none
  | .getpldmcommands => none
  | .getsensorreading _ => none
  | .getstatesensorreadings _ => none
  | .getnumericeffectervalue _ => none
  | .setnumericeffectervalue _ _ => none
  | .getpdrrepositoryinfo => none
  | .getpdr _ => none
  | .pollforplatformeventmessage => none
  | .requestupdate => none
  | .getpackagedata => none
  | .passcomponenttable _ _ => none
  | .updatecomponent _ _ => none
  | .requestfirmwaredata _ _ => none
  | .transfercomplete _ => none
  | .verifycomplete _ => none
  | .applycomplete _ => none
  | .activatefirmware _ => none
  | .getstatus => none
  | .cancelupdate => none
  | .keyenrol _ _ _ _ => none
  | .keyrevoke _ _ _ _ => none
  | .getcertchain _ => none
  | .getattestation _ => none
  | .signalDetected _ _ => none
  | .atsInvalidationRequest _ _ => none
  | .pageRequestResponse _ _ => none
  | .pageRequestTimeout _ => none
  | .flashLinkDown _ => none
  | .controllerFatalStatus _ => none
  | .d3hotTransition _ => none
  | .dynamicAddressAssignment _ => none

/-- What is said of every command: a well-formed one carries words of its own opcode, and of at most four words. -/
def Opcode.Statement (i : Instr) : Prop :=
  match pvisOf i with
  | some (op, p) => i.wf = true → PvisWords.op p = op ∧ pvisLen p ≤ 4
  | none => True

theorem pvisLen_le (p : PvisWords) : pvisLen p ≤ 4 := by
  have h : PvisWords.ext p < 2 ^ (55 + 1 - 54) := Nat.mod_lt _ (by decide)
  simp only [pvisLen]
  omega

theorem op_of_pvisIs {op : Nat} {p : PvisWords} (h : pvisIs op p = true) : PvisWords.op p = op ∧ pvisLen p ≤ 4 := by
  simp only [pvisIs, Bool.and_eq_true, beq_iff_eq] at h
  exact ⟨h.1, pvisLen_le p⟩

theorem Opcode.doorbellPoll (ring : Fin 64) (record : DWord) (linkOk : Bool) (stores : List Host.Cell) : Opcode.Statement (.doorbellPoll ring record linkOk stores) := trivial
theorem Opcode.ringIdleTimeout (ring : Fin 64) : Opcode.Statement (.ringIdleTimeout ring) := trivial
theorem Opcode.hifKick (ring : Fin 64) (seq : Word) : Opcode.Statement (.hifKick ring seq) := trivial
theorem Opcode.kickRepoll (ring : Fin 64) (record : DWord) (linkOk : Bool) : Opcode.Statement (.kickRepoll ring record linkOk) := trivial
theorem Opcode.descriptorFetch (ring : Fin 64) (d : BitVec 512) (linkOk : Bool) : Opcode.Statement (.descriptorFetch ring d linkOk) := trivial
theorem Opcode.completionHeadPoll (cq : Fin 64) (count : Word) : Opcode.Statement (.completionHeadPoll cq count) := trivial
theorem Opcode.coalescingTimer (cq : Fin 64) : Opcode.Statement (.coalescingTimer cq) := trivial
theorem Opcode.loadModel (id : Nat) (img : Image) (blk : ModelBlock) : Opcode.Statement (.loadModel id img blk) := trivial
theorem Opcode.loadProgramLoadRoles (id : Nat) (img : Image) : Opcode.Statement (.loadProgramLoadRoles id img) := trivial
theorem Opcode.loadProgramCreateContext (id : Nat) (img : Option Image) (blk : CtxBlock) : Opcode.Statement (.loadProgramCreateContext id img blk) := trivial
theorem Opcode.loadProgramEndContext (id : Nat) : Opcode.Statement (.loadProgramEndContext id) := trivial
theorem Opcode.bankLoad (cl : ClusterId) : Opcode.Statement (.bankLoad cl) := trivial
theorem Opcode.run (id : Nat) : Opcode.Statement (.run id) := trivial
theorem Opcode.runJobStart (id : Nat) : Opcode.Statement (.runJobStart id) := trivial
theorem Opcode.softPreemptTimeout (cl : ClusterId) : Opcode.Statement (.softPreemptTimeout cl) := trivial
theorem Opcode.clusterSave (cl : ClusterId) : Opcode.Statement (.clusterSave cl) := trivial
theorem Opcode.clusterRestore (cl : ClusterId) : Opcode.Statement (.clusterRestore cl) := trivial
theorem Opcode.jobCompletion (id : Nat) : Opcode.Statement (.jobCompletion id) := trivial
theorem Opcode.copy (id : Nat) : Opcode.Statement (.copy id) := trivial
theorem Opcode.signal (id : Nat) : Opcode.Statement (.signal id) := trivial
theorem Opcode.wait (id : Nat) : Opcode.Statement (.wait id) := trivial
theorem Opcode.waitSatisfied (id : Nat) : Opcode.Statement (.waitSatisfied id) := trivial
theorem Opcode.fenceDescriptor (id : Nat) : Opcode.Statement (.fenceDescriptor id) := trivial
theorem Opcode.fenceInvalidate (id : Nat) : Opcode.Statement (.fenceInvalidate id) := trivial
theorem Opcode.streamExport (id : Nat) : Opcode.Statement (.streamExport id) := trivial
theorem Opcode.streamExportMove (id : Nat) : Opcode.Statement (.streamExportMove id) := trivial
theorem Opcode.streamImport (id : Nat) : Opcode.Statement (.streamImport id) := trivial
theorem Opcode.tableBind (id : Nat) (d : TableDesc) (shards : List ShardEntry) (warm : List (BitVec 128)) : Opcode.Statement (.tableBind id d shards warm) := trivial
theorem Opcode.tableUnbind (id : Nat) : Opcode.Statement (.tableUnbind id) := trivial
theorem Opcode.tableBindSpillExtent (id : Nat) (d : TableDesc) : Opcode.Statement (.tableBindSpillExtent id d) := trivial
theorem Opcode.tableFlush (id : Nat) : Opcode.Statement (.tableFlush id) := trivial
theorem Opcode.collectiveGroup (id : Nat) (d : CollDesc) : Opcode.Statement (.collectiveGroup id d) := trivial
theorem Opcode.collectiveGroupDissolve (id : Nat) : Opcode.Statement (.collectiveGroupDissolve id) := trivial
theorem Opcode.abort (id : Nat) : Opcode.Statement (.abort id) := trivial
theorem Opcode.abortContextWide (id : Nat) : Opcode.Statement (.abortContextWide id) := trivial
theorem Opcode.queryDevice (id : Nat) : Opcode.Statement (.queryDevice id) := trivial
theorem Opcode.querySites (id : Nat) : Opcode.Statement (.querySites id) := trivial
theorem Opcode.queryDrives (id : Nat) : Opcode.Statement (.queryDrives id) := trivial
theorem Opcode.queryContexts (id : Nat) : Opcode.Statement (.queryContexts id) := trivial
theorem Opcode.queryJob (id : Nat) : Opcode.Statement (.queryJob id) := trivial
theorem Opcode.hifSqCtrlWrite (ring : Fin 64) (v : Word) : Opcode.Statement (.hifSqCtrlWrite ring v) := trivial
theorem Opcode.hifCqCtrlWrite (cq : Fin 64) (v : DWord) : Opcode.Statement (.hifCqCtrlWrite cq v) := trivial
theorem Opcode.hifCtrlWrite (v : Word) : Opcode.Statement (.hifCtrlWrite v) := trivial
theorem Opcode.mmuFaultCtrlWrite (v : Word) : Opcode.Statement (.mmuFaultCtrlWrite v) := trivial
theorem Opcode.flpQueuesWrite (port : Fin 4) (v : DWord) : Opcode.Statement (.flpQueuesWrite port v) := trivial
theorem Opcode.lnkPortEnable (port : Fin 16) : Opcode.Statement (.lnkPortEnable port) := trivial
theorem Opcode.lnkPortDisable (port : Fin 16) : Opcode.Statement (.lnkPortDisable port) := trivial
theorem Opcode.lnkPortRetrain (port : Fin 16) : Opcode.Statement (.lnkPortRetrain port) := trivial
theorem Opcode.lnkCoordWrite (v : DWord) : Opcode.Statement (.lnkCoordWrite v) := trivial
theorem Opcode.lnkBuddyCtrlWrite (v : DWord) : Opcode.Statement (.lnkBuddyCtrlWrite v) := trivial
theorem Opcode.lnkBuddyAreaWrite (v : DWord) : Opcode.Statement (.lnkBuddyAreaWrite v) := trivial
theorem Opcode.lnkDeclareLost (x : Byte) : Opcode.Statement (.lnkDeclareLost x) := trivial
theorem Opcode.lnkDeclareRelease (x : Byte) : Opcode.Statement (.lnkDeclareRelease x) := trivial
theorem Opcode.crnPreemptWrite (v : DWord) : Opcode.Statement (.crnPreemptWrite v) := trivial
theorem Opcode.crnMboxOutReadyClear : Opcode.Statement (.crnMboxOutReadyClear) := trivial
theorem Opcode.mailboxInbound (msg : List Byte) : Opcode.Statement (.mailboxInbound msg) := trivial
theorem Opcode.mailboxOutbound (msg : List Byte) : Opcode.Statement (.mailboxOutbound msg) := trivial
theorem Opcode.pwrCeilingWrite (v : Word) : Opcode.Statement (.pwrCeilingWrite v) := trivial
theorem Opcode.pwrFloorWrite (isl : Fin 256) (v : Word) : Opcode.Statement (.pwrFloorWrite isl v) := trivial
theorem Opcode.pwrPinWrite (isl : Fin 256) (v : Word) : Opcode.Statement (.pwrPinWrite isl v) := trivial
theorem Opcode.pwrStatusFloorUnmetClear : Opcode.Statement (.pwrStatusFloorUnmetClear) := trivial
theorem Opcode.visClselWrite (ctx : Fin 16) (v : DWord) : Opcode.Statement (.visClselWrite ctx v) := trivial
theorem Opcode.visBrselWrite (n : Fin 64) (v : Word) : Opcode.Statement (.visBrselWrite n v) := trivial
theorem Opcode.visSnapGo (v : Word) : Opcode.Statement (.visSnapGo v) := trivial
theorem Opcode.secPolicyWrite (v : Word) : Opcode.Statement (.secPolicyWrite v) := trivial
theorem Opcode.registerWrite (off : BitVec 16) (size : Nat) (v : DWord) : Opcode.Statement (.registerWrite off size v) := trivial
theorem Opcode.bar4Access (off : Nat) (len : Nat) (wr : Option (List Byte)) : Opcode.Statement (.bar4Access off len wr) := trivial
theorem Opcode.faultRecordDrain : Opcode.Statement (.faultRecordDrain) := trivial
theorem Opcode.faultResponseRead (head : Word) (resps : List Byte) : Opcode.Statement (.faultResponseRead head resps) := trivial
theorem Opcode.faultServiceTimeout (seq : Nat) : Opcode.Statement (.faultServiceTimeout seq) := trivial
theorem Opcode.tlbMissWalk (tlb : TlbId) (ctx : Nat) (va : BitVec 48) (write : Bool) : Opcode.Statement (.tlbMissWalk tlb ctx va write) := trivial
theorem Opcode.nop (c : CoreId) (p : PvisWords) : Opcode.Statement (.nop c p) := fun h => op_of_pvisIs h
theorem Opcode.li (c : CoreId) (p : PvisWords) : Opcode.Statement (.li c p) := fun h => op_of_pvisIs h
theorem Opcode.alu (c : CoreId) (p : PvisWords) : Opcode.Statement (.alu c p) := fun h => op_of_pvisIs h
theorem Opcode.alui (c : CoreId) (p : PvisWords) : Opcode.Statement (.alui c p) := fun h => op_of_pvisIs h
theorem Opcode.sys (c : CoreId) (p : PvisWords) : Opcode.Statement (.sys c p) := fun h => op_of_pvisIs h
theorem Opcode.br (c : CoreId) (p : PvisWords) : Opcode.Statement (.br c p) := fun h => op_of_pvisIs h
theorem Opcode.loop (c : CoreId) (p : PvisWords) : Opcode.Statement (.loop c p) := fun h => op_of_pvisIs h
theorem Opcode.level (c : CoreId) (p : PvisWords) : Opcode.Statement (.level c p) := fun h => op_of_pvisIs h
theorem Opcode.cond (c : CoreId) (p : PvisWords) : Opcode.Statement (.cond c p) := fun h => op_of_pvisIs h
theorem Opcode.bank (c : CoreId) (p : PvisWords) : Opcode.Statement (.bank c p) := fun h => op_of_pvisIs h
theorem Opcode.bankReady (c : CoreId) : Opcode.Statement (.bankReady c) := trivial
theorem Opcode.endRole (c : CoreId) (p : PvisWords) : Opcode.Statement (.endRole c p) := fun h => op_of_pvisIs h
theorem Opcode.qtok (c : CoreId) (p : PvisWords) : Opcode.Statement (.qtok c p) := fun h => op_of_pvisIs h
theorem Opcode.qskip (c : CoreId) (p : PvisWords) : Opcode.Statement (.qskip c p) := fun h => op_of_pvisIs h
theorem Opcode.qwait (c : CoreId) (p : PvisWords) : Opcode.Statement (.qwait c p) := fun h => op_of_pvisIs h
theorem Opcode.qwaitSatisfied (c : CoreId) : Opcode.Statement (.qwaitSatisfied c) := trivial
theorem Opcode.queuePushResume (c : CoreId) (e : Fin 12) : Opcode.Statement (.queuePushResume c e) := trivial
theorem Opcode.queuePopResume (c : CoreId) (e : Fin 12) : Opcode.Statement (.queuePopResume c e) := trivial
theorem Opcode.tokenArrival (c : CoreId) (e : Fin 12) : Opcode.Statement (.tokenArrival c e) := trivial
theorem Opcode.mma (c : CoreId) (p : PvisWords) : Opcode.Statement (.mma c p) := fun h => op_of_pvisIs h
theorem Opcode.combine (c : CoreId) (p : PvisWords) : Opcode.Statement (.combine c p) := fun h => op_of_pvisIs h
theorem Opcode.drain (c : CoreId) (p : PvisWords) : Opcode.Statement (.drain c p) := fun h => op_of_pvisIs h
theorem Opcode.gate (c : CoreId) (p : PvisWords) : Opcode.Statement (.gate c p) := fun h => op_of_pvisIs h
theorem Opcode.glstm (c : CoreId) (p : PvisWords) : Opcode.Statement (.glstm c p) := fun h => op_of_pvisIs h
theorem Opcode.ggru (c : CoreId) (p : PvisWords) : Opcode.Statement (.ggru c p) := fun h => op_of_pvisIs h
theorem Opcode.gcacc (c : CoreId) (p : PvisWords) : Opcode.Statement (.gcacc c p) := fun h => op_of_pvisIs h
theorem Opcode.vadd (c : CoreId) (p : PvisWords) : Opcode.Statement (.vadd c p) := fun h => op_of_pvisIs h
theorem Opcode.vmul (c : CoreId) (p : PvisWords) : Opcode.Statement (.vmul c p) := fun h => op_of_pvisIs h
theorem Opcode.vfma (c : CoreId) (p : PvisWords) : Opcode.Statement (.vfma c p) := fun h => op_of_pvisIs h
theorem Opcode.vcmp (c : CoreId) (p : PvisWords) : Opcode.Statement (.vcmp c p) := fun h => op_of_pvisIs h
theorem Opcode.vsel (c : CoreId) (p : PvisWords) : Opcode.Statement (.vsel c p) := fun h => op_of_pvisIs h
theorem Opcode.vmin (c : CoreId) (p : PvisWords) : Opcode.Statement (.vmin c p) := fun h => op_of_pvisIs h
theorem Opcode.vmax (c : CoreId) (p : PvisWords) : Opcode.Statement (.vmax c p) := fun h => op_of_pvisIs h
theorem Opcode.vld (c : CoreId) (p : PvisWords) : Opcode.Statement (.vld c p) := fun h => op_of_pvisIs h
theorem Opcode.vst (c : CoreId) (p : PvisWords) : Opcode.Statement (.vst c p) := fun h => op_of_pvisIs h
theorem Opcode.vbc (c : CoreId) (p : PvisWords) : Opcode.Statement (.vbc c p) := fun h => op_of_pvisIs h
theorem Opcode.lbdecl (c : CoreId) (p : PvisWords) : Opcode.Statement (.lbdecl c p) := fun h => op_of_pvisIs h
theorem Opcode.conv (c : CoreId) (p : PvisWords) : Opcode.Statement (.conv c p) := fun h => op_of_pvisIs h
theorem Opcode.hsend (c : CoreId) (p : PvisWords) : Opcode.Statement (.hsend c p) := fun h => op_of_pvisIs h
theorem Opcode.hrecv (c : CoreId) (p : PvisWords) : Opcode.Statement (.hrecv c p) := fun h => op_of_pvisIs h
theorem Opcode.dmard (c : CoreId) (p : PvisWords) : Opcode.Statement (.dmard c p) := fun h => op_of_pvisIs h
theorem Opcode.dmawr (c : CoreId) (p : PvisWords) : Opcode.Statement (.dmawr c p) := fun h => op_of_pvisIs h
theorem Opcode.attn (c : CoreId) (p : PvisWords) : Opcode.Statement (.attn c p) := fun h => op_of_pvisIs h
theorem Opcode.pageFetchDone (page : Nat) (readOk : Bool) : Opcode.Statement (.pageFetchDone page readOk) := trivial
theorem Opcode.kvapp (c : CoreId) (p : PvisWords) : Opcode.Statement (.kvapp c p) := fun h => op_of_pvisIs h
theorem Opcode.kvpf (c : CoreId) (p : PvisWords) : Opcode.Statement (.kvpf c p) := fun h => op_of_pvisIs h
theorem Opcode.pageSpill (forBestEffort : Bool) : Opcode.Statement (.pageSpill forBestEffort) := trivial
theorem Opcode.spillCopyDone (page : Nat) : Opcode.Statement (.spillCopyDone page) := trivial
theorem Opcode.bfork (c : CoreId) (p : PvisWords) : Opcode.Statement (.bfork c p) := fun h => op_of_pvisIs h
theorem Opcode.bkill (c : CoreId) (p : PvisWords) : Opcode.Statement (.bkill c p) := fun h => op_of_pvisIs h
theorem Opcode.bprune (c : CoreId) (p : PvisWords) : Opcode.Statement (.bprune c p) := fun h => op_of_pvisIs h
theorem Opcode.killWaitDone (ctx : Fin 16) (branch : Nat) : Opcode.Statement (.killWaitDone ctx branch) := trivial
theorem Opcode.bcommit (c : CoreId) (p : PvisWords) : Opcode.Statement (.bcommit c p) := fun h => op_of_pvisIs h
theorem Opcode.sample (c : CoreId) (p : PvisWords) : Opcode.Statement (.sample c p) := fun h => op_of_pvisIs h
theorem Opcode.verify (c : CoreId) (p : PvisWords) : Opcode.Statement (.verify c p) := fun h => op_of_pvisIs h
theorem Opcode.smodal (c : CoreId) (p : PvisWords) : Opcode.Statement (.smodal c p) := fun h => op_of_pvisIs h
theorem Opcode.sscan (c : CoreId) (p : PvisWords) : Opcode.Statement (.sscan c p) := fun h => op_of_pvisIs h
theorem Opcode.scell (c : CoreId) (p : PvisWords) : Opcode.Statement (.scell c p) := fun h => op_of_pvisIs h
theorem Opcode.sreset (c : CoreId) (p : PvisWords) : Opcode.Statement (.sreset c p) := fun h => op_of_pvisIs h
theorem Opcode.sanchor (c : CoreId) (p : PvisWords) : Opcode.Statement (.sanchor c p) := fun h => op_of_pvisIs h
theorem Opcode.gather (c : CoreId) (p : PvisWords) : Opcode.Statement (.gather c p) := fun h => op_of_pvisIs h
theorem Opcode.gatherBagDeliver (bag : Nat) : Opcode.Statement (.gatherBagDeliver bag) := trivial
theorem Opcode.tpf (c : CoreId) (p : PvisWords) : Opcode.Statement (.tpf c p) := fun h => op_of_pvisIs h
theorem Opcode.scatter (c : CoreId) (p : PvisWords) : Opcode.Statement (.scatter c p) := fun h => op_of_pvisIs h
theorem Opcode.tableFillDone (table : Nat) (copy : Nat) (page : Nat) : Opcode.Statement (.tableFillDone table copy page) := trivial
theorem Opcode.writeBack (table : Nat) (page : Nat) : Opcode.Statement (.writeBack table page) := trivial
theorem Opcode.fset (c : CoreId) (p : PvisWords) : Opcode.Statement (.fset c p) := fun h => op_of_pvisIs h
theorem Opcode.fclr (c : CoreId) (p : PvisWords) : Opcode.Statement (.fclr c p) := fun h => op_of_pvisIs h
theorem Opcode.fwaits (c : CoreId) (p : PvisWords) : Opcode.Statement (.fwaits c p) := fun h => op_of_pvisIs h
theorem Opcode.fwaitc (c : CoreId) (p : PvisWords) : Opcode.Statement (.fwaitc c p) := fun h => op_of_pvisIs h
theorem Opcode.flagWaitSatisfied (c : CoreId) : Opcode.Statement (.flagWaitSatisfied c) := trivial
theorem Opcode.hbarr (c : CoreId) (p : PvisWords) : Opcode.Statement (.hbarr c p) := fun h => op_of_pvisIs h
theorem Opcode.hbwait (c : CoreId) (p : PvisWords) : Opcode.Statement (.hbwait c p) := fun h => op_of_pvisIs h
theorem Opcode.hatbandRelease (line : Fin 16) : Opcode.Statement (.hatbandRelease line) := trivial
theorem Opcode.ctake (c : CoreId) (p : PvisWords) : Opcode.Statement (.ctake c p) := fun h => op_of_pvisIs h
theorem Opcode.cpeek (c : CoreId) (p : PvisWords) : Opcode.Statement (.cpeek c p) := fun h => op_of_pvisIs h
theorem Opcode.cset (c : CoreId) (p : PvisWords) : Opcode.Statement (.cset c p) := fun h => op_of_pvisIs h
theorem Opcode.fence (c : CoreId) (p : PvisWords) : Opcode.Statement (.fence c p) := fun h => op_of_pvisIs h
theorem Opcode.evmark (c : CoreId) (p : PvisWords) : Opcode.Statement (.evmark c p) := fun h => op_of_pvisIs h
theorem Opcode.evsnap (c : CoreId) (p : PvisWords) : Opcode.Statement (.evsnap c p) := fun h => op_of_pvisIs h
theorem Opcode.nullEngineCommand (c : CoreId) (ends : List (Fin 12)) (tok : Option (BitVec 6)) : Opcode.Statement (.nullEngineCommand c ends tok) := trivial
theorem Opcode.clusterRetire (cl : ClusterId) (badLines : List (Nat × Nat)) : Opcode.Statement (.clusterRetire cl badLines) := trivial
theorem Opcode.failingPortDisable : Opcode.Statement (.failingPortDisable) := trivial
theorem Opcode.gddrTempRead (site : Fin 16) (t0 t1 : Nat) : Opcode.Statement (.gddrTempRead site t0 t1) := trivial
theorem Opcode.poisonBlockMerge (site : Fin 16) : Opcode.Statement (.poisonBlockMerge site) := trivial
theorem Opcode.nvmeCompletionPoll (port : Fin 4) (done : List (Nat × Bool)) : Opcode.Statement (.nvmeCompletionPoll port done) := trivial
theorem Opcode.driveBringUp (port : Fin 4) (gen width lbas grant : Nat) (nsids : List Nat) (wrr : Bool) : Opcode.Statement (.driveBringUp port gen width lbas grant nsids wrr) := trivial
theorem Opcode.driveReadyTimeout (port : Fin 4) : Opcode.Statement (.driveReadyTimeout port) := trivial
theorem Opcode.hedgeTimeout (read : Nat) : Opcode.Statement (.hedgeTimeout read) := trivial
theorem Opcode.nvmeCommandTimeout (port : Fin 4) (cid : Nat) : Opcode.Statement (.nvmeCommandTimeout port cid) := trivial
theorem Opcode.readGiveUp (read : Nat) : Opcode.Statement (.readGiveUp read) := trivial
theorem Opcode.remoteRowTimeout (read : Nat) : Opcode.Statement (.remoteRowTimeout read) := trivial
theorem Opcode.portDetectTimeout (port : Fin 16) : Opcode.Statement (.portDetectTimeout port) := trivial
theorem Opcode.portEqualiseDone (port : Fin 16) (lanes : Byte) : Opcode.Statement (.portEqualiseDone port lanes) := trivial
theorem Opcode.portFecLockDone (port : Fin 16) (lanes : Byte) : Opcode.Statement (.portFecLockDone port lanes) := trivial
theorem Opcode.identityFlit (port : Fin 16) (info : IdleInfo) : Opcode.Statement (.identityFlit port info) := trivial
theorem Opcode.creditInitDone (port : Fin 16) (credits : List (Nat × Nat × Nat)) : Opcode.Statement (.creditInitDone port credits) := trivial
theorem Opcode.dataFlit (port : Fin 16) (h : FlitHdr) (pkt : Option Packet) : Opcode.Statement (.dataFlit port h pkt) := trivial
theorem Opcode.idleFlit (port : Fin 16) (h : FlitHdr) (info : IdleInfo) : Opcode.Statement (.idleFlit port h info) := trivial
theorem Opcode.nakFlit (port : Fin 16) (h : FlitHdr) (seq : Nat) : Opcode.Statement (.nakFlit port h seq) := trivial
theorem Opcode.nakRepeat (port : Fin 16) : Opcode.Statement (.nakRepeat port) := trivial
theorem Opcode.retrainDone (port : Fin 16) (lanes : Byte) : Opcode.Statement (.retrainDone port lanes) := trivial
theorem Opcode.heartbeatIdle (port : Fin 16) : Opcode.Statement (.heartbeatIdle port) := trivial
theorem Opcode.lossOfSignal (port : Fin 16) : Opcode.Statement (.lossOfSignal port) := trivial
theorem Opcode.portSilenceTimeout (port : Fin 16) : Opcode.Statement (.portSilenceTimeout port) := trivial
theorem Opcode.heldPacketTimeout (port : Fin 16) : Opcode.Statement (.heldPacketTimeout port) := trivial
theorem Opcode.requestTimeout (tag : Nat) : Opcode.Statement (.requestTimeout tag) := trivial
theorem Opcode.writePacket (pkt : Packet) : Opcode.Statement (.writePacket pkt) := trivial
theorem Opcode.readRequestPacket (pkt : Packet) : Opcode.Statement (.readRequestPacket pkt) := trivial
theorem Opcode.readResponsePacket (pkt : Packet) : Opcode.Statement (.readResponsePacket pkt) := trivial
theorem Opcode.writeAcknowledgement (pkt : Packet) : Opcode.Statement (.writeAcknowledgement pkt) := trivial
theorem Opcode.remoteQueuePush (pkt : Packet) : Opcode.Statement (.remoteQueuePush pkt) := trivial
theorem Opcode.flagChangePacket (pkt : Packet) : Opcode.Statement (.flagChangePacket pkt) := trivial
theorem Opcode.rowRequest (pkt : Packet) : Opcode.Statement (.rowRequest pkt) := trivial
theorem Opcode.rowResponse (pkt : Packet) : Opcode.Statement (.rowResponse pkt) := trivial
theorem Opcode.collectiveData (pkt : Packet) : Opcode.Statement (.collectiveData pkt) := trivial
theorem Opcode.collectiveGrant (pkt : Packet) : Opcode.Statement (.collectiveGrant pkt) := trivial
theorem Opcode.collectiveTrigger (group : Fin 64) : Opcode.Statement (.collectiveTrigger group) := trivial
theorem Opcode.collectiveOperationDone (group : Fin 64) : Opcode.Statement (.collectiveOperationDone group) := trivial
theorem Opcode.collectiveWatchdog (group : Fin 64) : Opcode.Statement (.collectiveWatchdog group) := trivial
theorem Opcode.healthPacket (xyz : Nat × Nat × Nat) (state reason site : Nat) : Opcode.Statement (.healthPacket xyz state reason site) := trivial
theorem Opcode.slowHealthTimer : Opcode.Statement (.slowHealthTimer) := trivial
theorem Opcode.slowExtensionEnd (xyz : Nat × Nat × Nat) : Opcode.Statement (.slowExtensionEnd xyz) := trivial
theorem Opcode.silenceReport (reporter : Nat) (xyz : Nat × Nat × Nat) : Opcode.Statement (.silenceReport reporter xyz) := trivial
theorem Opcode.silenceEnded (reporter : Nat) (xyz : Nat × Nat × Nat) : Opcode.Statement (.silenceEnded reporter xyz) := trivial
theorem Opcode.silenceDeclarationTimeout (x : Byte) : Opcode.Statement (.silenceDeclarationTimeout x) := trivial
theorem Opcode.supervisorLost (xyz : Nat × Nat × Nat) (reason : Nat) : Opcode.Statement (.supervisorLost xyz reason) := trivial
theorem Opcode.supervisorTakeoverReady (xyz : Nat × Nat × Nat) (reason : Nat) : Opcode.Statement (.supervisorTakeoverReady xyz reason) := trivial
theorem Opcode.supervisorRelease (xyz : Nat × Nat × Nat) : Opcode.Statement (.supervisorRelease xyz) := trivial
theorem Opcode.cableCutTimeout (dim : Fin 3) : Opcode.Statement (.cableCutTimeout dim) := trivial
theorem Opcode.takeoverBegin (header slots : List Byte) : Opcode.Statement (.takeoverBegin header slots) := trivial
theorem Opcode.takeoverLoadModel (id : Nat) (img : Image) (blk : ModelBlock) (buddyHash : BitVec 384) (ws : List WeightLine) (objs : List (Nat × Nat × List Byte)) : Opcode.Statement (.takeoverLoadModel id img blk buddyHash ws objs) := trivial
theorem Opcode.shardCopyDone (table : Nat) (copy : Nat) : Opcode.Statement (.shardCopyDone table copy) := trivial
theorem Opcode.voltageLoopInterval (isl : Fin 256) (busy total rate : Nat) (limiting : Bool) : Opcode.Statement (.voltageLoopInterval isl busy total rate limiting) := trivial
theorem Opcode.enforcerInterval (watts : Nat) : Opcode.Statement (.enforcerInterval watts) := trivial
theorem Opcode.thermalEstimate (isl : Fin 256) (estimate dieHottest : Nat) : Opcode.Statement (.thermalEstimate isl estimate dieHottest) := trivial
theorem Opcode.warmupEnd : Opcode.Statement (.warmupEnd) := trivial
theorem Opcode.thermalTrip : Opcode.Statement (.thermalTrip) := trivial
theorem Opcode.powerBrakeAssert : Opcode.Statement (.powerBrakeAssert) := trivial
theorem Opcode.powerBrakeDeassert : Opcode.Statement (.powerBrakeDeassert) := trivial
theorem Opcode.inputOvercurrent : Opcode.Statement (.inputOvercurrent) := trivial
theorem Opcode.brakeRelease : Opcode.Statement (.brakeRelease) := trivial
theorem Opcode.uvHold (isl : Fin 256) : Opcode.Statement (.uvHold isl) := trivial
theorem Opcode.uvRelease (isl : Fin 256) : Opcode.Statement (.uvRelease isl) := trivial
theorem Opcode.uvHoldTimeout (isl : Fin 256) : Opcode.Statement (.uvHoldTimeout isl) := trivial
theorem Opcode.inputPowerOn (slot : Fin 8) (railsOk : Bool) : Opcode.Statement (.inputPowerOn slot railsOk) := trivial
theorem Opcode.inputUndervoltage : Opcode.Statement (.inputUndervoltage) := trivial
theorem Opcode.inputOvervoltage : Opcode.Statement (.inputOvervoltage) := trivial
theorem Opcode.perstAssert : Opcode.Statement (.perstAssert) := trivial
theorem Opcode.perstRelease (a b : SlotCheck) (bistFails : List Nat) (link : Word) : Opcode.Statement (.perstRelease a b bistFails link) := trivial
theorem Opcode.gddrTraining (site : Fin 16) (rate : Nat) : Opcode.Statement (.gddrTraining site rate) := trivial
theorem Opcode.serviceReady (drives : BitVec 4) : Opcode.Statement (.serviceReady drives) := trivial
theorem Opcode.telemetrySample (t : Telemetry) : Opcode.Statement (.telemetrySample t) := trivial
theorem Opcode.crownWatchdogExpiry : Opcode.Statement (.crownWatchdogExpiry) := trivial
theorem Opcode.crownReturn (a b : SlotCheck) : Opcode.Statement (.crownReturn a b) := trivial
theorem Opcode.smbusFallback : Opcode.Statement (.smbusFallback) := trivial
theorem Opcode.setEndpointId (eid : Byte) : Opcode.Statement (.setEndpointId eid) := trivial
theorem Opcode.getEndpointId : Opcode.Statement (.getEndpointId) := trivial
theorem Opcode.getMctpVersionSupport : Opcode.Statement (.getMctpVersionSupport) := trivial
theorem Opcode.getMessageTypeSupport : Opcode.Statement (.getMessageTypeSupport) := trivial
theorem Opcode.getVendorDefinedMessageSupport : Opcode.Statement (.getVendorDefinedMessageSupport) := trivial
theorem Opcode.gettid : Opcode.Statement (.gettid) := trivial
theorem Opcode.getpldmversion : Opcode.Statement (.getpldmversion) := trivial
theorem Opcode.getpldmtypes : Opcode.Statement (.getpldmtypes) := trivial
theorem Opcode.getpldmcommands : Opcode.Statement (.getpldmcommands) := trivial
theorem Opcode.getsensorreading (sensor : Nat) : Opcode.Statement (.getsensorreading sensor) := trivial
theorem Opcode.getstatesensorreadings (sensor : Nat) : Opcode.Statement (.getstatesensorreadings sensor) := trivial
theorem Opcode.getnumericeffectervalue (effecter : Nat) : Opcode.Statement (.getnumericeffectervalue effecter) := trivial
theorem Opcode.setnumericeffectervalue (effecter : Nat) (v : Nat) : Opcode.Statement (.setnumericeffectervalue effecter v) := trivial
theorem Opcode.getpdrrepositoryinfo : Opcode.Statement (.getpdrrepositoryinfo) := trivial
theorem Opcode.getpdr (record : Nat) : Opcode.Statement (.getpdr record) := trivial
theorem Opcode.pollforplatformeventmessage : Opcode.Statement (.pollforplatformeventmessage) := trivial
theorem Opcode.requestupdate : Opcode.Statement (.requestupdate) := trivial
theorem Opcode.getpackagedata : Opcode.Statement (.getpackagedata) := trivial
theorem Opcode.passcomponenttable (classification ident : Nat) : Opcode.Statement (.passcomponenttable classification ident) := trivial
theorem Opcode.updatecomponent (ident size : Nat) : Opcode.Statement (.updatecomponent ident size) := trivial
theorem Opcode.requestfirmwaredata (offset : Nat) (data : List Byte) : Opcode.Statement (.requestfirmwaredata offset data) := trivial
theorem Opcode.transfercomplete (result : Nat) : Opcode.Statement (.transfercomplete result) := trivial
theorem Opcode.verifycomplete (chk : SlotCheck) : Opcode.Statement (.verifycomplete chk) := trivial
theorem Opcode.applycomplete (result : Nat) : Opcode.Statement (.applycomplete result) := trivial
theorem Opcode.activatefirmware (delayed : Bool) : Opcode.Statement (.activatefirmware delayed) := trivial
theorem Opcode.getstatus : Opcode.Statement (.getstatus) := trivial
theorem Opcode.cancelupdate : Opcode.Statement (.cancelupdate) := trivial
theorem Opcode.keyenrol (slot : Fin 4) (key : BitVec 384) (signer : Fin 2) (sig : BitVec 768) : Opcode.Statement (.keyenrol slot key signer sig) := trivial
theorem Opcode.keyrevoke (firmware : Bool) (slot : Fin 4) (signer : Fin 2) (sig : BitVec 768) : Opcode.Statement (.keyrevoke firmware slot signer sig) := trivial
theorem Opcode.getcertchain (part : Nat) : Opcode.Statement (.getcertchain part) := trivial
theorem Opcode.getattestation (nonce : BitVec 256) : Opcode.Statement (.getattestation nonce) := trivial
theorem Opcode.signalDetected (port : Fin 16) (lanes : Byte) : Opcode.Statement (.signalDetected port lanes) := trivial
theorem Opcode.atsInvalidationRequest (addr len : Nat) : Opcode.Statement (.atsInvalidationRequest addr len) := trivial
theorem Opcode.pageRequestResponse (idx : Nat) (success : Bool) : Opcode.Statement (.pageRequestResponse idx success) := trivial
theorem Opcode.pageRequestTimeout (idx : Nat) : Opcode.Statement (.pageRequestTimeout idx) := trivial
theorem Opcode.flashLinkDown (port : Fin 4) : Opcode.Statement (.flashLinkDown port) := trivial
theorem Opcode.controllerFatalStatus (port : Fin 4) : Opcode.Statement (.controllerFatalStatus port) := trivial
theorem Opcode.d3hotTransition (toD3 : Bool) : Opcode.Statement (.d3hotTransition toD3) := trivial
theorem Opcode.dynamicAddressAssignment (addr : BitVec 7) : Opcode.Statement (.dynamicAddressAssignment addr) := trivial

end Sys2Proof.Laws
end

