-- ==== Sys2Proof/Laws/Plane.lean ====
section
/-!
SUPPORT. Laws of the power loops, of power-up and reset, and of the management helper.
-/
namespace Sys2Proof.Laws

open Sys2Proof Sys2Proof.Machine Sys2Proof.Claims

theorem judgeFloor_mv (m : Mod) (i k : Nat) : (Mod.island (Mod.judgeFloor m i) k).mv = (Mod.island m k).mv := by
  have hset : ∀ (x : Mod) y, y.mv = (Mod.island x i).mv → (Mod.island (Mod.setIsland x i y) k).mv =
      (Mod.island x k).mv := by
    intro x y hy
    simp only [Mod.island, Mod.setIsland, Mod.onPwr]
    by_cases h : k = i
    · subst h; rw [sget_sset_same]; exact hy
    · rw [sget_sset_ne _ _ _ h]
  simp only [Mod.judgeFloor]
  split
  · obtain ⟨q, e⟩ := alert_only (Mod.event (Mod.onPwr (Mod.setIsland m i { Mod.island m i with unmet := true }) fun p =>
      { p with unmetLatch := true }) .floorUnmet 0xFF i 0) .floorUnmet i
    obtain ⟨a, b, e2⟩ := event_only (Mod.onPwr (Mod.setIsland m i { Mod.island m i with unmet := true }) fun p =>
        { p with unmetLatch := true }) .floorUnmet 0xFF i 0
    rw [e, e2]
    exact hset m { Mod.island m i with unmet := true } rfl
  · split
    · exact hset m { Mod.island m i with unmet := false } rfl
    · rfl

theorem judgeFloors_mv (l : List Nat) (m : Mod) (k : Nat) : (Mod.island (Mod.judgeFloors m l) k).mv =
    (Mod.island m k).mv := by
  induction l generalizing m with
  | nil => rfl
  | cons a l ih =>
    show (Mod.island (Mod.judgeFloors (Mod.judgeFloor m a) l) k).mv = _
    rw [ih, judgeFloor_mv]

theorem brakeFold_mv (l : List Nat) (p : Power) (k : Nat) (f : Power → Nat → Power) (hf : ∀ q i, f q i =
    { q with islands := smod {} q.islands i fun y => { y with mv := minMv, byBrake := true } }) :
    (k ∈ l → (sget ({} : Island) (l.foldl f p).islands k).mv = minMv) ∧ ((sget ({} : Island) p.islands k).mv = minMv →
        (sget ({} : Island) (l.foldl f p).islands k).mv = minMv) := by
  induction l generalizing p with
  | nil => exact ⟨by simp, fun h => h⟩
  | cons a l ih =>
    rw [List.foldl_cons]
    have hs : ∀ h : (sget ({} : Island) p.islands k).mv = minMv, (sget ({} : Island) (f p a).islands k).mv = minMv := by
      intro h; rw [hf]; simp only [smod]
      by_cases e : k = a
      · subst e; rw [sget_sset_same]
      · rw [sget_sset_ne _ _ _ e]; exact h
    refine ⟨fun h => ?_, fun h => (ih _).2 (hs h)⟩
    rcases List.mem_cons.mp h with rfl | h
    · apply (ih _).2
      rw [hf]; simp only [smod]; rw [sget_sset_same]
    · exact (ih _).1 h

/-- The brake takes every island to 0.55 V (R456). -/
theorem applyBrake_mv (m : Mod) (k : Nat) (hk : k < 256) : (Mod.island (Mod.applyBrake m) k).mv = minMv := by
  simp only [Mod.applyBrake]
  rw [judgeFloors_mv]
  obtain ⟨q, e⟩ := alert_only (Mod.onPwr m fun p => (List.range 256).foldl (fun q i =>
      { q with islands := smod {} q.islands i fun y => { y with mv := minMv, byBrake := true } }) p) .brake 0
  rw [e]
  exact (brakeFold_mv (List.range 256) m.pwr k _ (fun q i => rfl)).1 (List.mem_range.mpr hk)

/-- Floor voltages lie in the range, rise with the rate and are multiples of 10 mV. -/
theorem floorMv_bounds : ∀ a b : Fin 183, a ≤ b → minMv ≤ floorMv a ∧ floorMv a ≤ floorMv b ∧ floorMv b ≤ maxMv
    ∧ floorMv a % 10 = 0 := by
  intro a b h
  have hm : ∀ a : Fin 183, minMv ≤ floorMv a ∧ floorMv a ≤ maxMv ∧ floorMv a % 10 = 0 :=
      by set_option maxRecDepth 100000 in decide
  have hs : ∀ a : Fin 182, floorMv a.val ≤ floorMv (a.val + 1) := by set_option maxRecDepth 100000 in decide
  refine ⟨(hm a).1, ?_, (hm b).2.1, (hm a).2.2⟩
  obtain ⟨a, ha⟩ := a; obtain ⟨b, hb⟩ := b
  simp only [Fin.mk_le_mk] at h
  show floorMv a ≤ floorMv b
  induction b with
  | zero => have := Nat.le_zero.mp h; subst this; exact Nat.le_refl _
  | succ b ih =>
    rcases Nat.lt_or_eq_of_le h with h | h
    · exact Nat.le_trans (ih (by omega) (by omega)) (hs ⟨b, by omega⟩)
    · subst h; exact Nat.le_refl _

theorem floorMv_min (r : Nat) : floorMv r = floorMv (min 182 r) := by
  simp [floorMv]

/-- An island aims inside the protective limits (R456, R457). -/
theorem target_facts (p : Power) (i : Nat) (x : Island) (pref : Nat) : minMv ≤ p.target i x pref ∧ (p.braked = true
    → p.target i x pref = minMv) ∧ (x.thermalCap ≤ maxMv → p.target i x pref ≤ maxMv) := by
  simp only [Power.target, Power.protect, minMv, maxMv]
  refine ⟨?_, fun h => ?_, fun h => ?_⟩
  · split <;> omega
  · rw [if_pos h]; omega
  · split <;> omega

theorem breakUpdate_only (g : Mgmt) : ∃ a b u n d z, g.breakUpdate =
    { g with slotA := a, slotB := b, upd := u, updNew := n, updData := d, updSize := z } := by
  simp only [Mgmt.breakUpdate, Mgmt.setTarget]
  repeat' split
  all_goals exact ⟨_, _, _, _, _, _, rfl⟩

theorem modSlot_only (g : Mgmt) (i : Nat) (f : FwSlot → FwSlot) : ∃ a b, g.modSlot i f =
    { g with slotA := a, slotB := b } := by
  simp only [Mgmt.modSlot]
  repeat' split
  all_goals exact ⟨_, _, rfl⟩

/-- What a loss of power leaves (R500). -/
theorem powerOff_facts (s : State) (a b : Bool) : let t := s.powerOff a b
    t.mod.sys.rails = false ∧ t.mod.sys.perst = true ∧ t.mod.sys.cfgReady = false ∧ t.mod.ctxs = []
    ∧ t.mod.cores = [] ∧ t.mod.mem.gddr = [] ∧ t.mod.mem.host = s.mod.mem.host ∧ t.mod.flash.media = s.mod.flash.media
    ∧ t.mgt.svn = s.mgt.svn ∧ t.mgt.imageKeys = s.mgt.imageKeys ∧ t.mgt.preferB = s.mgt.preferB ∧ t.pending
        = s.pending := by
  obtain ⟨a1, b1, u, n, d, z, e⟩ := breakUpdate_only s.mgt
  refine ⟨rfl, rfl, rfl, rfl, rfl, rfl, rfl, rfl, ?_, ?_, ?_, rfl⟩ <;> simp only [State.powerOff, Mgmt.cold, e]

/-- But for alerts, the module-wide state is the same. -/
def Quiet (a b : Sys) : Prop := ∃ o n l, b = { a with alerts := o, alertsLost := n, ibis := l }

theorem Quiet.refl (a : Sys) : Quiet a a := ⟨_, _, _, rfl⟩

theorem Quiet.trans {a b c : Sys} (h : Quiet a b) (k : Quiet b c) : Quiet a c := by
  obtain ⟨_, _, _, rfl⟩ := h; obtain ⟨_, _, _, rfl⟩ := k; exact ⟨_, _, _, rfl⟩

theorem alert_quiet (m : Mod) (k : AlertKind) (x : Nat) : Quiet m.sys (m.alert k x).sys := by
  simp only [Mod.alert]; split <;> exact ⟨_, _, _, rfl⟩

theorem event_sys (m : Mod) (code : EventCode) (c s p : Nat) : (m.event code c s p).sys = m.sys := by
  obtain ⟨a, b, e⟩ := event_only m code c s p; rw [e]

theorem judgeFloor_quiet (m : Mod) (i : Nat) : Quiet m.sys (Mod.judgeFloor m i).sys := by
  simp only [Mod.judgeFloor]
  split
  · refine Quiet.trans (b := (Mod.event (Mod.onPwr (Mod.setIsland m i { Mod.island m i with unmet := true }) fun p =>
      { p with unmetLatch := true }) .floorUnmet 0xFF i 0).sys) ?_ (alert_quiet _ _ _)
    rw [event_sys]; exact Quiet.refl _
  · split <;> exact Quiet.refl _

theorem judgeFloors_quiet (l : List Nat) (m : Mod) : Quiet m.sys (Mod.judgeFloors m l).sys := by
  induction l generalizing m with
  | nil => exact Quiet.refl _
  | cons a l ih => exact (judgeFloor_quiet m a).trans (ih _)

theorem applyBrake_quiet (m : Mod) : Quiet m.sys (Mod.applyBrake m).sys := by
  unfold Mod.applyBrake
  refine Quiet.trans (b := (Mod.alert (Mod.onPwr m fun p => (List.range 256).foldl (fun q i =>
      { q with islands := smod {} q.islands i fun y => { y with mv := minMv, byBrake := true } }) p) .brake 0).sys) ?_
      (judgeFloors_quiet _ _)
  generalize hm : (Mod.onPwr m fun p => (List.range 256).foldl (fun q i =>
      { q with islands := smod {} q.islands i fun y => { y with mv := minMv, byBrake := true } }) p) = m1
  have : m1.sys = m.sys := by rw [← hm]; unfold Mod.onPwr; with_reducible rfl
  rw [← this]; exact alert_quiet _ _ _

/-- What 54 V brings up (R498). -/
theorem powerOn_facts (s : State) (slot : Nat) (ok : Bool) (h : s.mod.sys.input = false) : let t := s.powerOn slot ok
   t.mod.sys.input = true ∧ t.mod.sys.rails = ok ∧ t.mod.sys.perst = true ∧ t.mod.sys.cfgReady = false ∧ t.mgt.slotId
       = slot ∧ t.mgt.svn = s.mgt.svn := by
  intro t
  have ht : t = s.powerOn slot ok := rfl
  simp only [State.powerOn, h] at ht
  rw [if_neg (by simp)] at ht
  have hs := (powerOff_facts s true false).2.2.2.2.2.2.2.2.1
  rw [ht]
  refine ⟨?_, ?_, ?_, ?_, rfl, hs⟩ <;> (simp only; split) <;> try rfl
  all_goals
    obtain ⟨a, b, c, e⟩ := applyBrake_quiet
        { (s.powerOff true false).mod with sys := { (s.powerOff true false).mod.sys with rails := ok } }
    rw [e]; try rfl

/-- What PERST# leaves of the helper (R501). -/
theorem held_facts (s : State) : let t := s.mgtHeld
   t.policy = 0 ∧ t.sideband = s.mgt.sideband ∧ t.svn = s.mgt.svn ∧ t.telemetry = s.mgt.telemetry := by
  obtain ⟨a1, b1, u, n, d, z, e⟩ := breakUpdate_only s.mgt
  unfold State.mgtHeld
  simp only [e]
  split
  · obtain ⟨a, b, e2⟩ := modSlot_only
      { s.mgt with slotA := a1, slotB := b1, upd := u, updNew := n, updData := d, updSize := z } s.mgt.booted fun x =>
      { x with failures := x.failures - 1 }
    simp only [e2, and_self]
  · simp only [and_self]

/-- What the ROM leaves when it has booted a slot (R485). -/
theorem boot_facts (s : State) (a b : SlotCheck) : let t := s.boot a b
    t.mgt.booted = s.mgt.bootSlot a b ∧ t.mod.sys.crown = (if s.mgt.bootSlot a b = 2 then 3 else 2) ∧ t.mgt.fallback =
        (s.mgt.bootSlot a b != b2n s.mgt.preferB)
    ∧ t.mod.sys.perst = s.mod.sys.perst ∧ t.mod.sys.cfgReady = s.mod.sys.cfgReady ∧ t.mod.sys.timer = s.mod.sys.timer := by
  unfold State.boot
  intro t
  refine ⟨rfl, rfl, rfl, ?_, ?_, ?_⟩ <;> simp only [t] <;> split <;> try rfl
  all_goals
    obtain ⟨o, n, l, e⟩ := alert_quiet s.mod .bootFallback 0
    rw [e]

theorem drainEvents_sys (m : Mod) (n : Nat) : (Mod.drainEvents m n).sys = m.sys := by
  have := @drainEvents_only n m
  obtain ⟨a, b, e⟩ := this; rw [e]

theorem byHelper_on {s : State} (h : s.mod.sys.input = true) (f : State → State) : s.byHelper f = .next (f s) := by
  simp [State.byHelper, State.helperUp, h]

theorem byCrown_on {s : State} (h : s.mod.sys.input = true) (k : s.crownServes = true) (f : State → State) : s.byCrown f
    = .next (f s) := by
  simp [State.byCrown, byHelper_on h, k]

theorem byCrown_off {s : State} (h : s.mod.sys.input = true) (k : s.crownServes = false) (f : State → State)
    : s.byCrown f = .next (s.answer errNotReady []) := by
  simp [State.byCrown, byHelper_on h, k]

theorem byVendor_on {s : State} (h : s.mod.sys.input = true) (k : s.crownServes = true) (f : State → State)
    : s.byVendor f = .next (f s) := by
  simp [State.byVendor, byHelper_on h, k]

theorem inState_on {s : State} {u : UpdState} (h : s.mgt.upd = u) (f : State → State) : s.inState u f = f s := by
  simp [State.inState, h]

theorem keyOp_on {s : State} (h : s.mod.sys.input = true) (k : s.crownServes = true) (ok : Bool) (f) :
    s.keyOp ok f = .next (if s.mgt.locked || !ok then s.answer errInvalid [] else ({ s with mgt := f s.mgt }
        : State).answer 0 []) :=
  byVendor_on h k _

/-- A field behind bytes that are skipped. -/
theorem at_append (a b : List Byte) (k n : Nat) (h : a.length ≤ k) : at_ (a ++ b) k n = at_ b (k - a.length) n := by
  simp only [at_, List.drop_append, List.drop_eq_nil_of_le h, List.nil_append]

/-- A report holds its nonce at byte 8 (R489). -/
theorem report_nonce (s : State) (n : BitVec 256) : at_ (s.report n) 8 32 = n.toNat := by
  unfold State.report
  simp only [List.append_assoc]
  rw [at_append _ _ _ _ (by rw [leBytes_length] <;> omega), leBytes_length]
  rw [at_append _ _ _ _ (by rw [leBytes_length] <;> omega), leBytes_length]
  rw [at_append _ _ _ _ (by rw [leBytes_length] <;> omega), leBytes_length]
  rw [show 8 - 4 - 2 - 2 = 0 from rfl, at_here]
  exact Nat.mod_eq_of_lt (show n.toNat < 256 ^ 32 from n.isLt)

end Sys2Proof.Laws
end

