-- ==== Sys2Proof/Laws/Programs.lean ====
section
/-!
SUPPORT. Laws of streams, branches, key-value pages and visor registers.
-/
namespace Sys2Proof.Laws

open Sys2Proof Sys2Proof.Machine Sys2Proof.Claims

theorem streamDone_ok {m1 : Mod} {sat : Bool} (m : Mod) (c : Nat) (p) (r : StateRun) (ns per steps po)
   (h : r.fault = none) (ho : Mod.streamOutput r.m c p per r.out (po || r.poison) = (m1, none, sat)) :
   Mod.streamDone m c p r ns per steps po =
    Mod.orCond (Mod.macroPush (Mod.macroPoison (ns.foldl (fun y n => if steps = 0 then y else Mod.addSteps y c n steps) m1)
      c (po || r.poison)) c p (po || r.poison)) c (condVec (r.out.any fun w => (f32 w).isNan) false sat false) := by
  simp only [Mod.streamDone, h, ho]

/-- A stream instruction whose streams are named and whose table entries are readable runs (R141). -/
theorem streamOp_ok {c : Nat} {p : PvisWords} {run : Ctx → List Nat → Mod → Mod} {m : Mod} {x : Ctx} (ns : List Nat)
   (hns : streamsOf (Mod.core m c) p = ns)
   (h : Mod.ctx m (Mod.ctxOf m c) = some x) (hj : Mod.jobNames m c ns = true)
   (he : Mod.entriesBad m (Mod.ctxOf m c) x (ns.map fun n => { stream := n }) = none) :
   Mod.streamOp c p run m = run x ns m := by
  subst hns
  simp only [Mod.streamOp, h, hj, he, Bool.not_true, Bool.false_eq_true, if_false]

theorem cores_fold {α : Type} (f : Mod → α → Mod) (hf : ∀ m a, (f m a).cores = m.cores) (l : List α) (m : Mod) :
    (l.foldl f m).cores = m.cores := by
  induction l generalizing m with
  | nil => rfl
  | cons a l ih => rw [List.foldl_cons, ih, hf]

theorem core_of_cores {m m' : Mod} (h : m'.cores = m.cores) (c : Nat) : Mod.core m' c = Mod.core m c := by
  simp only [Mod.core, h]

/-- Resets that take place at once zero the steps of the streams. -/
theorem resetNow_ok {m m1 : Mod} {c : Nat} {p ns} (h : Mod.applyResets m (Mod.ctxOf m c) ns = (m1, none)) :
    Mod.resetNow m c p ns = Mod.modFlight m1 (Mod.core m c).job fun f =>
      { f with steps := ns.foldl (fun t n => sset 0 t n 0) f.steps } := by
  simp only [Mod.resetNow, h]

/-- A branch instruction whose branch entries are readable runs. -/
theorem branchOp_ok {c : Nat} {p : PvisWords} {bs : Core → List Nat} {run : Ctx → Mod → Mod} {m : Mod} {x : Ctx}
   (h : Mod.ctx m (Mod.ctxOf m c) = some x) (hb : x.blk.branchTable ≠ 0)
   (he : Mod.branchesBad m (Mod.ctxOf m c) x true ((bs (Mod.core m c)).filter (· < 4096)) = none) :
   Mod.branchOp c p bs run m = run x m := by
  simp only [Mod.branchOp, h, hb, he, if_false]

theorem ctx_modCtx (m : Mod) (k : Nat) (f : Ctx → Ctx) : Mod.ctx (Mod.modCtx m k f) k = (Mod.ctx m k).map f := by
  simp [Mod.ctx, Mod.modCtx, smod]

theorem branch_set (x : Ctx) (b d : Nat) (f : BranchRec → BranchRec) :
   Ctx.branch { x with branches := smod {} x.branches b f } d = if d = b then f (x.branch b) else x.branch d := by
  by_cases h : d = b
  · subst h; simp [Ctx.branch, smod]
  · simp [Ctx.branch, smod, h, sget_sset_ne]

/-- Memory and the branches of context `k` are the same. -/
def Keeps (k : Nat) (m m' : Mod) : Prop := m'.mem = m.mem ∧
  ∀ x, Mod.ctx m k = some x → ∃ x', Mod.ctx m' k = some x' ∧ x'.branches = x.branches

theorem Keeps.refl (k m) : Keeps k m m := ⟨rfl, fun x h => ⟨x, h, rfl⟩⟩

theorem Keeps.trans {k a b c} (h1 : Keeps k a b) (h2 : Keeps k b c) : Keeps k a c := by
  refine ⟨h2.1.trans h1.1, fun x hx => ?_⟩
  obtain ⟨y, hy, e⟩ := h1.2 x hx
  obtain ⟨z, hz, e2⟩ := h2.2 y hy
  exact ⟨z, hz, e2.trans e⟩

theorem keeps_addRef (k m p) : Keeps k m (Mod.addRef m p) := by
  unfold Mod.addRef
  split
  · exact .refl _ _
  · exact ⟨rfl, fun x h => ⟨x, h, rfl⟩⟩

theorem keeps_onEntries (k es m) : Keeps k m (Mod.onEntries Mod.addRef m es) := by
  induction es generalizing m with
  | nil => exact .refl _ _
  | cons e es ih => exact ((keeps_addRef k _ _).trans (keeps_addRef k _ _)).trans (ih _)

theorem keeps_setList (k m key l) : Keeps k m (Mod.setList m k key l) := by
  refine ⟨rfl, fun x h => ?_⟩
  unfold Mod.setList
  rw [ctx_modCtx, h]
  exact ⟨_, rfl, rfl⟩

theorem keeps_fold {α} (k) (f : Mod → α → Mod) (hf : ∀ m a, Keeps k m (f m a)) (l : List α) (m) : Keeps k m
    (l.foldl f m) := by
  induction l generalizing m with
  | nil => exact .refl _ _
  | cons a l ih => exact (hf _ _).trans (ih _)

theorem killOp_gives {s : State} {c : CoreId} {p : PvisWords} {x : Ctx} {op : Nat} {b : Nat} {n : String} (prune : Bool)
   (h : Issues s c op p) (hx : Mod.ctx s.mod (Mod.ctxOf s.mod c) = some x) (hb : x.blk.branchTable ≠ 0) 
   (he : Mod.branchesBad (issued s c p) (Mod.ctxOf s.mod c) x true ([b].filter (· < 4096)) = none)
   (hbn : (past s c p).branchNo (fieldRd p) = b) {m : Mod}
   (hm : Mod.killOp c b prune x (issued s c p) = m) :
  Gives (coreCmd n op c p s id fun m => 
    let b := (Mod.core m c).branchNo (fieldRd p)
    Mod.branchOp c p (fun _ => [b]) (Mod.killOp c b prune) m) s m := by
  refine gives_cmd_same _ _ h ?_
  have h1' : Mod.ctx (issued s c p) (Mod.ctxOf (issued s c p) c) = some x := by rw [ctxOf_issued]; exact hx
  show (let b := (Mod.core (issued s c p) c).branchNo (fieldRd p)
    Mod.branchOp c p (fun _ => [b]) (Mod.killOp c b prune) (issued s c p)) = m
  simp only [core_issued, hbn]
  rw [branchOp_ok h1' hb (by rw [ctxOf_issued]; exact he), hm]

theorem pvisIs_op {op : Nat} {p : PvisWords} (h : pvisIs op p = true) : PvisWords.op p = op := by
  simp only [pvisIs, Bool.and_eq_true, beq_iff_eq] at h
  exact h.1

theorem page_def (m : Mod) (p : Nat) : Mod.page m p = sget {} m.kv.descs p := rfl

theorem freeSpillSlot_cores (m : Mod) (d) : (Mod.freeSpillSlot m d).cores = m.cores := by
  simp only [Mod.freeSpillSlot]
  repeat' split
  all_goals rfl

theorem modPage_cores (m : Mod) (p f) : (Mod.modPage m p f).cores = m.cores := rfl

theorem tryRelease_cores (m : Mod) (p : Nat) : (Mod.tryRelease m p).cores = m.cores := by
  simp only [Mod.tryRelease]
  repeat' split
  · rfl
  · rfl
  · rw [modPage_cores, freeSpillSlot_cores]
  · rfl

/-- Only cores that wait for the page go on. -/
theorem core_wakePage (m : Mod) (page q : Nat) :
    Mod.core (Mod.wakePage m page) q = if (Mod.core m q).wait = .page page then { Mod.core m q with wait := .none }
        else Mod.core m q := by
  have h := sget_map {} m.cores (fun _ (y : Core) => if y.wait = .page page then { y with wait := .none } else y) q
      (by simp)
  have e : (Mod.wakePage m page).cores
      = m.cores.map fun r => (r.1, if r.2.wait = .page page then { r.2 with wait := .none } else r.2) := by
    apply List.map_congr_left
    intro r _
    split <;> rfl
  rw [core_def, e]
  exact h

theorem hostWrite_vis (m : Mod) (a b c) : (Mod.hostWrite m a b c).vis = m.vis := rfl

theorem brimLevel_vis (m : Mod) (v : Visor) (d c) : Mod.brimLevel { m with vis := v } d c = Mod.brimLevel m d c := rfl

theorem hostWrite_sites (m : Mod) (a b p) : (Mod.hostWrite m a b p).mem.sites = m.mem.sites := rfl

theorem hostWrite_fab (m : Mod) (a b p) : (Mod.hostWrite m a b p).fab = m.fab := rfl

theorem brimLevel_hw (m : Mod) (a b p d c) : Mod.brimLevel (Mod.hostWrite m a b p) d c = Mod.brimLevel m d c := by
  simp only [Mod.brimLevel, hostWrite_sites, hostWrite_fab]

/-- Where no level of a brim die changes, no brim counter counts an edge. -/
theorem edges_br {a b : Mod} (h : ∀ d c, Mod.brimLevel a d c = Mod.brimLevel b d c) : (Mod.edges a b).vis.brVals
    = b.vis.brVals := by
  have : ∀ l v, (l : List (Nat × Word)).foldl (edgesBr a b) v = v := by
    intro l
    induction l with
    | nil => intro v; rfl
    | cons p l ih =>
      intro v
      rw [List.foldl_cons]
      have : edgesBr a b v p = v := by
        unfold edgesBr
        simp only [h]
        rw [if_neg]
        simp
      rw [this, ih]
  exact this _ _

/-- The state a register write leaves. -/
theorem onReg_edges {s : State} (hr : s.mod.sys.cfgReady = true) (f : Mod → Mod) (o : Out) (ho : o = .next (s.onReg f))
    (P : Mod → Prop)
   (h : P (Mod.edges s.mod (f s.mod))) : ∃ t, o = .next t ∧ P t.mod := by
  refine ⟨{ s with mod := Mod.edges s.mod (f s.mod) }, ?_, h⟩
  rw [ho, onReg_ready hr]; rfl

theorem edges_rest (a b : Mod) : (Mod.edges a b).vis.clsel = b.vis.clsel ∧ (Mod.edges a b).vis.clInForce = b.vis.clInForce ∧
   (Mod.edges a b).mem = b.mem ∧ (Mod.edges a b).vis.brsel = b.vis.brsel ∧ (Mod.edges a b).vis.snaps = b.vis.snaps :=
       ⟨rfl, rfl, rfl, rfl, rfl⟩

theorem writeClsel_vis (m : Mod) (c v) : (Mod.writeClsel m c v).vis =
    { m.vis with clsel := sset 0 m.vis.clsel c (v &&& clselMask) } := rfl

theorem writeClsel_mem (m : Mod) (c v) : (Mod.writeClsel m c v).mem = m.mem := rfl

theorem writeBrsel_vis (m : Mod) (n v) : (Mod.writeBrsel m n v).vis = { m.vis with
      brsel := sset 0 m.vis.brsel n ((v &&& brselMask) ^^^ 0x00FF_0000)
      brVals := sset {} m.vis.brVals n {} } := rfl

theorem writeBrsel_mem (m : Mod) (n v) : (Mod.writeBrsel m n v).mem = m.mem := rfl

theorem writeBrsel_level (m : Mod) (n v d c) : Mod.brimLevel (Mod.writeBrsel m n v) d c = Mod.brimLevel m d c := rfl

theorem brsel_def (m : Mod) (n : Nat) : Mod.brsel m n = ((sget 0 m.vis.brsel n) ^^^ 0x00FF_0000).toNat := rfl

/-- The module with another visor. -/
def setVis (m : Mod) (v : Visor) : Mod := { m with vis := v }

theorem setVis_level (m : Mod) (v d c) : Mod.brimLevel (setVis m v) d c = Mod.brimLevel m d c := rfl

theorem setVis_mem (m : Mod) (v) : (setVis m v).mem = m.mem := rfl

theorem setVis_vis (m : Mod) (v) : (setVis m v).vis = v := rfl

theorem setVis_def (m : Mod) (v) : { m with vis := v } = setVis m v := rfl

/-- A snapshot the host asks for: what is written and what is counted (R475). -/
theorem hostSnap_eq (m : Mod) (v : Word) (h0 : bitAt v.toNat 0 = true) (hb : m.vis.busy = false) : Mod.hostSnap m v =
    let k := fld v.toNat 7 4
    let brim := bitAt v.toNat 2
    setVis (Mod.hostWrite m m.vis.snapAddr.toNat (if brim then Mod.snapBytes m 2 0xFF ((List.range 4).map
        (Mod.brimRecord m)) else Mod.snapBytes m 1 k ((Mod.ctxRoleClusters m k).map (Mod.clusterRecord m k))) false)
     (if !bitAt v.toNat 1 then { m.vis with snaps := m.vis.snaps + 1 }
        else if brim then { m.vis with snaps := m.vis.snaps + 1, brVals := [] }
        else { m.vis with snaps := m.vis.snaps + 1, clVals := m.vis.clVals.filter fun p => p.1 / 4 % 16 != k }) := by
  simp only [Mod.hostSnap]
  rw [if_neg (by rw [h0, hb]; decide)]
  simp only [hostWrite_vis]
  have e : ∀ b : Bool, (if b = true then Mod.snapBytes m 2 255 (if b = true then (List.range 4).map
      (Mod.brimRecord m) else (Mod.ctxRoleClusters m (fld v.toNat 7 4)).map (Mod.clusterRecord m (fld v.toNat 7 4)))
      else Mod.snapBytes m 1 (fld v.toNat 7 4) (if b = true then (List.range 4).map (Mod.brimRecord m) else
      (Mod.ctxRoleClusters m (fld v.toNat 7 4)).map (Mod.clusterRecord m (fld v.toNat 7 4)))) = if b = true
      then Mod.snapBytes m 2 255 ((List.range 4).map (Mod.brimRecord m)) else Mod.snapBytes m 1 (fld v.toNat 7 4)
      ((Mod.ctxRoleClusters m (fld v.toNat 7 4)).map (Mod.clusterRecord m (fld v.toNat 7 4))) := by
    intro b; split <;> rfl
  rw [e]
  generalize Mod.hostWrite _ _ _ _ = hw
  rfl

theorem snap_brim (m : Mod) (v : Word) (h0 : bitAt v.toNat 0 = true) (h2 : bitAt v.toNat 2 = true) (hb : m.vis.busy
    = false) :
   ∃ b, Mod.hostSnap m v =
        setVis (Mod.hostWrite m m.vis.snapAddr.toNat (Mod.snapBytes m 2 0xFF ((List.range 4).map (Mod.brimRecord m))) false)
          { m.vis with snaps := m.vis.snaps + 1, brVals := b } ∧ (bitAt v.toNat 1 = true → b = []) := by
  rw [hostSnap_eq m v h0 hb, h2]
  by_cases h1 : bitAt v.toNat 1 = true
  · exact ⟨[], by rw [h1]; simp only [Bool.not_true, if_true, Bool.false_eq_true, if_false], fun _ => rfl⟩
  · refine ⟨m.vis.brVals, ?_, fun h => absurd h h1⟩
    rw [(Bool.not_eq_true _).mp h1]
    simp only [Bool.not_false, if_true]

theorem snap_cl (m : Mod) (v : Word) (h0 : bitAt v.toNat 0 = true) (h2 : bitAt v.toNat 2 = false) (hb : m.vis.busy
    = false) :
   ∃ b, Mod.hostSnap m v =
        setVis (Mod.hostWrite m m.vis.snapAddr.toNat (Mod.snapBytes m 1 (fld v.toNat 7 4) ((Mod.ctxRoleClusters m
            (fld v.toNat 7 4)).map (Mod.clusterRecord m (fld v.toNat 7 4)))) false)
          { m.vis with snaps := m.vis.snaps + 1, clVals := b } := by
  by_cases h1 : bitAt v.toNat 1 = true
  · refine ⟨m.vis.clVals.filter fun p => p.1 / 4 % 16 != fld v.toNat 7 4, ?_⟩
    simp only [Mod.hostSnap, h0, h2, hb, hostWrite_vis, h1, Bool.not_true, Bool.or_false, if_false,
        Bool.false_eq_true]
    generalize Mod.snapBytes _ _ _ _ = bs
    simp only [setVis]
  · refine ⟨m.vis.clVals, ?_⟩
    simp only [Mod.hostSnap, h0, h2, hb, hostWrite_vis, Bool.not_eq_true _ ▸ h1, Bool.not_true, Bool.or_false, if_true,
        if_false, Bool.false_eq_true, Bool.not_false]
    generalize Mod.snapBytes _ _ _ _ = bs
    simp only [setVis]

end Sys2Proof.Laws
end

