-- ==== Sys2Proof/Laws/Whole.lean ====
section
/-!
SUPPORT. Laws over all commands: the rows that act on the management helper, the boot or the answers, and that every other
row that is no PVIS instruction answers a next state with the queue and the helper as they were.
-/
namespace Sys2Proof.Laws

open Sys2Proof Sys2Proof.Machine Sys2Proof.Claims

/-- A next state with the queue of commands and the management helper as they were. -/
def Kept (o : Out) (s : State) : Prop := ∃ t, o = .next t ∧ t.pending = s.pending ∧ t.mgt = s.mgt

theorem kept_onMod (s : State) (f : Mod → Mod) : Kept (.next (s.onMod f)) s := ⟨_, rfl, rfl, rfl⟩

theorem kept_onReg (s : State) (f : Mod → Mod) : Kept (.next (s.onReg f)) s := by
  unfold State.onReg
  split <;> exact ⟨_, rfl, rfl, rfl⟩

theorem kept_onCrown (s : State) (f : Mod → Mod) : Kept (.next (s.onCrown f)) s := by
  unfold State.onCrown
  split <;> exact ⟨_, rfl, rfl, rfl⟩

theorem kept_bar4 (s : State) (o l w) : Kept (.next (s.bar4 o l w)) s := by
  refine ⟨_, rfl, ?_⟩
  unfold State.bar4
  simp only
  repeat' split
  all_goals exact ⟨rfl, rfl⟩

/-- The rows that may change the management helper, the fuses or the answers. -/
def actsOnHelper : Instr → Bool
  | .inputPowerOn .. | .inputUndervoltage | .inputOvervoltage | .thermalTrip | .perstAssert | .perstRelease .. | .serviceReady ..
  | .crownWatchdogExpiry | .crownReturn .. | .mailboxInbound .. | .mailboxOutbound .. | .crnMboxOutReadyClear
  | .secPolicyWrite .. | .registerWrite .. | .telemetrySample .. | .smbusFallback | .dynamicAddressAssignment ..
  | .setEndpointId .. | .getEndpointId | .getMctpVersionSupport | .getMessageTypeSupport | .getVendorDefinedMessageSupport
  | .gettid | .getpldmversion | .getpldmtypes | .getpldmcommands | .getsensorreading .. | .getstatesensorreadings ..
  | .getnumericeffectervalue .. | .setnumericeffectervalue .. | .getpdrrepositoryinfo | .getpdr .. | .pollforplatformeventmessage
  | .requestupdate | .getpackagedata | .passcomponenttable .. | .updatecomponent .. | .requestfirmwaredata ..
  | .transfercomplete .. | .verifycomplete .. | .applycomplete .. | .activatefirmware .. | .getstatus | .cancelupdate
  | .keyenrol .. | .keyrevoke .. | .getcertchain .. | .getattestation .. => true
  | _ => false

/-- Every other row that is no PVIS instruction answers, and keeps the queue and the helper. -/
theorem kept (i : Instr) (s : State) (h : actsOnHelper i = false) (h2 : pvisRow i = none) : Kept (exec i s) s := by
  cases i
  all_goals try (cases h; done)
  all_goals try (cases h2; done)
  all_goals simp only [exec]
  all_goals first
    | exact kept_onMod _ _
    | exact kept_onReg _ _
    | exact kept_onCrown _ _
    | exact kept_bar4 _ _ _ _

/-- Setting a bit leaves the bits that are set. -/
theorem bitAt_setBit {x i j : Nat} (h : bitAt x j = true) : bitAt (setBit x i) j = true := by
  have e : ∀ y k, bitAt y k = y.testBit k := by
    intro y k
    simp only [bitAt, Nat.testBit, Nat.shiftRight_eq_div_pow, Nat.one_and_eq_mod_two]
    rcases Nat.mod_two_eq_zero_or_one (y / 2 ^ k) with h | h <;> simp [h]
  rw [e] at *
  simp [setBit, Nat.testBit_or, h]

/-- The slot a boot chooses is one of three. -/
theorem bootSlot_le (g : Mgmt) (a b : SlotCheck) : g.bootSlot a b ≤ 2 := by
  unfold Mgmt.bootSlot
  have : b2n g.preferB ≤ 1 := by cases g.preferB <;> decide
  simp only
  repeat' split
  all_goals omega

/-- The slot that runs after a Crown reset is one of three. -/
theorem rebootSlot_le (g : Mgmt) (a b : SlotCheck) : g.rebootSlot a b ≤ 2 := by
  unfold Mgmt.rebootSlot
  have := bootSlot_le g a b
  simp only
  repeat' split
  all_goals omega

end Sys2Proof.Laws
end

