-- ==== Sys2Proof/Tests/Slice0.lean ====
section
/-!
SUPPORT. Tests. For every statement with hypotheses a theorem `witness_…` shows states and operands that meet them, clause by
clause and at boundary values; the theorems `test_…` check the spec's own examples and that ill-formed commands are refused.
-/
namespace Sys2Proof.Tests

open Sys2Proof Sys2Proof.Machine Sys2Proof.Claims Sys2Proof.Laws

-- The evaluations run one after another: side by side they need a thread and its stack each.
set_option Elab.async false

/-! ## Small states -/

/-- The words of an instruction: opcode, fields of the primary word by their lowest bit, extension words. -/
def pv (op : Nat) (fs : List (Nat × Nat)) (e : List (List (Nat × Nat)) := []) : PvisWords :=
  let word (fs : List (Nat × Nat)) : DWord := BitVec.ofNat 64 ((fs.map fun q => q.2 * 2 ^ q.1).foldl (· + ·) 0)
  ⟨word ((56, op) :: (54, e.length) :: fs), word (nth [] e 0), word (nth [] e 1), word (nth [] e 2)⟩

/-- A core that runs a program of context 1. -/
def core0 : Core := { ctx := some 1, running := true }

/-- The module with its Crown running, context 1 with the given record, and core 0 as given. -/
def mod0 (x : Core) (c : Ctx) : Mod := { State.reset.mod with
  sys := { State.reset.mod.sys with crown := 0, serviceReady := true }
  ctxs := [(1, some c)]
  cores := [(0, x)]
  clusters := [(0, { job := some 0, ctx := some 1, bank0 := { state := 3, fetch := 1, ctx := some 1 } })] }

/-- The state of that module. -/
def st (x : Core := core0) (c : Ctx := {}) : State := { State.reset with mod := mod0 x c }

/-- A state with another module. -/
def withMod (m : Mod) : State := { State.reset with mod := m }

theorem issues_of {s : State} {c : CoreId} {op : Nat} {p : PvisWords}
    (h : (pvisIs op p && Mod.canIssue s.mod c && decide (checkOperands (operandsOf p (Mod.core s.mod c).regs) = .ok)) = true) :
    Issues s c op p := by
  simp only [Bool.and_eq_true, decide_eq_true_eq] at h
  exact ⟨h.1.1, h.1.2, h.2⟩

theorem macro_of {s : State} {c : CoreId} {op mask : Nat} {p : PvisWords}
    (h : (pvisIs op p && Mod.canIssue s.mod c && decide (checkOperands (operandsOf p (Mod.core s.mod c).regs) = .ok)
      && Mod.maskIdle s.mod c mask && Mod.macroRoom s.mod c p && decide (PvisWords.tmode p < 2)) = true) :
    IssuesMacro s c op mask p := by
  simp only [Bool.and_eq_true, decide_eq_true_eq] at h
  exact ⟨⟨h.1.1.1.1.1, h.1.1.1.1.2, h.1.1.1.2⟩, h.1.1.2, h.1.2, h.2⟩

theorem right_of {α β : Type} {x : α ⊕ β} (h : x.isRight = true) : ∃ b, x = .inr b := by
  cases x with
  | inl a => simp at h
  | inr b => exact ⟨b, rfl⟩

/-- Page tables in host memory: the first 2 MiB of either space lie at bus address 0x4000_0000, writable and pinned. -/
def tables : SMap Byte := [(0x10000, 0x09), (0x10002, 0x02), (0x20000, 0x1F), (0x20003, 0x40)]

/-- Objects 0 to 9 at address 0. -/
def atZero : List ObjPlace := (List.range 10).map fun n => { object := n, address := 0 }

/-- A model and a context whose roots are those tables, and host memory with `bytes` above them. -/
def stM (x : Core) (c : Ctx) (bytes : SMap Byte := []) : State :=
  let m := mod0 x { c with blk := { c.blk with root := 0x10009 } }
  withMod { m with
    mem := { m.mem with host := tables ++ bytes }
    model := some { blk := { root := 0x10009, poolVa := 0x8000_0000_0000, poolPages := 4, places := atZero } } }

/-! ## Witnesses: what a statement assumes can be met -/

theorem witness_StepRunsTheFrontCommand :
    (st).mod.sys.perst = false ∧ (withMod { (st).mod with sys := { perst := true } }).mod.sys.perst = true := by decide

theorem witness_ScalarResults :
    Issues st 0 0x00 (pv 0x00 []) ∧ Issues st 0 0x01 (pv 0x01 [(32, 31), (0, 0xFFFF_FFFF)])
    ∧ Issues st 0 0x02 (pv 0x02 [(40, 2), (32, 31), (24, 31), (16, 31)]) ∧ Issues st 0 0x03 (pv 0x03 [(0, 0x8_0000)])
    ∧ Issues st 0 0x04 (pv 0x04 [(0, 5)]) ∧ Issues st 0 0xC0 (pv 0xC0 [(0, 255)]) ∧ Issues st 0 0x08 (pv 0x08 [(0, 11)]) :=
  ⟨issues_of (by decide), issues_of (by decide), issues_of (by decide), issues_of (by decide), issues_of (by decide),
    issues_of (by decide), issues_of (by decide)⟩

/-- Register 2 holds 1; the others hold 0. -/
def stR : State := st { core0 with regs := [(2, 1)], pc := 4 }

theorem witness_BranchTargets :
    (Issues stR 0 0x06 (pv 0x06 [(40, 0), (0, 0xFFFF)]) ∧ brHolds 0 ((Mod.core stR.mod 0).reg 0) ((Mod.core stR.mod 0).reg 0) = true)
    ∧ (Issues stR 0 0x06 (pv 0x06 [(40, 0), (24, 2), (0, 0x7FFF)]) ∧ brHolds 0 ((Mod.core stR.mod 0).reg 2) ((Mod.core stR.mod 0).reg 0) = false)
    ∧ (Issues stR 0 0x07 (pv 0x07 [(32, 3), (0, 4)]) ∧ (Mod.core stR.mod 0).reg 3 ≠ 1)
    ∧ (Issues stR 0 0x07 (pv 0x07 [(32, 2), (0, 4)]) ∧ (Mod.core stR.mod 0).reg 2 = 1) :=
  ⟨⟨issues_of (by decide), by decide⟩, ⟨issues_of (by decide), by decide⟩, ⟨issues_of (by decide), by decide⟩,
    ⟨issues_of (by decide), by decide⟩⟩

theorem witness_ControlUnitWaits :
    (Issues st 0 0x09 (pv 0x09 [(8, 1), (0, 0x7F)]) ∧ Mod.maskIdle (st).mod 0 0x7F = true)
    ∧ (Issues st 0 0xB0 (pv 0xB0 [(0, 2)]) ∧ Mod.maskIdle (st).mod 0 0 = true ∧ Mod.ackWaits (st).mod 0 = false)
    ∧ Issues st 0 0x12 (pv 0x12 [(8, 0)])
    ∧ levelHolds 0 (core0.level 2) 0 = true :=
  ⟨⟨issues_of (by decide), by decide⟩, ⟨issues_of (by decide), by decide, by decide⟩, issues_of (by decide), by decide⟩

/-- Bank 1 of cluster 0 holds a program. -/
def stB (x : Core) (others : List (Nat × Core)) : State :=
  withMod { mod0 x {} with
    cores := (0, x) :: others
    clusters := [(0, { job := some 0, ctx := some 1, bank0 := { state := 3, fetch := 1, ctx := some 1 }
                       bank1 := { state := 2, ctx := some 1 } })] }

theorem witness_BankSwitchAndEnd :
    (Issues (stB core0 []) 0 0x0A (pv 0x0A []) ∧ 2 ≤ ((Mod.cluster (stB core0 []).mod 0).bank 1).state)
    ∧ (let s := stB { core0 with wait := .bank 1 } []
       (Mod.core s.mod 0).wait = .bank 1 ∧ (Mod.core s.mod 0).bank = 1 - 1 ∧ 2 ≤ ((Mod.cluster s.mod 0).bank 1).state
         ∧ (Mod.cluster s.mod 0).preempt = none)
    ∧ (Issues (stB core0 [(15, core0)]) 0 0x0B (pv 0x0B [])
        ∧ ∃ i ∈ coresOf 0, i ≠ 0 ∧ (Mod.core (stB core0 [(15, core0)]).mod i).running = true)
    ∧ (Issues (stB core0 []) 0 0x0B (pv 0x0B [])
        ∧ ∀ i ∈ coresOf 0, i ≠ 0 → (Mod.core (stB core0 []).mod i).running = false) :=
  ⟨⟨issues_of (by decide), by decide⟩, by decide, ⟨issues_of (by decide), by decide⟩, ⟨issues_of (by decide), by decide⟩⟩

/-- Flag 0 is a cluster flag, 1 a device flag bound to flag 5, 2 a host flag; line 3 is bound to line 0; an object of
kind counter. -/
def flagsCtx : Ctx := {
  image := { flags := [⟨0, 0, false, false⟩, ⟨1, 1, true, true⟩, ⟨2, 2, false, true⟩] }
  devFlags := [(1, 6)], lines := [(3, 1)] }

/-- A state in which context 1 declares those flags. -/
def stF (x : Core := core0) : State := st x flagsCtx

theorem witness_FlagInstructions :
    (Issues stF 0 0xA0 (pv 0xA0 [(16, 0x7F), (0, 2)]) ∧ Mod.maskIdle stF.mod 0 0x7F = true ∧ Mod.ackWaits stF.mod 0 = false)
    ∧ (Issues stF 0 0xA1 (pv 0xA1 [(0, 1)]) ∧ Mod.maskIdle stF.mod 0 0 = true ∧ Mod.ackWaits stF.mod 0 = false)
    ∧ Issues stF 0 0xA2 (pv 0xA2 [(0, 0)]) ∧ Issues stF 0 0xA3 (pv 0xA3 [(0, 2)])
    ∧ (Mod.core (stF { core0 with wait := .flag 0 true true }).mod 0).wait = .flag 0 true true :=
  ⟨⟨issues_of (by decide), by decide, by decide⟩, ⟨issues_of (by decide), by decide, by decide⟩, issues_of (by decide),
    issues_of (by decide), by decide⟩

theorem witness_FlagChangeAtItsHome :
    Mod.ctx stF.mod 1 = some flagsCtx
    ∧ (Ctx.flagClass flagsCtx 0 = .cluster ∧ Ctx.flagClass flagsCtx 1 = .device ∧ Ctx.flagClass flagsCtx 2 = .host
      ∧ sget 0 flagsCtx.devFlags 1 ≠ 0)
    ∧ Mod.flagValue stF.mod 1 0 0 = false ∧ Mod.flagValue stF.mod 1 0 2 ≠ true
    ∧ (let m := (stF { core0 with wait := .flag 0 true false }).mod
       Mod.flagValue m 1 0 0 ≠ true ∧ (Mod.core m 0).ctx = some 1 ∧ (Mod.core m 0).wait = .flag 0 true false
         ∧ Ctx.flagClass flagsCtx 0 ≠ .host) :=
  ⟨rfl, by decide, by decide, by decide, by decide, by decide, by decide, by decide⟩

theorem witness_HatbandPhases :
    let s := stF { core0 with phaseOf := [(3, 2)] }
    Mod.lineOf stF.mod 1 3 = some 0
    ∧ (Issues stF 0 0xA4 (pv 0xA4 [(0, 3)]) ∧ Mod.unreleased stF.mod 0 3 0 = false)
    ∧ (Issues s 0 0xA4 (pv 0xA4 [(0, 3)]) ∧ Mod.unreleased s.mod 0 3 0 = true)
    ∧ (Issues stF 0 0xA5 (pv 0xA5 [(0, 3)]) ∧ Mod.unreleased stF.mod 0 3 0 = false)
    ∧ (Issues s 0 0xA5 (pv 0xA5 [(0, 3)]) ∧ Mod.unreleased s.mod 0 3 0 = true) :=
  ⟨by decide, ⟨issues_of (by decide), by decide⟩, ⟨issues_of (by decide), by decide⟩, ⟨issues_of (by decide), by decide⟩,
    ⟨issues_of (by decide), by decide⟩⟩

/-- Line 15 has one enrolled cluster, whose tap has arrived. -/
def stLine : State := withMod { State.reset.mod with
  dev := { enrolled := [(15, [0])] }, clusters := [(0, { taps := [(15, true)] })] }

theorem witness_HatbandRelease : Mod.allArrived stLine.mod 15 = true := by decide

theorem witness_WorkCounters :
    let s := withMod { mod0 core0 {} with clusters := [(0, { counters := [(7, { value := 0xFFFF_FFFF })] })] }
    (Issues st 0 0xA6 (pv 0xA6 [(32, 30), (0, 1)])
      ∧ (Mod.counter (st).mod (Mod.ctrPlace (st).mod 0 (pv 0xA6 [(32, 30), (0, 1)]))).value + val16 core0.regs 1 < 2 ^ 32)
    ∧ (Issues s 0 0xA6 (pv 0xA6 [(32, 30), (17, 3), (0, 1)])
      ∧ 2 ^ 32 ≤ (Mod.counter s.mod (Mod.ctrPlace s.mod 0 (pv 0xA6 [(32, 30), (17, 3), (0, 1)]))).value + val16 core0.regs 1)
    ∧ Issues st 0 0xA7 (pv 0xA7 [(32, 0), (17, 3)]) ∧ Issues st 0 0xA8 (pv 0xA8 [(24, 31), (17, 0)]) :=
  ⟨⟨issues_of (by decide), by decide⟩, ⟨issues_of (by decide), by decide⟩, issues_of (by decide), issues_of (by decide)⟩

/-- The matrix command of the manual's worked example (R302). -/
def mmaExample : PvisWords := ⟨0x20A1_C401_4CC0_0000, 0x0000_0280_0080_0302, 0x0007_0007_03FF_0000, 0⟩

/-- The vector command of the manual's worked example (R299). -/
def vaddExample : PvisWords := ⟨0x4040_0037_E11C_0000, 0x8000_0000_0000_0000, 0, 0⟩

theorem witness_EngineCommandIssue :
    (engineRow (.mma 0 mmaExample) = some (0x20, 0, 0, mmaExample) ∧ Issues st 0 0x20 mmaExample)
    ∧ (engineRow (.vadd 0 vaddExample) = some (0x40, 2, 0, vaddExample) ∧ Issues st 0 0x40 vaddExample)
    ∧ (engineRow (.qtok 0 (pv 0x10 [(52, 1), (0, 4)])) = some (0x10, 3, 0, pv 0x10 [(52, 1), (0, 4)])
      ∧ Issues st 0 0x10 (pv 0x10 [(52, 1), (0, 4)])) :=
  ⟨⟨rfl, issues_of (by decide)⟩, ⟨rfl, issues_of (by decide)⟩, ⟨by decide, issues_of (by decide)⟩⟩

/-- Core 0 with one command on engine `e`. -/
def stE (e : Nat) (k : ECmd) (x : Core := core0) : State := st { x with engines := [(e, [k])] }

/-- An addition from qg_out and qd_in into qv_out, as a command; `tm` is its tmode, its token number 1. -/
def addCmd (tm : Nat) : ECmd :=
  { op := 0x40, p := pv 0x40 [(52, tm), (46, b2n (tm != 0)), (36, 3), (32, 7), (28, 14), (21, 6), (17, 15)] [[]], seq := 1 }

theorem witness_EngineMoves_parked :
    let x := addCmd 0
    let s := stE 2 x { core0 with parked := [(2, 1)] }
    (Mod.core s.mod 0).cmds 2 = [x] ∧ sget 0 (Mod.core s.mod 0).parked 2 ≠ 0 := by decide +kernel

theorem witness_EngineMoves_push :
    let x : ECmd := { addCmd 0 with out := [(6, {})] }
    let s := stE 2 x { core0 with queues := [(6, List.replicate 15 {})] }
    let t := stE 2 x { core0 with queues := [(6, List.replicate 16 {})] }
    (Mod.core s.mod 0).cmds 2 = [x] ∧ sget 0 (Mod.core s.mod 0).parked 2 = 0 ∧ Mod.held s.mod 0 = false
      ∧ (Mod.core s.mod 0).level 6 < queueDepth 6 ∧ queueDepth 6 ≤ (Mod.core t.mod 0).level 6 := by decide +kernel

theorem witness_EngineMoves_complete :
    let x : ECmd := { addCmd 0 with finished := true }
    let s := stE 2 x
    (Mod.core s.mod 0).cmds 2 = [x] ∧ x.out = [] ∧ x.finished = true ∧ x.op ≠ 0x61 := by decide +kernel

theorem witness_EngineMoves_claimed :
    let x : ECmd := { addCmd 0 with p := pv 0x40 [(36, 2), (32, 7), (28, 14), (21, 6), (17, 15)] [[]] }
    let s := st { core0 with engines := [(1, [{ op := 0x30, p := pv 0x30 [] [[]], seq := 0 }]), (2, [x])] }
    (Mod.core s.mod 0).cmds 2 = [x] ∧ (Mod.core s.mod 0).claimed 2 x = true ∧ x.out = [] ∧ x.finished = false := by
  decide +kernel

theorem witness_EngineMoves_start :
    let x := addCmd 0
    (Mod.core (stE 2 x).mod 0).cmds 2 = [x] ∧ x.started = false ∧ PvisWords.tmode x.p < 2
      ∧ (Mod.core (stE 2 x).mod 0).claimed 2 x = false ∧ x.out = [] ∧ x.finished = false := by decide +kernel

theorem witness_EngineMoves_token :
    let x := addCmd 2
    let tok (n : Nat) (po : Bool) : QEntry := { side := BitVec.ofNat 9 (n + 2 * 64 + 256 * b2n po) }
    let s := stE 2 x { core0 with queues := [(3, [tok 1 false])] }
    let t := stE 2 x { core0 with queues := [(3, [tok 0 true])] }
    let d := stE 2 x { core0 with queues := [(3, [{}])] }
    nth 15 (inEnds x.p) (PvisWords.tend x.p) = 3 ∧ 2 ≤ PvisWords.tmode x.p
      ∧ (Mod.core s.mod 0).queue 3 = [tok 1 false] ∧ (tok 1 false).marker = 2 ∧ (tok 1 false).token = PvisWords.token x.p
      ∧ (Mod.core t.mod 0).queue 3 = [tok 0 true] ∧ (tok 0 true).marker = 2 ∧ (tok 0 true).poison = true
      ∧ (Mod.core (stE 2 x).mod 0).queue 3 = [] ∧ (Mod.core d.mod 0).queue 3 = [{}] ∧ ({} : QEntry).marker ≠ 2
      ∧ (Mod.core s.mod 0).claimed 2 x = false := by decide +kernel

theorem witness_EngineMoves_resume :
    let x : ECmd := { addCmd 0 with out := [(6, {})] }
    (Mod.core (stE 2 x).mod 0).frontsThat (pushesInto 6) = [2]
      ∧ (Mod.core (stE 2 { addCmd 0 with started := true }).mod 0).frontsThat (popsFrom 7) = [2]
      ∧ (Mod.core (stE 2 (addCmd 3)).mod 0).frontsThat (awaitsOn 3) = [2] := by decide +kernel

/-- A host image of the objects the macro witnesses name: an attention layer 0 of two key heads, a stream layer, a halo
pair. -/
def macroImage : Image := { objects := [
  { number := 1, kind := .attention { layer := 0, keyHeads := 2, hd := 64, format := 2 } },
  { number := 2, kind := .halo 0 1 1 0 1 }] }

/-- A list of that layer. -/
def list0 (head : Nat) (es : List ListEntry := []) : PageList :=
  { capacity := 4, length := (es.map (·.count)).foldl (· + ·) 0, kvHead := head, width := 64, format := 2, group := 1, entries := es }

/-- Context 1 with that layer and empty lists in list block 0. -/
def attnCtx : Ctx := { image := macroImage, lists := [(0, list0 0), (1, list0 1)] }

/-- ATTN of `n` key heads of layer 0, over one row of the length table at object 9. -/
def attnWords (n : Nat) : PvisWords := pv 0x70 [(16, n)] [[(48, 9), (0, 8)], [(48, 7)]]

theorem witness_MacroIssue :
    let s := stM core0 attnCtx
    let busy := stM { core0 with engines := [(5, [addCmd 0])] } attnCtx
    (macroRow (.attn 0 (attnWords 2)) = some (0x70, 0x7F, 0, attnWords 2, Mod.attn 0 (attnWords 2) false)
      ∧ Mod.headsDeclared s.mod 0 0x70 (attnWords 2) = true ∧ IssuesMacro s 0 0x70 0x7F (attnWords 2))
    ∧ (pvisIs 0x70 (attnWords 2) = true ∧ Mod.maskIdle busy.mod 0 0x7F = false ∧ Mod.headsDeclared busy.mod 0 0x70 (attnWords 2) = true) :=
  ⟨⟨rfl, by decide, macro_of (by decide)⟩, by decide⟩

/-- The rows of the pass of `attnWords 1` and its declaration, where the table can be read and nothing is poisoned. -/
def passRows (s : State) : List (Nat × LenRow) × AttnDecl :=
  match Mod.tableRows (issued s 0 (attnWords 1)) 0 (attnWords 1), Mod.attnDecl s.mod ((Mod.ctx s.mod 1).getD {}) 0 with
  | .inr (rows, false), some a => (rows, a)
  | _, _ => ([], {})

/-- The module once the pass of `attnWords 1` has taken its lists. -/
def passTaken (s : State) : Mod :=
  let m := issued s 0 (attnWords 1)
  let x := (Mod.ctx m 1).getD {}
  Mod.takePass m 0 (((passRows s).1.flatMap fun r => Mod.rowLists m x 0 (0, 1) r.2).map (·.2)) x

/-- Its lists. -/
def passOf (s : State) : List PassList :=
  Mod.passLists (passTaken s) ((Mod.ctx s.mod 1).getD {}) 0 (0, 1) ((Mod.core (passTaken s) 0).pass.getD []) ((passRows s).1.map (·.2))

/-- The pages it needs. -/
def passNeed (s : State) : List Nat := distinct ((passOf s).flatMap PassList.needs)

/-- One row of one query, over a list with no token. -/
def stPass : State := stM core0 attnCtx [(0x4000_000C, 1)]

/-- The same over a list of one token, whose pages are in host memory. -/
def stAway : State :=
  let d : PageDesc := { refcount := 1, tier := 3, owner := 1, fill := 1, layer := 0 }
  let s := stM core0 { attnCtx with lists := [(0, list0 0 [⟨0, 1, 0, 1⟩]), (1, list0 1)] } [(0x4000_000C, 1)]
  withMod { s.mod with kv := { pages := 4, descs := [(0, d), (1, { d with content := 1 })] } }

theorem witness_AttentionPass :
    (IssuesMacro stPass 0 0x70 0x7F (attnWords 1) ∧ IssuesMacro stAway 0 0x70 0x7F (attnWords 1))
    ∧ ((∃ x, Mod.ctx stPass.mod 1 = some x) ∧ ∃ x, Mod.ctx stAway.mod 1 = some x)
    ∧ (∀ s ∈ [stPass.mod, stAway.mod], Mod.headsDeclared s 0 0x70 (attnWords 1) = true ∧ (Mod.core s 0).pass = none)
    ∧ (∀ s ∈ [stPass, stAway], (passRows s).1.length = 1 ∧ (passRows s).2.keyHeads = 2
        ∧ Mod.tableFault (issued s 0 (attnWords 1)) 1 ((Mod.ctx s.mod 1).getD {}) (passRows s).2 (0, 1) false (passRows s).1 = none)
    ∧ (passNeed stPass = [] ∧ (passOf stPass).length = 1
        ∧ ((passOf stPass).foldl (PassRun.step 0 8 7 (passRows stPass).2 [])
            { m := passTaken stPass, qOff := 0, oOff := 0 }).fault = none)
    ∧ (passNeed stAway).find? (fun q => decide ((Mod.page (passTaken stAway) q).tier = 3)) = some 0 :=
  ⟨⟨macro_of (by decide +kernel), macro_of (by decide +kernel)⟩, ⟨⟨_, rfl⟩, ⟨_, rfl⟩⟩, by decide +kernel, by decide +kernel,
    by decide +kernel, by decide +kernel⟩

/-- KVAPP of key head 0 of layer 0 over one row of the table at object 9; `v` of [31:28] marks a verifying append. -/
def appendWords (v : Nat) : PvisWords := pv 0x71 [(28, v), (8, 1)] [[(48, 9)], [(48, 8), (32, 7)]]

/-- The table's row appends one token to branch 0; two frames are free; `bt` is the branch table's place, whose record 0 is a
live branch. -/
def stApp (bt : Nat) : State :=
  let s := stM core0 { attnCtx with blk := { branchTable := bt }, branches := [(0, { state := 1 })] } [(0x4000_0006, 1), (0x4000_000C, 1)]
  withMod { s.mod with kv := { pages := 4, free := [2, 3] } }

/-- What the table of an append holds. -/
def appRows (s : State) (v : Nat) : List (Nat × LenRow) :=
  match Mod.tableRows (issued s 0 (appendWords v)) 0 (appendWords v) with | .inr (rows, false) => rows | _ => []

/-- What the appends of all heads come to. -/
def appEnd (s : State) (v : Nat) : Bool :=
  let x := (Mod.ctx s.mod 1).getD {}
  match Mod.appendHeads (issued s 0 (appendWords v)) 0 1 (appendWords v) (v != 0) x ((Mod.attnDecl s.mod x 0).getD {})
      ((appRows s v).map (·.2)) ⟨0, 0⟩ false false [0] with
  | .ok .. => true
  | _ => false

/-- What the check of a table finds. -/
def appFault (s : State) (v : Nat) : Option Nat :=
  let x := (Mod.ctx s.mod 1).getD {}
  Mod.tableFault (issued s 0 (appendWords v)) 1 x ((Mod.attnDecl s.mod x 0).getD {}) (0, 1) true (appRows s v)

/-- KVPF of one row of the table at object 9. -/
def prefetchWords : PvisWords := pv 0x72 [] [[(48, 9)]]

theorem witness_AppendAndPrefetch :
    let x := (Mod.ctx (stApp 0x8000).mod 1).getD {}
    (IssuesMacro (stApp 0) 0 0x71 0x7F (appendWords 0) ∧ IssuesMacro (stApp 0x8000) 0 0x71 0x7F (appendWords 1)
      ∧ IssuesMacro stPass 0 0x72 0 prefetchWords)
    ∧ (headsOf 0x71 (appendWords 0) = (0, 1) ∧ Mod.headsDeclared (stApp 0).mod 0 0x71 (appendWords 0) = true
      ∧ Mod.headsDeclared (stApp 0x8000).mod 0 0x71 (appendWords 1) = true)
    ∧ ((appRows (stApp 0) 0).length = 1 ∧ appFault (stApp 0) 0 = none ∧ appEnd (stApp 0) 0 = true)
    ∧ ((appRows (stApp 0x8000) 1).length = 1 ∧ appFault (stApp 0x8000) 1 = none ∧ appEnd (stApp 0x8000) 1 = true
      ∧ x.blk.branchTable ≠ 0 ∧ verifyOk x 1 ((appRows (stApp 0x8000) 1).map (·.2)) = true)
    ∧ Mod.branchesBad (issued (stApp 0x8000) 0 (appendWords 1)) 1 x true ((appRows (stApp 0x8000) 1).map (·.2.branch)) = none
    ∧ ∃ r, Mod.lenRows (issued stPass 0 prefetchWords) 0 9 0 1 = .inr r ∧ r.2 = false :=
  ⟨⟨macro_of (by decide +kernel), macro_of (by decide +kernel), macro_of (by decide +kernel)⟩, by decide +kernel, by decide +kernel,
    by decide +kernel, rfl, ⟨_, rfl, by decide +kernel⟩⟩

/-- SAMPLE of two logits of object 9 into register 1. -/
def sampleWords : PvisWords := pv 0x77 [(32, 1)] [[(48, 9), (16, 1)]]

/-- VERIFY of branch 0 with candidates of object 8 and two logits a position, by ratios of object 7. -/
def verifyWords : PvisWords := pv 0x78 [(43, 1), (32, 30)] [[(48, 9)], [(48, 8), (27, 7), (11, 1)]]

/-- Branch 0 verifies one token. -/
def stVerify : State :=
  stM core0 { blk := { branchTable := 0x8000 }, branches := [(0, { state := 2, pending := 1, verifyBase := 0 })] }

theorem witness_SampleAndVerify :
    (IssuesMacro stPass 0 0x77 0x7F sampleWords ∧ (Mod.objWords (issued stPass 0 sampleWords) 0 9 0 2).isRight = true)
    ∧ (IssuesMacro stVerify 0 0x78 0x7F verifyWords
      ∧ (∀ n ∈ [2 * 2, 1, 2], (Mod.objWords (issued stVerify 0 verifyWords) 0 9 0 n).isRight = true)
      ∧ ((Mod.ctx stVerify.mod 1).getD {}).blk.branchTable ≠ 0)
    ∧ Mod.branchesBad (issued stVerify 0 verifyWords) 1 ((Mod.ctx stVerify.mod 1).getD {}) true [0] = none :=
  ⟨⟨macro_of (by decide +kernel), by decide +kernel⟩, ⟨macro_of (by decide +kernel), by decide +kernel, by decide +kernel⟩, rfl⟩

/-- Two modal streams and one of LSTM cells, one channel each, with their states at fixed places of the stream pool. -/
def streamCtx : Ctx := {
  blk := { streamTable := 0x1_0000, streamEntries := 4 }
  streams := [(0, { statePtr := 0x8000_0004_0000, stateSize := 64, kind := 1, channels := 1, modes := 1 }),
    (1, { statePtr := 0x8000_0004_1000, stateSize := 64, kind := 1, channels := 1, modes := 1 }),
    (2, { statePtr := 0x8000_0004_2000, stateSize := 64, kind := 2, channels := 1 })] }

/-- The model that declares their layer. -/
def streamModel : Model := {
  image := { objects := [{ number := 3, bytes := 64, kind := .stream { layer := 0, kind := 1, channels := 1, modes := 1, inputFormat := 1 } }] }
  blk := { root := 0x10009, streamPoolVa := 0x8000_0004_0000, streamPoolSlots := 3, places := atZero } }

/-- A core whose job names those streams. -/
def stStream : State :=
  let s := stM core0 streamCtx
  withMod { s.mod with
    model := some streamModel
    kv := { streamSlots := [(0, 65537), (1, 65538), (2, 65539)] }
    host := { s.mod.host with flights := [{ id := 0, started := true, streams := [⟨0, false, 0⟩, ⟨1, false, 0⟩, ⟨2, false, 0⟩] }] } }

/-- An instruction over one stream, the one whose number register `r` holds. -/
def streamWords (op r : Nat) : PvisWords := pv op [(32, r), (24, 1)] [[(48, 3)], []]

/-- What a stream instruction assumes of the streams it names: the job names them and their entries can be read. -/
def streamsAble (s : State) (p : PvisWords) : Bool :=
  let x := (Mod.ctx s.mod 1).getD {}
  let m := issued s 0 p
  let ns := streamsOf (past s 0 p) p
  Mod.jobNames m 0 ns && match Mod.entriesBad m 1 x (ns.map fun n => { stream := n }) with | none => true | some _ => false

/-- The update of the states runs through, and so does the layer output. -/
def streamsRun (s : State) (p : PvisWords) (f : Nat → StateStep) : Bool :=
  let x := (Mod.ctx s.mod 1).getD {}
  let m := issued s 0 p
  let ns := streamsOf (past s 0 p) p
  let r := ns.foldl (StateRun.step 0 1 x f) { m := { m with free := m.free + ns.length * streamFree } }
  r.fault.isNone && (Mod.streamOutput r.m 0 p (channelsOf (past s 0 p) p).2 r.out false).2.1.isNone

/-- Streams 0, 1 and 2 in registers 0, 1 and 2; the cluster's TLB holds the leaf of both spaces. -/
def stStreams : State := withMod { stStream.mod with
  cores := [(0, { core0 with regs := [(1, 1), (2, 2)] })]
  mem := { stStream.mod.mem with tlbs := [(0, [⟨true, 0xFF, 0x400_0000, true, 0x4000_001F⟩, ⟨false, 1, 0, true, 0x4000_001F⟩])] } }

/-- The third phase of a scan of stream 1 with 64 steps. -/
def scanWords : PvisWords := pv 0x81 [(32, 1), (24, 1), (16, 3), (12, 6)] [[(48, 3)], []]

theorem witness_StreamUpdates :
    (IssuesMacro stStreams 0 0x80 0x7F (streamWords 0x80 0) ∧ streamsAble stStreams (streamWords 0x80 0) = true
      ∧ streamsRun stStreams (streamWords 0x80 0) (fun n => modalStep (freeAt stStreams.mod [0] n) 0 1) = true)
    ∧ (IssuesMacro stStreams 0 0x81 0x7F scanWords ∧ streamsAble stStreams scanWords = true
      ∧ streamsRun stStreams scanWords (fun n => scanStep (freeAt stStreams.mod [1] n) 0 1 false true 64) = true)
    ∧ (IssuesMacro stStreams 0 0x82 0x7F (streamWords 0x82 2) ∧ streamsAble stStreams (streamWords 0x82 2) = true
      ∧ streamsRun stStreams (streamWords 0x82 2) (fun n => lstmStep (freeAt stStreams.mod [2] n) 0 1) = true) :=
  ⟨⟨macro_of (by decide +kernel), by decide +kernel, by decide +kernel⟩,
    ⟨macro_of (by decide +kernel), by decide +kernel, by decide +kernel⟩,
    ⟨macro_of (by decide +kernel), by decide +kernel, by decide +kernel⟩⟩

/-- A reset of the stream in register 0, and one with its anchor at object 3. -/
def resetWords : PvisWords := pv 0x83 [(24, 1)]
def anchorWords : PvisWords := pv 0x84 [(24, 1)] [[(48, 3)]]

theorem witness_StreamResets :
    (IssuesMacro stStreams 0 0x83 0x7F resetWords ∧ streamsAble stStreams resetWords = true
      ∧ (Mod.applyResets ([0].foldl (fun y n => Mod.modStream y 1 n fun e => { e with reset := true }) (issued stStreams 0 resetWords))
          1 [0]).2 = none)
    ∧ (IssuesMacro stStreams 0 0x84 0x7F anchorWords ∧ streamsAble stStreams anchorWords = true
      ∧ Mod.anchorsOf (issued stStreams 0 anchorWords) 0 anchorWords [0] = [(0, 0)]
      ∧ (Mod.applyResets (Mod.modStream (issued stStreams 0 anchorWords) 1 0 fun e => { e with reset := true, anchorPtr := 0 })
          1 [0]).2 = none) :=
  ⟨⟨macro_of (by decide +kernel), by decide +kernel, by decide +kernel⟩,
    ⟨macro_of (by decide +kernel), by decide +kernel, by decide +kernel, by decide +kernel⟩⟩

/-- Branch 0 of list block 0 is live at length 1, branch 1 is free with list block 1; registers 1 and 2 hold 1 and 0xFFFF_FFFF. -/
def forkCtx : Ctx := {
  blk := { branchTable := 0x8000 }
  branches := [(0, { state := 1, length := 1 }), (1, { listBlock := 1 })]
  lists := [(0, list0 0 [⟨0, 1, 0, 1⟩]), (65536, list0 0)] }

theorem witness_BranchFork :
    let s := stM { core0 with regs := [(1, 1), (2, 0xFFFF_FFFF)] } forkCtx
    let p := pv 0x73 [(32, 0), (24, 1), (16, 1)]
    let x := (Mod.ctx s.mod 1).getD {}
    Issues s 0 0x73 p
    ∧ (x.blk.branchTable ≠ 0 ∧ (past s 0 p).branchNo (PvisWords.f p 36 32) = 0 ∧ (past s 0 p).branchNo (PvisWords.f p 28 24) = 1
      ∧ (past s 0 p).regN (PvisWords.f p 20 16) = 1 ∧ (x.branch 1).state = 0 ∧ (x.branch 0).state = 1)
    ∧ Mod.branchesBad (issued s 0 p) 1 x true [1, 0] = none
    ∧ ∀ key ∈ x.listsOf 0, 1 ≤ (x.list key).length ∧ (x.list key).ring = false
        ∧ (cutEntries 1 (x.list key).entries).length ≤ (x.list (childKey 0 1 key)).capacity :=
  ⟨issues_of (by decide +kernel), by decide +kernel, rfl, by decide +kernel⟩

theorem witness_BranchEnds :
    let one (r : BranchRec) : State := stM core0 { forkCtx with branches := [(0, r)] }
    let s := one { state := 1 }
    let busy := withMod { s.mod with host := { s.mod.host with
      flights := [{ id := 3, raw := BitVec.ofNat 512 (3 + 1 * 65536 + 0x1000 * 2 ^ 128 + 2 ^ 192), started := true, phase := .running }] } }
    let w : KillWait := ⟨0, false, 0, 0, [0], [9]⟩
    let k := stM { core0 with wait := .kill 0 } { forkCtx with kills := [w] }
    let k := withMod { k.mod with host := { k.mod.host with flights := [{ id := 0 }] } }
    let x := (Mod.ctx s.mod 1).getD {}
    let z := (Mod.ctx k.mod 1).getD {}
    (Issues s 0 0x74 (pv 0x74 []) ∧ Issues s 0 0x75 (pv 0x75 []) ∧ Issues (one { state := 2, pending := 1 }) 0 0x76 (pv 0x76 []))
    ∧ Mod.branchesBad (issued s 0 (pv 0x74 [])) 1 x true [0] = none
    ∧ (x.branchState 0 ≠ 0 ∧ Mod.killJobs (issued s 0 (pv 0x74 [])) 1 0 (x.removed false 0) = [])
    ∧ (Mod.waitingKills k.mod z).find? (fun w => w.branch == 0) = some w
    ∧ ((∀ i ∈ w.jobs, (Mod.flight k.mod i).isNone = true) ∧ (Mod.core k.mod w.core).wait = .kill 0 ∧ (Mod.core k.mod w.core).job = w.job)
    ∧ (let y := (Mod.ctx (one { state := 2, pending := 1 }).mod 1).getD {}
       y.branchState 0 = 2 ∧ 0 ≤ (y.branch 0).pending)
    ∧ Mod.killJobs (issued busy 0 (pv 0x74 [])) 1 0 (x.removed false 0) ≠ [] :=
  ⟨⟨issues_of (by decide +kernel), issues_of (by decide +kernel), issues_of (by decide +kernel)⟩, rfl, by decide +kernel,
    by decide +kernel, by decide +kernel, by decide +kernel, by decide +kernel⟩

/-- A convolution of one pixel and one channel by a 1 × 1 filter of object 7, from object 9 to object 8 in `rows` rows; BF16. -/
def convWords (inH : Nat) : PvisWords :=
  pv 0x51 [(36, 1), (30, 1), (10, 1), (6, 1)] [[(0, 7)], [(48, inH), (32, 1)], [(48, 9), (32, 8)]]

/-- Line buffer 0 has one slot of one block of one pixel. -/
def stConv (x : Core := core0) : State :=
  stM { x with lineBufs := [(0, { valid := true, baseLine := 1023, slots := 1, pixels := 1, blocks := 1 })] } {}

/-- The rows of the convolution run through. -/
def convRuns (s : State) (p : PvisWords) : Bool :=
  let a := convShape (past s 0 p) p
  match Mod.filterOf (issued s 0 p) 0 1 a with
  | .inr (rd, po) => (match Mod.convRows (issued s 0 p) 0 1 a rd (Mod.nextGate (issued s 0 p) 0) 0 po a.rows 0 with
    | .done .. => true
    | _ => false)
  | .inl _ => false

/-- A halo pair, number 2, of one row and 64 bytes a slot; this cluster's role 0 is producer and consumer. -/
def haloCtx : Ctx := {
  image := { objects := [{ number := 2, kind := .halo 0 0 1 0 1, space := 3, bytes := 128 }], placement := [⟨0, 0, 1, 1⟩] } }

/-- HSEND and HRECV of that pair. -/
def hsendWords : PvisWords := pv 0x53 [] [[(48, 2), (32, 8)]]
def hrecvWords : PvisWords := pv 0x54 [] [[(48, 2)]]

/-- The flag of slot A has `v`, as this core's copy of producer or consumer shows it. -/
def stHalo (v consumer : Bool) : State :=
  let s := stM { core0 with lineBufs := [(0, { valid := true, baseLine := 1022, slots := 1, pixels := 1, blocks := 1 })] } haloCtx
  let s := withMod { s.mod with model := some { image := { weightLines := 16 }, blk := { root := 0x10009 } } }
  if v then withMod { s.mod with clusters := sset {} s.mod.clusters 0 { Mod.cluster s.mod 0 with
    mirrors := [(mirrorKey (haloPair 2) 0 1 0 consumer, true)] } } else s

theorem witness_ConvolutionInstructions :
    Issues st 0 0x50 (pv 0x50 [(42, 3), (32, 1022), (25, 2)] [[(0, 0x1_FFFF)]])
    ∧ (IssuesMacro stConv 0 0x51 0x3F (convWords 0) ∧ (convShape (past stConv 0 (convWords 0)) (convWords 0)).outH = 0)
    ∧ (IssuesMacro stConv 0 0x51 0x3F (convWords 1)
      ∧ ((convShape (past stConv 0 (convWords 1)) (convWords 1)).outH = 1 ∧ (convShape (past stConv 0 (convWords 1)) (convWords 1)).outW = 1)
      ∧ convRuns stConv (convWords 1) = true ∧ Mod.linesOk (issued stConv 0 (convWords 1)) 0 1023 1 true = true)
    ∧ ((Mod.halo (issued (stHalo false false) 0 hsendWords) 1 2).isSome = true)
    ∧ (IssuesMacro (stHalo false false) 0 0x53 0x20 hsendWords
      ∧ Mod.haloFlag (issued (stHalo false false) 0 hsendWords) 0 1 2 0 false = false
      ∧ (Mod.haloSend (issued (stHalo false false) 0 hsendWords) 0 hsendWords).2 = true)
    ∧ (IssuesMacro (stHalo true false) 0 0x53 0x20 hsendWords
      ∧ Mod.haloFlag (issued (stHalo true false) 0 hsendWords) 0 1 2 0 false = true)
    ∧ (IssuesMacro (stHalo true true) 0 0x54 0x20 hrecvWords
      ∧ Mod.haloFlag (issued (stHalo true true) 0 hrecvWords) 0 1 2 0 true = true
      ∧ (Mod.haloRecv (issued (stHalo true true) 0 hrecvWords) 0 hrecvWords).2 = true)
    ∧ (IssuesMacro (stHalo false true) 0 0x54 0x20 hrecvWords
      ∧ Mod.haloFlag (issued (stHalo false true) 0 hrecvWords) 0 1 2 0 true = false) :=
  ⟨issues_of (by decide +kernel), ⟨macro_of (by decide +kernel), by decide +kernel⟩,
    ⟨macro_of (by decide +kernel), by decide +kernel, by decide +kernel, by decide +kernel⟩, by decide +kernel,
    ⟨macro_of (by decide +kernel), by decide +kernel, by decide +kernel⟩, ⟨macro_of (by decide +kernel), by decide +kernel⟩,
    ⟨macro_of (by decide +kernel), by decide +kernel, by decide +kernel⟩, ⟨macro_of (by decide +kernel), by decide +kernel⟩⟩

/-- Page 0 in the tier given, with a copy in the context's host spill area or at slot 0 of its flash extent. -/
def stPage (tier : Nat) (flash : Bool) (free : List Nat) (pages : Nat) : State :=
  let c : Ctx := { blk := { spillArea := 0x1_0000, spillBytes := 0x2_0000 }, spillExtent := some { rows := 2 } }
  let s := stM core0 c
  withMod { s.mod with kv := {
    pages := pages, free := free
    descs := [(0, { refcount := 1, tier := tier, owner := 1, fill := 64, spillAddr := if flash then 0 else 0x1_0000, flash := flash })] } }

/-- Copying, or writing, ends without a fault. -/
def noFault {α : Type} (r : Mod × Option α) : Bool := r.2.isNone

/-- A 64 KiB write at the start of a page ends without a fault where the page can be written. -/
theorem writes_page {m : Mod} {tlb ctx va : Nat} {bs : List Byte} {po : Bool} (hb : bs.length = 65536) (ha : va % 65536 = 0)
    (hw : (Mod.translate m tlb ctx va true).isRight = true) : noFault (Mod.vaWrite m tlb ctx va bs po) = true := by
  obtain ⟨p, hp⟩ := right_of hw
  simp [noFault, Mod.vaWrite, pieces, pagePieces, hb, ha, Mod.writePieces, hp]

/-- So does a copy of a page. -/
theorem copies_page {m : Mod} {ctx src dst : Nat} (hs : src % 65536 = 0) (hd : dst % 65536 = 0)
    (hr : (Mod.translate m (brimTlbOf src) ctx src false).isRight = true)
    (hw : (Mod.translate m (brimTlbOf dst) ctx dst true).isRight = true) : noFault (Mod.copyVa m ctx src dst 65536) = true := by
  obtain ⟨p, hp⟩ := right_of hr
  have hv : ∃ bs po, Mod.vaRead m (brimTlbOf src) ctx src 65536 = .inr (bs, po) ∧ bs.length = 65536 := by
    refine ⟨(Mod.readPhys m p 65536).1, (Mod.readPhys m p 65536).2, ?_, ?_⟩
    · simp [Mod.vaRead, pieces, pagePieces, hs, Mod.readPieces, hp]
    · unfold Mod.readPhys Mod.hostRead Mod.physRead
      split <;> exact rdBytes_length _ _ _
  obtain ⟨bs, po, hv, hl⟩ := hv
  have := writes_page (po := po) hl hd hw
  revert this
  simp only [Mod.copyVa, hv, noFault]
  split <;> simp_all

theorem witness_PageMoves :
    let at_ (s : State) := Mod.pageVa s.mod 0 0
    let f := stPage 5 false [] 4
    let g := stPage 5 true [] 4
    let h := stPage 2 false [] 4
    (Mod.kvBusy f.mod 0 = false ∧ (Mod.ctx f.mod 1).isSome = true)
    ∧ noFault (Mod.copyVa f.mod 1 0x1_0000 (at_ f) 65536) = true
    ∧ (Mod.kvBusy g.mod 0 = false ∧ (Mod.ctx g.mod 1).isSome = true)
    ∧ (Mod.translate g.mod (brimTlbOf (at_ g)) 1 (at_ g) true).isRight = true
    ∧ (Mod.kvBusy h.mod 0 = false ∧ (Mod.page h.mod 0).readers = 0 ∧ (Mod.page h.mod 0).refcount ≠ 0)
    ∧ noFault (Mod.copyVa h.mod 1 (at_ h) 0x1_0000 65536) = true
    ∧ (Mod.core (st { core0 with wait := .page 0 }).mod 0).wait = .page 0 :=
  ⟨by decide +kernel, copies_page (by decide +kernel) (by decide +kernel) (by decide +kernel) (by decide +kernel),
    by decide +kernel, by decide +kernel, by decide +kernel,
    copies_page (by decide +kernel) (by decide +kernel) (by decide +kernel) (by decide +kernel), rfl⟩

theorem witness_PageSpill :
    let a : AttnDecl := { layer := 0, keyHeads := 1, hd := 512, format := 2 }
    let c : Ctx := { blk := { spillArea := 0x1_0000, spillBytes := 0x1_0000 }, image := { objects := [{ number := 1, kind := .attention a }] } }
    let s := withMod { (stM core0 c).mod with
      kv := { pages := 64, free := [], descs := [(0, { refcount := 1, tier := 1, owner := 1, fill := 64 })] } }
    s.mod.kv.free.length < s.mod.kv.pages / 64 ∧ Mod.spillVictim s.mod false = some 0 := by
  decide +kernel

theorem witness_VisorRegistersAndSnapshots :
    (st).mod.sys.cfgReady = true ∧ (st).mod.vis.busy = false
    ∧ (bitAt 7 0 = true ∧ bitAt 7 1 = true ∧ bitAt 7 2 = true ∧ bitAt 0xF1 2 = false ∧ fld 0xF1 7 4 = 15)
    ∧ IssuesMacro (stM core0 {}) 0 0xC1 0x20 (pv 0xC1 [(16, 9)])
    ∧ noFault (Mod.vaWrite (issued (stM core0 {}) 0 (pv 0xC1 [(16, 9)])) 0 1 0
        (Mod.snapBytes (issued (stM core0 {}) 0 (pv 0xC1 [(16, 9)])) 0 1 [Mod.clusterRecord (issued (stM core0 {}) 0 (pv 0xC1 [(16, 9)])) 1 0])
        false) = true :=
  ⟨rfl, rfl, by decide +kernel, macro_of (by decide +kernel), by decide +kernel⟩

/-- Ring 2 of 64 entries (the size field is clamped to 6) is enabled into completion ring 2 of 64 records, with the fields given. -/
def stRing (q : Sq) (c : Cq) (d : List Flight := []) (more : Mod → Mod := id) : State :=
  let m := (stM core0 {}).mod
  withMod (more { m with host := { m.host with
    sq := [(2, { q with ctrl := 0x0002_0201 })], cq := [(2, { c with ctrl := 0x0000_0000_0000_0201 })], flights := d, nextId := 7
    ctrl := 1 } })

theorem witness_DoorbellsAndKicks :
    let s := stRing { tail := 1, fetched := 0xFFFF_FFFF } {}
    let k := stRing { tail := 1, fetched := 0xFFFF_FFFF, kick := some (2, 64) } {}
    let q := Mod.sq s.mod 2
    Mod.polls s.mod 2 = true ∧ Mod.polls k.mod 2 = true ∧ q.size = 64
    ∧ (ahead32 63 q.fetched.toNat ≤ q.size ∧ (63 : Word) ≠ q.tail) ∧ (ahead32 q.tail.toNat q.fetched.toNat ≤ q.size)
    ∧ q.size < ahead32 64 q.fetched.toNat ∧ s.mod.sys.cfgReady = true ∧ bitAt s.mod.host.ctrl.toNat 0 = true
    ∧ (Mod.sq k.mod 2).kick = some (2, 64) := by decide +kernel

/-- A descriptor: kind, context, and fields by byte offset. -/
def dv (kind ctx : Nat) (fs : List (Nat × Nat) := []) : BitVec 512 :=
  BitVec.ofNat 512 (kind + ctx * 65536 + (fs.map fun q => q.2 * 2 ^ (8 * q.1)).foldl (· + ·) 0)

theorem witness_DescriptorFetching :
    let s := stRing { tail := 0, fetched := 0xFFFF_FFFF } { posted := 63, head := 0 }
    let f := stRing { tail := 0, fetched := 0xFFFF_FFFF } { posted := 63, head := 0 } []
      fun m => { m with sys := { m.sys with failing := true } }
    (Mod.fetchable s.mod 2 = true ∧ Mod.granted s.mod 2 = true) ∧ (Mod.fetchable f.mod 2 = true ∧ Mod.granted f.mod 2 = true) ∧ (Mod.cq s.mod 2).free = 1
    ∧ s.mod.sys.failing = false ∧ f.mod.sys.failing = true
    ∧ Mod.descValid s.mod (dv 0x07 1 [(8, 1)]) = true ∧ Mod.descValid s.mod (dv 0x07 1 [(9, 1)]) = false
    ∧ descKind (dv 0x03 1) ≠ 0x0E ∧ descKind (dv 0x03 1) ≠ 0x0D := by decide +kernel

theorem witness_CompletionRings :
    let s := stRing {} { posted := 64, head := 0 }
    let t := withMod { s.mod with host := { s.mod.host with cq := [(2, { ctrl := 0x0000_0001_0000_0201, sinceMsg := 1 })] } }
    let q := Mod.cq s.mod 2
    (Mod.walkerUp s.mod = true ∧ q.enabled = true ∧ q.free = 0 ∧ ahead32 64 q.head.toNat ≤ ahead32 q.posted.toNat q.head.toNat)
    ∧ ahead32 q.posted.toNat q.head.toNat < ahead32 65 q.head.toNat
    ∧ ((Mod.cq t.mod 2).enabled = true ∧ fld (Mod.cq t.mod 2).ctrl.toNat 41 32 ≠ 0 ∧ (Mod.cq t.mod 2).sinceMsg ≠ 0) := by
  decide +kernel

theorem witness_RingControlWrites :
    let s := stRing {} { reserved := 1 }
    let d := withMod { s.mod with host := { s.mod.host with sq := [], cq := [(2, { ctrl := 0x201 })] } }
    let e := withMod { s.mod with host := { s.mod.host with ctrl := 0x8200 } }
    let v : Word := 0x0002_0201
    s.mod.sys.cfgReady = true
    ∧ ((Mod.sq d.mod 2).enabled = false ∧ bitAt v.toNat 0 = true ∧ (Mod.cq d.mod (fld v.toNat 13 8)).enabled = true
        ∧ Mod.eventRing d.mod ≠ some (fld v.toNat 13 8))
    ∧ ((Mod.sq e.mod 3).enabled = false ∧ Mod.eventRing e.mod = some (fld v.toNat 13 8))
    ∧ ((Mod.sq s.mod 2).enabled = true ∧ (Mod.cq s.mod 2).enabled = true ∧ (Mod.cq d.mod 3).enabled = false)
    ∧ (Mod.cqUsed d.mod 2 = false ∧ (Mod.cq d.mod 2).reserved = 0) ∧ (Mod.cqUsed s.mod 2 = true ∧ (Mod.cq s.mod 2).reserved ≠ 0)
    ∧ bitAt s.mod.host.ctrl.toNat 15 = false
    ∧ (s.mod.flt.enabled = false ∧ ({ s.mod.flt with ctrl := 0x601 } : FaultRing).enabled = true) := by decide +kernel

theorem witness_HostLink :
    let o := stRing {} {} [] fun m => { m with
      host := { m.host with ctrl := 2, bar4Base := 0x1_BFFF_FF00, pageReqs := [⟨511, 0x1000, 1, 0⟩] }
      mem := { m.mem with sites := [(0, { state := 0 })] } }
    (o.mod.sys.cfgReady = true ∧ bitAt o.mod.host.ctrl.toNat 1 = true) ∧ bitAt (st).mod.host.ctrl.toNat 1 = false
    ∧ (Mod.paAbsent o.mod (0x1_BFFF_FF00 + 255) = false ∧ inReserve (0x1_BFFF_FF00 + 255) = false ∧ inReserve (0x1_BFFF_FF00 + 256) = true)
    ∧ Mod.liveContexts State.reset.mod = 0 ∧ Mod.liveContexts o.mod ≠ 0
    ∧ o.mod.host.pageReqs.find? (·.idx == 511) = some ⟨511, 0x1000, 1, 0⟩ := by decide +kernel

/-- Ring 2 and one descriptor in flight. -/
def stDesc (d : BitVec 512) (f : Flight → Flight := id) (more : Mod → Mod := id) : State :=
  stRing {} { reserved := 1 } [f { id := 5, ring := 2, raw := d }] more

theorem witness_CompletionRecord :
    let s := stDesc (dv 0x05 1)
    (Mod.flight s.mod 5).isSome = true ∧ ∀ f ∈ s.mod.host.flights, f.waitsFor.contains 5 = false := by decide +kernel

theorem witness_SignalWaitFence :
    let is (s : State) (kind : Nat) : Bool := (Mod.ready s.mod 5 kind).isSome
    let sig := stDesc (dv 0x05 1 [(8, 4096)])
    let w (v : Nat) := stDesc (dv 0x06 1 [(8, 4096 * v)])
    let e := stDesc (dv 0x06 1) fun f => { f with started := true, phase := .running, endStatus := some .ok }
    is sig 0x05 = true
    ∧ (is (w 0) 0x06 = true ∧ Mod.flagValue (w 0).mod 1 0 0 = false ∧ is (w 1) 0x06 = true ∧ Mod.flagValue (w 1).mod 1 0 0 = !true)
    ∧ (e.mod.sys.crown = 0 ∧ (Mod.flight e.mod 5).isSome = true)
    ∧ (is (stDesc (dv 0x07 1)) 0x07 = true ∧ Mod.lateWrites (stDesc (dv 0x07 1)).mod = false)
    ∧ (is (stDesc (dv 0x07 1 [(8, 1)])) 0x07 = true ∧ descFld (dv 0x07 1 [(8, 1)]) 8 0 0 = 1) := by decide +kernel

theorem witness_CopyAndQuery :
    (∀ item ∈ [0, 1, 2, 3, 4], (Mod.ready (stDesc (dv 0x0E 0xFF [(8, item)])).mod 5 0x0E).isSome = true
      ∧ descFld (dv 0x0E 0xFF [(8, item)]) 8 7 0 = item)
    ∧ (let d := dv 0x04 1 [(8, 0x100), (0x10, 0x200), (0x18, 64)]
       let s := stDesc d
       (Mod.ready s.mod 5 0x04).isSome = true
       ∧ (Mod.copyBytes (Mod.startFlight s.mod 5) 1 false false 4 0x100 0x200 0 64 false).fault.isNone = true) := by
  decide +kernel

/-- What a read of device memory brought, where nothing faulted or was poisoned. -/
def goodBytes (r : AccFault ⊕ (List Byte × Bool)) : Option (List Byte) :=
  match r with | .inr (bs, false) => some bs | _ => none

/-- A RUN of context 1 that waits to start on the streams given, its job in no cluster yet. -/
def stRun (c : Ctx) (refs : List StreamRef) : State :=
  let s := stM {} c
  withMod { s.mod with
    clusters := []
    model := some streamModel
    kv := { streamSlots := [(0, 65537)] }
    host := { s.mod.host with flights := [{ id := 5, ring := 2, raw := dv 0x03 1, phase := .waiting, streams := refs }] } }

theorem witness_JobStart :
    let take (n : Nat) := stDesc (dv 0x03 1 [(8, 0x100), (0x0E, n)])
    let isReady (s : State) : Bool := match Mod.ready s.mod 5 0x03 with | some f => !f.started && f.phase != .waiting | none => false
    let list (n : Nat) := goodBytes (Mod.vaRead (take n).mod (brimTlbOf 0x100) 1 0x100 (8 * n))
    let numbers (n : Nat) := (streamRefs ((list n).getD []) n).map (·.stream)
    let place : Ctx := { streamCtx with image := { placement := [⟨0, 0, 1, 1⟩] } }
    let s := stRun place [⟨0, false, 0⟩]
    let c := (Mod.ctx s.mod 1).getD {}
    let e := stRun place [⟨3, false, 0⟩]
    let other := withMod { s.mod with ctxs := s.mod.ctxs ++ [(2, some { exclusive := true })]
                                      host := { s.mod.host with flights := s.mod.host.flights ++
                                        [{ id := 6, ring := 2, raw := dv 0x03 2, phase := .running, started := true }] } }
    (isReady (take 0) = true ∧ isReady (take 1) = true ∧ (list 1).isSome = true ∧ (numbers 1).Nodup
      ∧ isReady (take 2) = true ∧ (list 2).isSome = true ∧ ¬ (numbers 2).Nodup)
    ∧ (s.mod.sys.crown = 0 ∧ (Mod.flight s.mod 5).any (·.waitsToStart) = true ∧ Mod.startCheck s.mod 1 c [⟨0, false, 0⟩] = .go
      ∧ Mod.waitingKills s.mod c = [] ∧ Mod.exclusiveActive s.mod = none
      ∧ (Mod.flight s.mod 5).any (fun f => !Mod.outranked s.mod f [0]) = true ∧ Image.clusterList c.image = [0]
      ∧ [0].filter (fun l => !Mod.clusterFree s.mod 1 l) = []
      ∧ (Mod.bringAll s.mod 1 c.lc [0] [0]).any (fun m1 => (Mod.flight m1 5).isSome && (Mod.ctx m1 1).isSome
          && noFault (Mod.applyResets m1 1 [0])) = true)
    ∧ (∃ r, Mod.startCheck e.mod 1 ((Mod.ctx e.mod 1).getD {}) [⟨3, false, 0⟩] = .end_ r)
    ∧ (Mod.exclusiveActive other.mod = some 2 ∧ Mod.startCheck other.mod 1 c [⟨0, false, 0⟩] = .go) := by
  refine ⟨by decide +kernel, by decide +kernel, ⟨.streamAbsent, by decide +kernel⟩, by decide +kernel⟩

theorem witness_JobEnd :
    let ab (w : Nat) (fs : List Flight) := stRing {} { reserved := 2 } ({ id := 5, ring := 2, raw := dv 0x0D 1 [(0x0C, 2 + 256 * w)] } :: fs)
    let copy : Flight := { id := 6, ring := 2, raw := dv 0x04 1 [(8, 0x100), (0x10, 0x200), (0x18, 64)] }
    let gone (s : State) (w : Bool) := Mod.abortAll (Mod.startFlight s.mod 5) (Mod.abortTargets s.mod ((Mod.flight s.mod 5).getD {}) w)
    let j := stDesc (dv 0x03 1) (fun f => { f with started := true, phase := .running, total := 1, ended := 1 })
      fun m => { m with cores := [] }
    (∀ w ∈ [0, 1], (Mod.ready (ab w []).mod 5 0x0D).isSome = true ∧ bitAt (descFld (dv 0x0D 1 [(0x0C, 2 + 256 * w)]) 0x0C 31 0) 8 = (w == 1)
      ∧ Mod.abortTargets (ab w []).mod ((Mod.flight (ab w []).mod 5).getD {}) (w == 1) = []
      ∧ Mod.abortTargets (ab w [copy]).mod ((Mod.flight (ab w [copy]).mod 5).getD {}) (w == 1) = [6]
      ∧ (gone (ab w [copy]) (w == 1)).2.2 = [])
    ∧ (j.mod.sys.crown = 0 ∧ (Mod.flight j.mod 5).any (fun f => f.started && f.total == f.ended && f.phase != .ending
        && Mod.jobSettled j.mod f) = true) := by
  decide +kernel

/-- Context 1 in cluster 0 is to be preempted, with its save area at its first 2 MiB. -/
def stPreempt (x : Core) : State :=
  let s := stM x {}
  withMod { s.mod with
    model := some { image := { weightLines := 896 }, blk := { root := 0x10009 } }
    clusters := [(0, { job := some 0, ctx := some 1, preempt := some { hard := true }, bank0 := { state := 3, fetch := 1, ctx := some 1 } })] }

/-- Context 1 has been saved from cluster 0. -/
def stSaved : State :=
  let s := stM {} { saves := [(0, { job := 5, cores := [core0], order := 1 })], image := { placement := [⟨0, 0, 1, 1⟩], roles := [⟨0, [0x0B00_0000_0000_0000]⟩] } }
  withMod { s.mod with cores := [], clusters := []
                       model := some { image := { weightLines := 896 }, blk := { root := 0x10009 } } }

theorem witness_PreemptSaveRestore :
    let s := stPreempt core0
    let x := (Mod.ctx s.mod 1).getD {}
    let t := stSaved
    let z := (Mod.ctx t.mod 1).getD {}
    (s.mod.sys.crown = 0 ∧ (Mod.cluster s.mod 0).ctx = some 1 ∧ (Mod.cluster s.mod 0).preempt = some { hard := true }
      ∧ (∀ i ∈ coresOf 0, Mod.stopped s.mod true i = true) ∧ (Mod.rangeState s.mod 1 true (Mod.savePieces s.mod x 0)).isRight = true)
    ∧ ((Mod.nextRestore t.mod 0).any (fun r => r.1 == 1 && r.2.forJob.isNone) = true ∧ (Mod.cluster t.mod 0).job = none
      ∧ (Mod.cluster t.mod 0).retiring = false ∧ Mod.exclusiveActive t.mod = none ∧ Mod.awaited t.mod 1 0 = false
      ∧ (Mod.rangeState t.mod 1 false (Mod.savePieces t.mod z 0)).isRight = true
      ∧ (Mod.nextRestore t.mod 0).any (fun r => (Mod.restoreCluster t.mod 1 0 r.2 false).flt.recs.all fun r => r.answer == 0) = true) := by
  decide +kernel

/-- An image with one role, END, in cluster 0; the sections R529 asks for. -/
def imageOf (model : Bool) (hash modelHash : BitVec 384) (types : List Nat) : Image := {
  imageBytes := 1024, model := model, hash := hash, modelHash := modelHash, weightLines := if model then 896 else 0
  sections := types.mapIdx fun i t => { type := t, offset := 256 + 64 * i, size := 64 }
  roles := [⟨0, [0x0B00_0000_0000_0000]⟩], placement := [⟨0, 0, 1, 1⟩] }

/-- A model image and a program image for it; the translation cache holds both. -/
def modelImage : Image := imageOf true 5 0 [1, 2, 3, 4, 5, 6, 8]
def progImage : Image := imageOf false 6 5 [1, 2, 3, 4, 6]
def progModel : Model := { image := modelImage, blk := { root := 0x10009 } }

/-- A load of 1024 bytes in flight; context 1 has ended but where `c` says what it is. -/
def stLoad (kind op ctx : Nat) (c : Option Ctx) (mdl : Option Model) : State :=
  let s := stDesc (dv kind ctx [(8, op), (0x18, 1024)])
  withMod { s.mod with trans := [{ hash := 5 }, { hash := 6 }], model := mdl, ctxs := (c.map fun x => (1, some x)).toList, clusters := [], cores := [] }

/-- The checks of an image found nothing. -/
def accepts (m : Mod) (v : SecView) (img : Image) (asModel any : Bool) : Bool :=
  match Mod.checkImage m v img 1024 asModel any with | .rejected _ => false | _ => true

theorem witness_Loads :
    let ld := stLoad 0x01 0 0xFF none none
    let rl := stLoad 0x02 0 1 (some { image := progImage, blk := { root := 0x10009 } }) (some progModel)
    let ed := stLoad 0x02 2 1 (some {}) (some progModel)
    let blk : ModelBlock := { root := 0x10009 }
    let m1 := Mod.installModel (Mod.startFlight ld.mod 5) 5 modelImage blk
    let wb := withMod { rl.mod with clusters := [(0, { bank0 := { state := 3, fetch := 0, waitLoad := some (5, some 1, 0, []) } })] }
    let m2 := Mod.modFlight (setCluster wb.mod 0 ((Mod.cluster wb.mod 0).setBank 0 { state := 2, ctx := some 1, waitLoad := none })) 5
      fun f => { f with progress := f.progress + 1 }
    (Mod.takeoverOn ld.mod = false ∧ (Mod.ready ld.mod 5 0x01).isSome = true ∧ modelBlockOk blk = true
      ∧ accepts ld.mod (ld.secView 5) modelImage true (Mod.liveContexts ld.mod != 0) = true
      ∧ noFault (Mod.writeObjects (Mod.writeWeights m1 modelImage.weights) blk modelImage.objectBytes) = true)
    ∧ accepts ld.mod (ld.secView 5) { modelImage with magic := 0 } true false = false
    ∧ ((Mod.ready rl.mod 5 0x02).any (fun f => !f.started) = true ∧ accepts rl.mod (rl.secView 5) progImage false false = true
      ∧ (Image.clusterList progImage).any (Mod.clusterBusy rl.mod) = false)
    ∧ ((Mod.ready ed.mod 5 0x02).isSome = true ∧ descFld (dv 0x02 1 [(8, 2)]) 8 1 0 = 2)
    ∧ ((Mod.cluster wb.mod 0).bank0.fetch = 0 ∧ (Mod.cluster wb.mod 0).bank0.waitLoad.isSome = true ∧ Mod.loadsWait m2 5 = false) := by
  decide +kernel

/-- `n` level-2 entries from `a` on, each a leaf for the 2 MiB at bus address 0x4000_0000, writable and pinned. -/
def leaves : Nat → Nat → SMap Byte
  | _, 0 => []
  | a, n + 1 => (a, 0x1F) :: (a + 3, 0x40) :: leaves (a + 8) n

theorem leaves_below {k : Nat} : ∀ {a n : Nat}, k < a → sget (0#8) (leaves a n) k = 0#8
  | _, 0, _ => rfl
  | a, n + 1, h => by
    have h1 : ¬ a = k := by omega
    have h2 : ¬ a + 3 = k := by omega
    have h3 := leaves_below (k := k) (a := a + 8) (n := n) (by omega)
    simp [leaves, sget, h1, h2, h3]

theorem leaves_at : ∀ {i a n : Nat}, i < n → rdBytes (leaves a n) (a + 8 * i) 8 = [0x1F, 0, 0, 0x40, 0, 0, 0, 0]
  | 0, a, n + 1, _ => by
    simp (disch := omega) [rdBytes, leaves, sget, leaves_below, Nat.add_assoc]
  | i + 1, a, n + 1, h => by
    rw [← leaves_at (i := i) (a := a + 8) (n := n) (by omega), show a + 8 * (i + 1) = a + 8 + 8 * i by omega]
    refine rdBytes_congr _ _ _ _ fun k h1 _ => ?_
    have e1 : ¬ a = k := by omega
    have e2 : ¬ a + 3 = k := by omega
    simp [leaves, sget, e1, e2]

/-- The host memory of a page table of `n` such entries. -/
def wideTables (n : Nat) : SMap Byte := (0x10000, 0x09) :: (0x10002, 0x02) :: leaves 0x20000 n

theorem walk_wide {m : Mod} {n va : Nat} (hh : m.mem.host = wideTables n) (hp : m.mem.hostPoison = []) (hv : va < 2 ^ 34)
    (hn : va / 2 ^ 21 < n) : Mod.walk m 0x10009 va = .leaf 0x4000_001F true := by
  have h1 : fld va 46 34 = 0 := by simp only [fld]; omega
  have h2 : fld va 33 21 = va / 2 ^ 21 := by simp only [fld]; omega
  have r0 : Mod.rootFault m 0x10009 = none := rfl
  have t1 : Mod.tableRead m true 0x10000 = some 0x20009 := by
    simp (disch := omega) [Mod.tableRead, Mod.hostRead, hh, hp, anyIn, wideTables, rdBytes, sget, leaves_below, leNat]
  have t2 : Mod.tableRead m true (0x20000 + 8 * (va / 2 ^ 21)) = some 0x4000_001F := by
    have e : rdBytes (wideTables n) (0x20000 + 8 * (va / 2 ^ 21)) 8 = [0x1F, 0, 0, 0x40, 0, 0, 0, 0] := by
      rw [← leaves_at hn]
      refine rdBytes_congr _ _ _ _ fun k h1 _ => ?_
      have e1 : ¬ 0x10000 = k := by omega
      have e2 : ¬ 0x10002 = k := by omega
      simp [wideTables, sget, e1, e2]
    simp only [Mod.tableRead, Mod.hostRead, hh, hp, e]
    simp [anyIn, leNat]
  have w1 : Mod.walkLevel m 1 0x10009 0 = .inr 0x20009 := by
    have a : Mod.tableRead m (entryHost 0x10009) (entryAddr 0x10009 + 8 * 0) = some 0x20009 := t1
    unfold Mod.walkLevel; rw [a]; rfl
  have w2 : Mod.walkLevel m 2 0x20009 (va / 2 ^ 21) = .inl (.leaf 0x4000_001F true) := by
    have a : Mod.tableRead m (entryHost 0x20009) (entryAddr 0x20009 + 8 * (va / 2 ^ 21)) = some 0x4000_001F := t2
    unfold Mod.walkLevel; rw [a]; rfl
  simp only [Mod.walk, r0, h1, h2, w1, w2]

theorem pieces_below {fuel : Nat} : ∀ {va n : Nat} {p : Nat × Nat}, p ∈ pagePieces fuel va n → p.1 < va + n := by
  induction fuel with
  | zero => intro va n p h; simp [pagePieces] at h
  | succ f ih =>
    intro va n p h
    simp only [pagePieces] at h
    split at h
    · simp at h
    · rcases List.mem_cons.mp h with rfl | h
      · simp only; omega
      · have := ih h; omega

/-- A context whose root is that table has every page it covers pinned. -/
theorem pinned_wide {m : Mod} {n ctx va len : Nat} (hh : m.mem.host = wideTables n) (hp : m.mem.hostPoison = [])
    (hr : ∀ a, a < 2 ^ 47 → Mod.root m ctx a = 0x10009) (hv : va + len ≤ 2 ^ 34) (hn : va + len ≤ n * 2 ^ 21) :
    Mod.pinned m ctx va len = true := by
  simp only [Mod.pinned, List.all_eq_true]
  intro p h
  have := pieces_below h
  rw [hr p.1 (by omega), walk_wide hh hp (by omega) (by omega)]
  rfl

/-- CREATE_CONTEXT of context 1 with a save area from address 0 on, over a table that pins 1.2 GB. -/
def stCreate : State :=
  let s := stLoad 0x02 1 1 none (some progModel)
  withMod { s.mod with mem := { s.mod.mem with host := wideTables 563 } }

theorem bind_keeps {m m1 : Mod} {k : Nat} {c c1 : Ctx} (h : Mod.bindDevice m k c = some (m1, c1)) :
    m1.mem = m.mem ∧ m1.ctxs = m.ctxs ∧ c1.blk = c.blk := by
  unfold Mod.bindDevice at h
  dsimp only at h
  split at h
  · cases h
  · cases h; exact ⟨rfl, rfl, rfl⟩

/-- Its descriptor and its context block. -/
def newFlight : Flight := { id := 5, ring := 2, raw := dv 0x02 1 [(8, 1), (0x18, 1024)] }
def newBlock : CtxBlock := { root := 0x10009, saveBytes := 1179648000 }

/-- The context that `makeContext` starts from. -/
def newCtx (fl : Flight) (img : Image) (blk : CtxBlock) : Ctx :=
  let f := descFld fl.raw 8 4 0
  Ctx.withTables { lc := bitAt f 3, exclusive := bitAt f 4, image := img, blk := blk
                   keySlot := match img.signature with | some g => if img.signed then g.slot else 0xFF | none => 0xFF } blk

theorem make_ok {m m1 : Mod} {fl : Flight} {img : Image} {blk : CtxBlock} {c1 : Ctx}
    (h0 : (Mod.hasCtx m (descCtx fl.raw) || ((newCtx fl img blk).exclusive && Mod.exclusiveExists m) || !Mod.ctxBlockOk m blk) = false)
    (hb : Mod.bindDevice m (descCtx fl.raw) (newCtx fl img blk) = some (m1, c1))
    (hp : Mod.areasPinned { m1 with ctxs := sset none m1.ctxs (descCtx fl.raw) (some c1) } (descCtx fl.raw) blk = true) :
    (Mod.makeContext m fl img blk).2 = .ok := by
  change (if (Mod.hasCtx m (descCtx fl.raw) || ((newCtx fl img blk).exclusive && Mod.exclusiveExists m) || !Mod.ctxBlockOk m blk) = true
    then (m, Status.descriptorInvalid)
    else match Mod.bindDevice m (descCtx fl.raw) (newCtx fl img blk) with
      | none => (m, .imageRejected)
      | some (x, c) =>
        let x2 := { x with ctxs := sset none x.ctxs (descCtx fl.raw) (some c) }
        if Mod.areasPinned x2 (descCtx fl.raw) blk = true then (Mod.zeroHostFlags x2 c, .ok) else (m, .saveFault)).2 = .ok
  simp only [h0, hb, hp, if_true, Bool.false_eq_true, if_false]

theorem witness_CreateContext :
    ((Mod.ready stCreate.mod 5 0x02).any (fun f => !f.started) = true ∧ descFld (dv 0x02 1 [(8, 1)]) 8 1 0 = 1
      ∧ accepts stCreate.mod (stCreate.secView 5) progImage false false = true
      ∧ (Image.clusterList progImage).any (Mod.clusterBusy stCreate.mod) = false)
    ∧ (Mod.makeContext stCreate.mod newFlight progImage newBlock).2 = .ok := by
  refine ⟨by decide +kernel, ?_⟩
  have pin (m : Mod) (c : Ctx) (len : Nat) (hm : m.mem = stCreate.mod.mem) (hc : m.ctxs = [(1, some c)]) (hb : c.blk.root = 0x10009)
      (hl : len ≤ 563 * 2 ^ 21) : Mod.pinned m 1 0 len = true := by
    refine pinned_wide (n := 563) (by rw [hm]; rfl) (by rw [hm]; rfl) (fun a ha => ?_) (by omega) (by omega)
    have : bitAt a 47 = false := by simp [bitAt]; omega
    simp [Mod.root, this, hc, sget, hb]
  have hd : (Mod.bindDevice stCreate.mod 1 (newCtx newFlight progImage newBlock)).isSome = true := by decide +kernel
  obtain ⟨⟨m1, c1⟩, hd⟩ := Option.isSome_iff_exists.mp hd
  obtain ⟨h1, h2, h3⟩ := bind_keeps hd
  have hr : c1.blk.root = 0x10009 := by rw [h3]; rfl
  have hk : descCtx newFlight.raw = 1 := by decide +kernel
  refine make_ok (m1 := m1) (c1 := c1) (by decide +kernel) (by rw [hk]; exact hd) ?_
  have e : sset none m1.ctxs 1 (some c1) = [(1, some c1)] := by rw [h2, show stCreate.mod.ctxs = [] from rfl]; rfl
  rw [hk, e]
  simp only [Mod.areasPinned, Bool.and_eq_true]
  exact ⟨pin _ c1 _ h1 rfl hr (by decide +kernel), pin _ c1 _ h1 rfl hr (by simp [newBlock])⟩

/-- A copy of stream 0: kind, flags of byte 10, and a place of 2 MiB device virtual addresses. -/
def stCopy (kind flags : Nat) (e : StreamEntry) : State :=
  let s := stDesc (dv kind 1 [(8, 65536 * flags), (0x10, 0x8000), (0x18, 192)])
  withMod { s.mod with
    model := some streamModel, kv := { streamSlots := [(0, 65537)] }
    ctxs := [(1, some { streamCtx with blk := { streamCtx.blk with root := 0x10009 }, streams := [(0, e)] })] }

/-- The entry of that stream. -/
def entry0 : StreamEntry := { statePtr := 0x8000_0004_0000, stateSize := 64, kind := 1, channels := 1, modes := 1 }

/-- A 64-byte header, and a body of no state whose checksum is that of the header. -/
def header0 : List Byte := List.replicate 64 0
def body0 : List Byte := leBytes 4 (crc32c header0) ++ List.replicate 60 0

theorem witness_StreamCopies :
    let named (s : State) (kind : Nat) : Bool := match Mod.ready s.mod 5 kind, Mod.ctx s.mod 1 with
      | some fl, some c => !Ctx.streamAbsent c 0 && decide ((Ctx.stream c 0).stateSize + 128 ≤ descFld fl.raw 0x18 31 0)
          && !Ctx.pinned c 0 && !busyCopy fl (Ctx.stream c 0) && (Ctx.stream c 0).residency != 4
      | _, _ => false
    let s := stCopy 0x08 2 entry0
    let m0 := Mod.modStream (Mod.modFlight (Mod.startFlight s.mod 5) 5 fun x => { x with prevRes := 1 }) 1 0 fun x => { x with residency := 2 }
    let body := (goodBytes (Mod.blobBody m0 1 0 entry0)).getD []
    named s 0x08 = true ∧ named (stCopy 0x08 3 entry0) 0x08 = true ∧ named (stCopy 0x09 2 entry0) 0x09 = true
    ∧ ((goodBytes (Mod.blobBody m0 1 0 entry0)).isSome = true
      ∧ noFault (Mod.blobWrite m0 1 true 0x8000 body false) = true
      ∧ noFault (Mod.blobWrite (Mod.blobWrite m0 1 true 0x8000 body false).1 1 true (0x8000 + body.length) (blobTrailer body) false) = true)
    ∧ (noFault (Mod.vaWrite s.mod (brimTlbOf (Mod.slotVa s.mod 0)) 1 (Mod.slotVa s.mod 0) (convState entry0 (readBlob header0) []) false) = true
      ∧ (readBlob header0).bytes = 0 ∧ at_ body0 0 4 = crc32c (header0 ++ body0.take 0)
      ∧ at_ header0 0 4 ≠ crc32c (header0 ++ header0.take 0)) := by
  decide +kernel

theorem witness_FaultService :
    let r : FaultRec := { seq := 3, resolvable := true, ops := [.core 0 0] }
    let ring (f : FaultRing) : State := withMod { (st).mod with flt := { f with ctrl := 0x601 } }
    let s := ring { index := 63, head := 0, buffered := [r], recs := [r] }
    let f := ring { index := 0xFFFF_FFFF, head := 0xFFFF_FFFE }
    let saved := withMod { (st).mod with host := { (st).mod.host with flights := [{ id := 0, raw := dv 0x03 1 }] }, cores := [], ctxs := [(1, some { saves := [(0, { job := 0, cores := [core0], order := 1 })] })] }
    (s.mod.flt.buffered = [r] ∧ s.mod.flt.room = true) ∧ (ring { index := 64, head := 0 }).mod.flt.room = false
    ∧ (f.mod.flt.enabled = true ∧ headTakes f.mod.flt.head.toNat (f.mod.flt.index % 2 ^ 32) 0xFFFF_FFFF = true)
    ∧ s.mod.flt.recs.find? (fun r => r.seq == 3 && r.answer == 0) = some r
    ∧ ((∀ o ∈ r.ops, Mod.opSaved saved.mod o = true) ∧ r.ops ≠ []) := by
  decide +kernel

theorem witness_TlbMissWalk :
    let s := stM core0 {}
    Mod.walk s.mod (Mod.root s.mod 1 0x1F_FFFF) 0x1F_FFFF = .leaf 0x4000_001F true
    ∧ Mod.walk s.mod (Mod.root s.mod 1 0x20_0000) 0x20_0000 = .fault .notMapped 2 0
    ∧ (sget [] s.mod.mem.tlbs (tlbKey (.cluster 0))).any (tlbHit 1 0x1F_FFFF) = false := by
  decide +kernel

/-- A table of four rows of 32 INT8 elements on the drive at port 0, owned here, its buddy copy on module (0, 0, 1). -/
def table3 : TableDesc := { table := 3, format := 0, dim := 32, rowBytes := 32, rows := 4, writable := true, shards := 1 }

/-- Its shard map. -/
def shard3 : ShardEntry := { owner := (0, 0, 0), buddy := some (0, 0, 1) }

/-- Context 1 declares that table; the drive at port 0 is in the state given; flash holds `f`. -/
def stTable (state : Nat) (t : Tables) (f : Flash) (fl : List Flight) (excl : Bool := false) : State :=
  let m := (stRing {} { reserved := 2 } fl).mod
  let drive : Drive := { ({} : Drive) with state := state, lbas := 1000, nsids := [1] }
  withMod { m with
    ctxs := [(1, some { blk := { root := 0x10009 }, exclusive := excl, image := { objects := [{ number := 4, kind := .table 3 0 32 32 }] } })]
    model := some { blk := { root := 0x10009, tableCacheVa := 0x8000_0000_0000, updateCacheUnits := 1 } }
    flash := { f with drives := [(0, { (sget {} f.drives 0 : Drive) with state := drive.state, lbas := drive.lbas, nsids := drive.nsids })] }
    tab := t }

/-- The table bound. -/
def bound3 : SMap Bound := [(3, { d := table3, shards := [shard3], copying := 3 })]

theorem witness_TableBinding :
    let bind (state kind : Nat) := stTable state {} {} [{ id := 5, ring := 2, raw := dv 0x0A 1 [(0x1C, kind)] }]
    let flush (f : Flight) := stTable 1 {} {} [{ f with id := 5, ring := 2, raw := dv 0x0B 0xFF }]
    let asks (s : State) (kind : Nat) : Bool := match Mod.ready s.mod 5 0x0A with | some fl => descFld fl.raw 0x1C 1 0 == kind | none => false
    ([shard3].length = table3.shards ∧ [shard3] ≠ [])
    ∧ (asks (bind 1 0) 0 = true ∧ Mod.bindCheck (bind 1 0).mod 1 table3 = .ok ∧ Mod.isSpare (bind 1 0).mod = false)
    ∧ (asks (bind 2 0) 0 = true ∧ Mod.bindCheck (bind 2 0).mod 1 table3 = .bad .imageRejected)
    ∧ (asks (bind 3 0) 0 = true ∧ Mod.bindCheck (bind 3 0).mod 1 table3 = .wait)
    ∧ asks (bind 1 1) 1 = true
    ∧ (asks (bind 1 2) 2 = true ∧ Mod.drivesCheck (bind 1 2).mod table3 = .ok ∧ Mod.extentFits (bind 1 2).mod table3 0 (16 * 4) = true
      ∧ Mod.extentFits (bind 1 2).mod table3 0 (16 * 1000) = false)
    ∧ (Mod.ready (flush { started := true, phase := .running }).mod 5 0x0B).isSome = true
    ∧ ((Mod.ready (flush {}).mod 5 0x0B).any (fun f => !f.started) = true ∧ (flush {}).mod.tab.updates = [] ∧ (flush {}).mod.tab.dirty = [])
    ∧ 0 < table3.rows := by decide +kernel

/-- GATHER, TPF or SCATTER over table 3 with one key, of the key list at object 9. -/
def bagWords (op : Nat) : PvisWords := pv op [(36, 3)] ([[(48, 9), (16, 1)]] ++ if op = 0x92 then [[(48, 9)]] else [])

/-- A bag whose one row has arrived: a token goes to the consumer of channel 5. -/
def bag0 : Bag := { id := 2, core := 0, ctx := 1, job := 0, table := 3, pooling := 0, format := 0, cores := 0, channel := 5, keys := 1
                    token := some (7, false), rows := [(1, 1)], got := [(1, List.replicate 32 1, true)], read := true }

/-- Context 1 has the channel 5 from its role to itself; the consumer's queue holds `n` entries. -/
def stBag (n : Nat) : State :=
  let s := st { core0 with queues := [(7, List.replicate n (tokenEntry 0 false 0))] }
    { image := { progImage with channels := [{ number := 5 }] } }
  withMod { s.mod with tab := { s.mod.tab with bound := bound3, bags := [bag0] } }

theorem witness_TableGathers :
    let s := stTable 1 { bound := bound3 } {} []
    let w := withMod { (stTable 1 { bound := bound3 } {} [] true).mod with cores := [(0, core0)] }
    let n := withMod { s.mod with cores := [(0, core0)] }
    let out (k : Nat) := (Mod.pushOut (Mod.markPoison (stBag k).mod 0) bag0 [(0, tokenEntry 7 true 0)]).2
    let raw := st core0 { image := { sections := [{ type := 10 }] } }
    let z := withMod { raw.mod with sys := { raw.mod.sys with grade := .s64 } }
    (Issues n 0 0x90 (bagWords 0x90) ∧ Issues n 0 0x91 (bagWords 0x91) ∧ Issues w 0 0x92 (bagWords 0x92)
      ∧ Issues n 0 0x92 (bagWords 0x92))
    ∧ (Mod.scatterDenied w.mod 0 3 = false ∧ Mod.scatterDenied n.mod 0 3 = true)
    ∧ (Mod.bagOf (stBag 0).mod 2 = some bag0 ∧ bag0.complete = true)
    ∧ (out 0 = [] ∧ out 15 = [] ∧ out 16 = [(0, tokenEntry 7 true 0)])
    ∧ (Mod.canIssue z.mod 0 = true ∧ z.mod.sys.grade = .s64 ∧ Mod.rawRole z.mod 0 = true) :=
  ⟨⟨issues_of (by decide +kernel), issues_of (by decide +kernel), issues_of (by decide +kernel), issues_of (by decide +kernel)⟩,
    by decide +kernel⟩

/-- Table 0 bound as table 3 is, its cache one unit of frames whose way 0 holds page 0 as given; deltas of row 1 wait. -/
def stCache (w : Way) (reads : List RowRead := []) : State :=
  let b : Bound := { d := { table3 with table := 0 }, shards := [shard3], copying := 3 }
  let s := stTable 1 { bound := [(0, b)], ways := [(0, w)], updates := [⟨0, 1, List.replicate 32 0⟩] } { reads := reads }
    [{ id := 5, ring := 2, flushes := [(0, 0)] }]
  withMod { s.mod with model := some { blk := { root := 0x10009, tableCacheVa := 0x8000_0000_0000, tableCacheUnits := 1, updateCacheUnits := 1 } } }

theorem witness_TableCache :
    let full := (stCache { filling := true, loaded := true }).mod
    let s := (stCache { valid := true }).mod
    let bs := (goodBytes (Mod.vaRead s (brimTlbOf (Mod.wayVa s 0)) 0xFF (Mod.wayVa s 0) 4096)).getD []
    (Mod.findWay full 0 0 0 = some 0 ∧ (Mod.way full 0).filling = true ∧ (Mod.way full 0).loaded = true)
    ∧ ((∃ f ∈ s.host.flights, f.flushes.contains (0, 0) = true ∧ f.merged.contains (0, 0) = false)
      ∧ Mod.dirtyRows s 0 0 ≠ [] ∧ (Mod.bound s 0).isSome = true ∧ Mod.findWay s 0 0 0 = some 0 ∧ (Mod.way s 0).valid = true
      ∧ (goodBytes (Mod.vaRead s (brimTlbOf (Mod.wayVa s 0)) 0xFF (Mod.wayVa s 0) 4096)).isSome = true
      ∧ Mod.oldestWay s ((waysOf 0).filter fun j => j != 0 && !(Mod.way s j).filling) = some 1)
    ∧ noFault (Mod.vaWrite s (brimTlbOf (Mod.wayVa s 1)) 0xFF (Mod.wayVa s 1)
        (mergedPage (Mod.tableD s 0) bs (Mod.dirtyRows s 0 0)) false) = true
    ∧ ((Mod.bound s 0).any (fun b => bitAt b.copying 0 && bitAt b.copying 1)) = true := by
  decide +kernel

/-- The drive at port 3 in a state, with a command outstanding. -/
def stDrive (state cls timeouts : Nat) : State :=
  withMod { (st).mod with flash := { (st).mod.flash with drives := [(3, { ({} : Drive) with
    state := state, cmds := [{ cid := 9, cls := cls }], timeouts := timeouts, grant := 3, queues := 0x0300_0400_0001_0101 })] } }

theorem witness_Drives :
    let out (s : State) := (Mod.drive s.mod 3).outstanding.find? (fun c => c.cid == 9)
    (Mod.drive (stDrive 3 2 0).mod 3).state = 3 ∧ (Mod.drive (stDrive 1 2 0).mod 3).state = 1
    ∧ ((out (stDrive 1 2 1)).any (fun x => x.cls == 2 && x.kvPage == 0) = true ∧ (Mod.drive (stDrive 1 2 1).mod 3).timeouts < 2)
    ∧ ((out (stDrive 1 2 2)).any (fun x => x.cls == 2 && x.kvPage == 0) = true ∧ 2 ≤ (Mod.drive (stDrive 1 2 2).mod 3).timeouts)
    ∧ ((stDrive 3 2 0).mod.sys.cfgReady = true ∧ (3 : Fin 4).val < Config.flashPorts (stDrive 3 2 0).mod.sys.grade
      ∧ flpValid (0x0300_0400_0001_0101 &&& flpMask) = true ∧ flpValid (0x0300_0400_0020_2001 &&& flpMask) = false)
    ∧ (1 ≤ fld (Mod.drive (stDrive 3 2 0).mod 3).queues.toNat 22 16 ∧ 1 ≤ (Mod.drive (stDrive 3 2 0).mod 3).grant) := by
  decide +kernel

theorem witness_ReadLimits :
    let r (remote : Bool) : RowRead := { id := 4, table := 0, copy := 0, page := 0, row := 1, remote := remote }
    let s := (stCache { filling := true } [r false]).mod
    let h := { s with tab := { s.tab with bound := [(0, { d := { table3 with table := 0 }, shards := [shard3] })] } }
    let f := (stCache { filling := true } [r true]).mod
    let f := { f with fab := { f.fab with reqs := [{ tag := 1, ptype := 6, va := 4 }] } }
    let m1 := Mod.serveRead (Mod.freePage s).1 (r false) (Mod.freePage s).2 true
    (h.flash.reads.find? (fun x => x.id == 4) = some (r false) ∧ Mod.findWay h 0 0 0 = some 0 ∧ (Mod.way h 0).filling = true
      ∧ (Mod.way h 0).loaded = false ∧ Mod.hedgeOn h 0 0 = true ∧ (Mod.otherHolder h 0 0).isSome = true)
    ∧ (f.flash.reads.find? (fun x => x.id == 4) = some (r true)
      ∧ (f.fab.reqs.find? (fun q => q.ptype == 0x06 && q.va == 4)).isSome = true)
    ∧ Mod.readsOf m1 0 0 0 = [] := by
  decide +kernel

/-- A ring of two members in X. -/
def twoX : DWord := 0x0100_0000

/-- A group of the two members with one operation. -/
def coll0 (op : CollOp) : CollDesc := {
  group := 63, dims := 1, extent := (2, 1, 1), context := 1, stagingBytes := 512, ops := [{ op with trigger := 1, done := 1 }] }

/-- Context 1 declares flag 1, which is set; the module is the first of two; a COLLECTIVE_GROUP descriptor waits. -/
def stColl (dissolve : Nat) (gr : Option Group) (grade : Grade := .a80) : State :=
  let s := stDesc (dv 0x0C 1 [(0x10, 63 + 65536 * dissolve)])
  withMod { s.mod with
    sys := { s.mod.sys with grade := grade }
    fab := { s.mod.fab with coord := twoX }
    dev := { s.mod.dev with flags := [(5, true)] }
    ctxs := [(1, some { flagsCtx with blk := { root := 0x10009 } })]
    coll := match gr with | some g => [(63, some g)] | none => [] }

theorem witness_Collectives :
    let bcast : CollOp := { op := 4, bytes := 256 }
    let none_ : CollOp := { op := 4 }
    let g (o : CollOp) (run : Bool) : Group := { d := coll0 o, running := run }
    let s := stColl 0 none
    let z := stColl 0 none .s64
    let of (o : CollOp) (run : Bool) := (stColl 1 (some (g o run))).mod
    let has (o : CollOp) (run : Bool) := Mod.group (of o run) 63 = some (g o run)
    ((Mod.ready s.mod 5 0x0C).isSome = true ∧ Mod.collOk s.mod (coll0 bcast) = true ∧ Mod.group s.mod 63 = none
      ∧ Config.reduction s.mod.sys.grade = true)
    ∧ ((Mod.ready z.mod 5 0x0C).isSome = true ∧ Mod.collOk z.mod (coll0 { bcast with op := 1 }) = true
      ∧ Config.reduction z.mod.sys.grade = false)
    ∧ (Mod.collOk s.mod { coll0 bcast with stagingBytes := 511 } = false ∧ (Mod.group (of bcast false) 63).isSome = true)
    ∧ (bitAt (descFld (dv 0x0C 1 [(0x10, 63 + 65536)]) 0x10 31 0) 16 = true
      ∧ descFld (dv 0x0C 1 [(0x10, 63 + 65536)]) 0x10 15 0 = 63)
    ∧ (has bcast false ∧ Mod.deviceFlagSet (of bcast false) 1 1 = true)
    ∧ (has none_ true ∧ (g none_ true).opDone = true)
    ∧ (has bcast true ∧ (g bcast true).opDone = false ∧ (Mod.stalledOn (of bcast true) (g bcast true)).any [].contains = false)
    ∧ (63 * 2 ^ 42 / 2 ^ 42 = 63 ∧ (g bcast true).failed = false ∧ (g bcast true).waiting = []) := by
  decide +kernel

/-- The module of two in X with a port as given. -/
def stPort (p : Nat) (q : Port) (more : Mod → Mod := id) : State :=
  let s := st
  withMod (more { s.mod with fab := { s.mod.fab with coord := twoX, ports := [(p, q)] } })

theorem witness_Ports :
    let in_ (n : Nat) := (stPort 0 { state := n }).mod
    let far : IdleInfo := { coord := (1, 0, 0), port := 2, extents := (2, 1, 1) }
    (∀ n ∈ [0, 1, 2, 3, 4, 5, 6, 7, 8, 9], (Mod.port (in_ n) 0).state = n)
    ∧ (let q := Mod.port (stPort 15 { enable := true, retry := true }).mod 15
       q.state = 0 ∧ q.enable = true ∧ q.retry = true)
    ∧ (4 ≤ laneCount 0x55 ∧ ¬ 4 ≤ laneCount 0x15)
    ∧ (lanesOf 0xFF = some 0 ∧ lanesOf 0x7F = some 1 ∧ lanesOf 0xF7 = some 2 ∧ lanesOf 0x77 = none)
    ∧ lanesOf (0xFF &&& lanesMask 2) = some 2
    ∧ (Mod.identityOk (in_ 4) 0 far = true ∧ Mod.identityOk (in_ 4) 0 { far with port := 3 } = false)
    ∧ ((in_ 0).sys.cfgReady = true ∧ Mod.portAbsent (in_ 0) 15 = false ∧ (in_ 0).sys.serviceReady = true)
    ∧ (let m := (stPort 0 {} fun m => { m with sys := { m.sys with serviceReady := false } }).mod
       m.sys.serviceReady = false ∧ Mod.portAbsent m 0 = false)
    ∧ (∀ r ∈ (stPort 0 {}).mod.fab.ports, r.2.state = 0)
    ∧ (let m := (stPort 0 { state := 6 } fun m => { m with sys := { m.sys with failing := true, failPorts := true } }).mod
       m.sys.failing = true ∧ m.sys.failPorts = true) := by
  decide +kernel

theorem witness_Flits :
    let s (q : Port) := (stPort 0 { q with state := 6 }).mod
    let h (n : Nat) : FlitHdr := { seq := n }
    let held (n : Nat) : Port := { replay := [(1, n, none)] }
    let at1 (q : Port) := Mod.port (Mod.header (s q) 0 (h 0)) 0
    ((Mod.port (s {}) 0).state = 6 ∧ (h 0).good = true)
    ∧ ((h 1023).seq = (at1 { seqRx := 1023 }).seqRx)
    ∧ ((h 0).seq ≠ (at1 { seqRx := 1023 }).seqRx ∧ (at1 { seqRx := 1023 }).nakOut = false)
    ∧ ((h 0).seq ≠ (at1 { seqRx := 1023, nakOut := true }).seqRx ∧ (at1 { seqRx := 1023, nakOut := true }).nakOut = true)
    ∧ ((∀ e ∈ (at1 (held 15)).replay, seqLe 1 e.1 = true → e.2.1 < 16)
      ∧ (at1 { held 15 with nakAt := List.replicate 62 0 }).nakAt.length < 63)
    ∧ (∃ e ∈ (at1 (held 16)).replay, seqLe 1 e.1 = true ∧ 16 ≤ e.2.1)
    ∧ ((Mod.port (s { nakOut := true }) 0).nakOut = true)
    ∧ (let m := (stPort 0 { state := 9 }).mod
       ∀ x ∈ 0 :: (Mod.pairPort m 0).toList, (Mod.port m x).state ≠ 6)
    ∧ (let m := (stPort 0 {} fun m => { m with fab := { m.fab with reqs := [{ tag := 3 }] } }).mod
       (m.fab.reqs.find? (fun r => r.tag == 3)).isSome = true)
    ∧ (seqLe 1023 0 = true ∧ seqLe 0 1023 = false) := by
  decide +kernel

theorem witness_Packets :
    let s := (stM core0 {}).mod
    let w : Packet := { ptype := 0x01, context := 1, address := 0x1F_FFFF, data := [1] }
    let rd : Packet := { ptype := 0x02, context := 1, address := 0, data := leBytes 4 64 }
    let req (r : Req) := { s with fab := { s.fab with reqs := [r] } }
    let k (t : Nat) : Packet := { ptype := t, tag := 5, context := 1, data := [1] }
    let move := pv 0x61 [(40, 2), (19, 1)] [[(48, 5)], []]
    let home := (st core0 { flagsCtx with image := { flagsCtx.image with
      roles := [⟨0, [move.w, move.e1, move.e2]⟩], placement := [⟨0, 0, 1, 1⟩], channels := [{ number := 5 }] } }).mod
    let found (m : Mod) (p : Req → Bool) : Bool := (m.fab.reqs.find? p).isSome
    let q := { s with fab := { s.fab with chans := [(65536, { held := List.replicate 15 {} })] } }
    let tb := (stCache {}).mod
    let row (kind : Nat) : Packet := { ptype := 0x06, address := 3, data := rowReqData kind 0 0 }
    let f := stF.mod
    let asked : RowRead := { id := 4, table := 0, copy := 0, page := 0, row := 1, remote := true }
    let ans := { tb with flash := { tb.flash with reads := [asked] }, fab := { tb.fab with reqs := [{ tag := 5, ptype := 6, va := 4 }] } }
    (isLines w = false ∧ noFault (Mod.vaWrite s (brimTlbOf w.address) 1 w.address w.data false) = true)
    ∧ (noFault (Mod.vaWrite s (brimTlbOf 0x20_0000) 1 0x20_0000 [1] false) = false)
    ∧ ((goodBytes (Mod.vaRead (Mod.takeIn s rd) (brimTlbOf 0) 1 0 (min 4096 (leNat (rd.data.take 4))))).isSome = true)
    ∧ (let m := req { tag := 5, ptype := 2, ctx := 1, va := 0x40 }
       found (Mod.takeIn m (k 3)) (fun r => r.tag == 5 && r.ptype == 0x02) = true
         ∧ noFault (Mod.vaWrite (Mod.takeIn m (k 3)) (brimTlbOf 0x40) 1 0x40 [1] false) = true)
    ∧ found (Mod.takeIn (req { tag := 5, ptype := 1 }) (k 8)) (fun r => r.tag == 5 && r.ptype != 0x02 && r.ptype != 0x06) = true
    ∧ ((Mod.chan q 1 0).held.length < 16 ∧ (Mod.ctx q 1).isSome = true)
    ∧ (Mod.ctx f 1 = some flagsCtx ∧ Ctx.flagClass flagsCtx 1 ≠ .cluster ∧ Ctx.flagClass flagsCtx 0 = .cluster
      ∧ Mod.flagHome home 1 0 = some 0)
    ∧ (rowReqKind (row 2) = 2 ∧ Mod.updRoom tb 0 3 = true)
    ∧ (rowReqKind (row 0) = 0 ∧ (Mod.bound tb (rowReqTable (row 0))).isSome = true
      ∧ copyShard (Mod.tableD tb 0) (if rowShard (Mod.tableD tb 0) 3 = (Mod.tableD tb 0).localShard then 0 else 1) ≠ 0xFFFF)
    ∧ (found (Mod.takeIn ans (k 7)) (fun q => q.tag == 5 && q.ptype == 0x06) = true
      ∧ ans.flash.reads.find? (fun r => r.id == 4) = some asked) := by
  decide +kernel

/-- The spare of a ring of two members in X. -/
def stSpare (r : Recovery) (more : Mod → Mod := id) : State :=
  let s := st
  withMod (more { s.mod with fab := { s.mod.fab with coord := 0x10_0100_0000 }, rcv := r, ctxs := [], cores := [], clusters := [] })

theorem witness_PeersAndLosses :
    let s := stSpare {}
    let seen := stSpare {} fun m => { m with fab := { m.fab with slow := [(1, 0, 0)], lost := [(1, 0, 0)] } }
    let quiet := stSpare { silent := [(4, true), (5, true), (6, true)] }
    let held := stSpare { takeover := some { x := 1 } }
    let hot := stSpare {} fun m => { m with mem := { m.mem with sites := [(15, { state := 2 })] } }
    let down : Port := { state := 9, wasActive := true }
    let cut := withMod { s.mod with fab := { s.mod.fab with coord := twoX, ports := [(2, down), (3, down)] } }
    (s.mod.fab.slow.contains (1, 0, 0) = false ∧ seen.mod.fab.slow.contains (1, 0, 0) = true)
    ∧ (Mod.throttledSite hot.mod = some 15 ∧ hot.mod.sys.failing = false)
    ∧ (Mod.isSpare s.mod = true ∧ ((1, 0, 0) : Xyz).2 = (Mod.here s.mod).2)
    ∧ (∀ q < 3, sget false quiet.mod.rcv.silent ((1 : Byte).toNat * 4 + q) = true)
    ∧ s.mod.sys.cfgReady = true
    ∧ (s.mod.sys.grade = .a80 ∧ s.mod.rcv.takeover = none ∧ 1 < (Mod.extents s.mod).1
      ∧ Mod.isLost s.mod (1, (Mod.here s.mod).2) = false)
    ∧ (Mod.isLost seen.mod (1, 0, 0) = true ∧ seen.mod.fab.ready.contains (1, 0, 0) = false)
    ∧ (held.mod.rcv.takeover = some { x := (1 : Byte).toNat } ∧ ∀ p ∈ held.mod.ctxs, p.2 = none)
    ∧ (Mod.farEnd cut.mod 2 = some ((1, 0, 0), 0, false) ∧ Mod.isSpare cut.mod = false ∧ (Mod.port cut.mod 2).state = 9
      ∧ (Mod.port cut.mod 3).state = 9 ∧ (Mod.port cut.mod 3).wasActive = true ∧ Mod.isLost cut.mod (1, 0, 0) = false) := by
  decide +kernel

theorem witness_BuddyAndTakeover :
    let t : Takeover := { x := 1 }
    let ld := stLoad 0x01 0 0xFF none none
    let spare (t : Takeover) (m : Mod) : Mod :=
      { m with fab := { m.fab with coord := 0x10_0100_0000 }, rcv := { buddyArea := 0x8000_0000_0000, takeover := some t } }
    let b := spare t { (stCache {}).mod with ctxs := [] }
    let header := List.replicate 64 (1 : Byte)
    let va := Mod.areaVa b
    let l := spare { t with begun := true } ld.mod
    ((stSpare {}).mod.sys.cfgReady = true ∧ (∀ p ∈ (stSpare {}).mod.ctxs, p.2 = none) ∧ ∃ p ∈ (st).mod.ctxs, p.2 ≠ none)
    ∧ (b.rcv.takeover = some t ∧ t.begun = false ∧ Mod.isSpare b = true
      ∧ noFault (Mod.vaWrite b (brimTlbOf va) 0xFF va header false) = true
      ∧ Mod.areaVa (Mod.vaWrite b (brimTlbOf va) 0xFF va header false).1 = va
      ∧ noFault (Mod.vaWrite (Mod.vaWrite b (brimTlbOf va) 0xFF va header false).1 (brimTlbOf (va + 128)) 0xFF (va + 128) [] false) = true)
    ∧ (Mod.isSpare l = true ∧ Takeover.source { t with begun := true } modelImage 0 = 3
      ∧ (Mod.loadModel l (ld.secView 5) 5 modelImage { root := 0x10009 } modelImage.weights modelImage.objectBytes).2 = true) := by
  decide +kernel

/-- The module with a power plane as given. -/
def stPwr (p : Power) : State := withMod { (st).mod with pwr := p }

theorem witness_PowerLimits :
    let s := stPwr {}
    let low : Power := { commonCap := 550, islands := [(255, { lowered := 10 })] }
    let hold := stPwr { warmup := false, islands := [(255, { uvHold := true })] }
    (s.mod.sys.rails = true ∧ s.mod.sys.cfgReady = true ∧ s.mod.pwr.braked = false)
    ∧ (let eff := min (clampW s.mod.pwr.hostCeiling) (clampW s.mod.pwr.mgmtCeiling)
       eff < 2001 ∧ minMv < s.mod.pwr.commonCap ∧ (2000 ≤ eff ∧ 97 * eff ≤ 100 * 1940) ∧ 100 * 1939 < 97 * eff)
    ∧ (stPwr low).mod.pwr.commonCap ≤ minMv ∧ Mod.loweredIslands s.mod = []
    ∧ (hold.mod.pwr.warmup = false ∧ (Mod.island hold.mod 255).thermalCap = maxMv ∧ (Mod.island hold.mod 255).mv ≤ maxMv)
    ∧ ((Mod.island s.mod 255).uvHold = false ∧ (Mod.island hold.mod 255).uvHold = true)
    ∧ (s.mod.pwr.braked = true → False) ∧ (stPwr { brakePin := true }).mod.pwr.braked = true := by
  decide +kernel

theorem witness_PowerOnAndReset :
    let s := st
    let sys (f : Sys → Sys) : State := withMod { s.mod with sys := f s.mod.sys }
    let a : SlotCheck := {}
    let trained := withMod { State.reset.mod with mem := { State.reset.mod.mem with
      sites := (List.range 16).map fun n => (n, { state := 0, rate := 40, trained := true }) } }
    (sys fun y => { y with input := false }).mod.sys.input = false
    ∧ (s.mod.sys.input = true ∧ s.mod.sys.rails = true ∧ s.mod.sys.trip = false ∧ s.mod.sys.perst = false)
    ∧ ((sys fun y => { y with perst := true }).mod.sys.perst = true ∧ (sys fun y => { y with perst := true }).mod.sys.trip = false)
    ∧ (s.mgt.bootSlot a a = 0 ∧ s.mgt.accepts { keyFuse := 1 } = true ∧ s.mgt.accepts { keyFuse := 2 } = false
      ∧ ({ s.mgt with preferB := true } : Mgmt).bootSlot a a = 1 ∧ s.mgt.bootSlot { signatureOk := false } { signatureOk := false } = 2)
    ∧ (trained.mod.sys.crown = 2 ∧ trained.mod.sys.serviceReady = false ∧ Mod.sitesTrained trained.mod = true)
    ∧ (s.mod.sys.crown ≠ 1
      ∧ (({ s.mgt with resetAt := [0] } : Mgmt).resetAt.filter fun t => decide (s.mod.sys.timer.toNat ≤ t + 60 * ticksS)).length < 2)
    ∧ (let y := sys fun y => { y with crown := 1 }
       y.mod.sys.crown = 1 ∧ y.mod.sys.perst = false ∧ y.mgt.rebootSlot a a = y.mgt.booted ∧ y.mgt.booted < 2)
    ∧ s.mod.sys.cfgReady = true := by
  decide +kernel

/-- A fold that keeps a value keeps one. -/
theorem foldl_isSome {α β : Type} (f : Option β → α → Option β) (hf : ∀ a x, (f a x).isSome = true) (l : List α) (a : Option β)
    (h : l ≠ [] ∨ a.isSome = true) : (l.foldl f a).isSome = true := by
  induction l generalizing a with
  | nil => simpa using h
  | cons x xs ih => exact ih _ (.inr (hf a x))

/-- 4,096 single granules of site 0 and `n` blocks are poisoned. -/
def stPoison (n : Nat) : Mod :=
  { (st).mod with mem := { (st).mod.mem with
    granules := (List.range 4096).map fun i => (i, true), blocks := (List.range n).map fun i => (1000 + i, true) } }

theorem witness_SitesAndRetirement :
    let site (x : Site) : State := withMod { (st).mod with mem := { (st).mod.mem with sites := [(15, x)] } }
    let s := site {}
    let t := site { state := 0, trained := true }
    let warm := site { state := 2, trained := true }
    let k (c : Cluster) (y : Sys → Sys) : State := withMod { (st).mod with clusters := [(255, c)], sys := y (st).mod.sys }
    (Mod.hasSite s.mod 15 = true ∧ s.mod.sys.perst = false ∧ (Mod.site s.mod 15).trained = false)
    ∧ ((Mod.site t.mod 15).state < 3 ∧ siteLevel 0 84 = 0 ∧ siteLevel 0 85 = 1 ∧ siteLevel 1 83 = 1 ∧ siteLevel 1 82 = 0)
    ∧ ((Mod.site warm.mod 15).state < 4 ∧ siteLevel 2 0 = 0 ∧ siteLevel 2 105 = 3)
    ∧ (k { retiring := true } id).mod.clusters = [(255, { retiring := true })]
    ∧ (let b := k {} fun y => { y with linerUsed := (List.range 64).map fun i => (i, true) }
       (Mod.cluster b.mod 255).retiring = false ∧ sget false b.mod.sys.linerUsed (islandOf b.mod.sys.grade 0) = true)
    ∧ (let b := k {} fun y => { y with serviceReady := false }
       255 < Config.clusters b.mod.sys.grade ∧ (Mod.cluster b.mod 255).retiring = false
         ∧ sget false b.mod.sys.linerUsed (islandOf b.mod.sys.grade 255) = false ∧ b.mod.sys.serviceReady = false) := by
  decide +kernel

/-- A directory with a free block entry takes the block. -/
theorem mergeBlock_fits {m : Mod} {n : Nat} (h : blockCount m.mem.blocks n < 256) : (Mod.mergeBlock m n).2 = true := by
  unfold Mod.mergeBlock
  split
  · rfl
  · rw [if_pos h]

/-- A directory with neither takes nothing. -/
theorem mergeBlock_full {m : Mod} {n : Nat} (h : ¬ blockCount m.mem.blocks n < 256)
    (hf : (m.mem.granules.filter fun p => p.1 / (siteBytes / 64) == n) ≠ []) : (Mod.mergeBlock m n).2 = false := by
  have hs : (fullestBlock m.mem.granules n).isSome = true := by
    unfold fullestBlock
    rw [Option.isSome_map]
    exact foldl_isSome _ (by intro a x; cases a <;> simp; split <;> rfl) _ _ (.inl (by simpa using hf))
  unfold Mod.mergeBlock
  split
  · next h => rw [h] at hs; exact absurd hs (by simp)
  · rw [if_neg h]

theorem witness_PoisonBlockMerge :
    4096 ≤ granuleCount (stPoison 0).mem.granules 0 ∧ (Mod.mergeBlock (stPoison 255) 0).2 = true
    ∧ (Mod.mergeBlock (stPoison 256) 0).2 = false :=
  ⟨by decide +kernel, mergeBlock_fits (by decide +kernel), mergeBlock_full (by decide +kernel) (by
    intro h
    have h1 : 4096 ≤ granuleCount (stPoison 256).mem.granules 0 := by decide +kernel
    unfold granuleCount at h1
    rw [h] at h1
    exact absurd h1 (by decide))⟩

/-- The management state of a state, and the state with another. -/
def withMgt (f : Mgmt → Mgmt) : State := { st with mgt := f (st).mgt }

theorem witness_ManagementHelper :
    let s := st
    let read := withMgt fun g => { g with telemetry := { g.telemetry with powerW := some 400, inputV := none } }
    let alert := withMod { s.mod with sys := { s.mod.sys with alerts := [(.deviceFailing, 1)], alertsLost := 2 } }
    s.mod.sys.input = true ∧ s.mod.sys.i3c = false ∧ s.mgt.smbus = false ∧ ((8 : Byte) ≠ 0 ∧ (8 : Byte) ≠ 0xFF)
    ∧ read.sensor 1 = some (some 400) ∧ read.sensor 2 = some none ∧ (read.sensor 0 = none ∧ read.sensor 25 = none)
    ∧ (clampW 600 = 600 ∧ clampW 599 = 600 ∧ clampW 2000 = 2000 ∧ clampW 2001 = 2000)
    ∧ s.mod.sys.alerts = [] ∧ alert.mod.sys.alerts ≠ [] := by
  decide +kernel

theorem witness_FirmwareUpdate :
    let s := st
    let at_ (u : UpdState) := withMgt fun g => { g with upd := u, updSize := 4096 }
    let down := withMod { s.mod with sys := { s.mod.sys with crown := 1 } }
    (s.mod.sys.input = true ∧ s.crownServes = true ∧ down.crownServes = false)
    ∧ (∀ u ∈ [UpdState.idle, .learn, .ready, .download, .verify, .apply, .activate],
        (at_ u).mgt.upd = u ∧ (at_ u).crownServes = true)
    ∧ 0 + (List.replicate 4096 (0 : Byte)).length ≤ (at_ .download).mgt.updSize
    ∧ (s.mgt.accepts {} = true ∧ s.mgt.accepts { signatureOk := false } = false)
    ∧ (s.mgt.booted < 2 ∧ s.mgt.targetB = true ∧ ({ s.mgt with booted := 1 } : Mgmt).targetB = false) := by
  decide +kernel

theorem witness_SecurityAndRegisters :
    let s := st
    let lock := withMgt fun g => { g with policy := 0x8000_0000 }
    let key := withMgt fun g => { g with imageKeys := [(3, 1)], fwRevoked := 2 }
    let out (w : List (List Byte)) := withMgt fun g => { g with inBusy := true, outReady := true, outWait := w }
    let half := withMod { s.mod with sys := { s.mod.sys with heldLow := some (0x2040, 7) } }
    let z := withMod { s.mod with sys := { s.mod.sys with grade := .s64 } }
    (s.mod.sys.input = true ∧ s.crownServes = true ∧ s.mgt.locked = false ∧ s.mod.sys.cfgReady = true)
    ∧ (sget 0 s.mgt.imageKeys 3 = 0 ∧ sget 0 key.mgt.imageKeys 3 ≠ 0 ∧ bitAt key.mgt.fwRevoked 1 = true ∧ lock.mgt.locked = true)
    ∧ (s.mgt.inBusy = false ∧ (out []).mgt.inBusy = true ∧ (out []).mgt.outReady = true ∧ (out [[0]]).mgt.outWait = [[0]]
      ∧ (withMgt fun g => { g with inBusy := true }).mgt.outReady = false)
    ∧ (regAt 0x1FF8 = none ∧ (regAt 0x2140).any (fun r => Mod.regAbsent z.mod r) = true)
    ∧ (0x2040 % 8 = 0 ∧ (regAt 0x2040).any Reg.wide = true ∧ half.mod.sys.heldLow = some (0x2044 - 4, 7))
    ∧ ((regAt 0x6188).any (fun r => !r.wide) = true ∧ (regAt (0x6188 / 8 * 8)).all (fun b => !b.wide) = true) := by
  decide +kernel

theorem witness_FaultLed :
    let y (f : Sys → Sys) := withMod { (st).mod with sys := f (st).mod.sys }
    (st).mod.sys.input = true ∧ (y fun s => { s with trip := true }).mod.sys.trip = true
    ∧ ((y fun s => { s with failing := true }).mod.sys.failing = true ∧ (y fun s => { s with crown := 3 }).mod.sys.crown = 3
      ∧ (st).mod.sys.crown ≠ 3 ∧ (st).mod.sys.failing = false ∧ (st).mod.sys.trip = false)
    ∧ (bitAt (withMgt fun g => { g with sideband := 0x100 }).mgt.sideband.toNat 8 = true ∧ bitAt (st).mgt.sideband.toNat 8 = false) := by
  decide +kernel

theorem witness_UnlistedOffsets :
    (0xFFFC % 4 = 0 ∧ ¬ listedWide 0xFFFC ∧ ¬ listedNarrow 0xFFFC ∧ ¬ listedWide (0xFFFC / 8 * 8))
    ∧ (0x2178 % 8 = 0 ∧ inArray 0x2178 0x2140 8 8) ∧ inArray 0x21C0 0x21C0 8 8 ∧ inArray 0x1878 0x1860 8 4 ∧ inArray 0x1C18 0x1C10 8 2
    ∧ inArray 0x1C58 0x1C50 8 2 := by
  refine ⟨⟨rfl, ?_, ?_, ?_⟩, ⟨rfl, 7, by decide⟩, ⟨0, by decide⟩, ⟨3, by decide⟩, ⟨1, by decide⟩, ⟨1, by decide⟩⟩
  · rintro (⟨n, k, hn, hk, e⟩ | h | ⟨k, hk, e⟩ | ⟨k, hk, e⟩ | ⟨k, hk, e⟩ | ⟨k, hk, e⟩ | ⟨k, hk, e⟩ | ⟨k, hk, e⟩)
    · simp at hk; omega
    · revert h; decide
    all_goals omega
  · rintro (⟨n, k, hn, hk, e⟩ | h | ⟨k, hk, e⟩ | ⟨k, hk, e⟩ | ⟨k, hk, e⟩ | ⟨k, hk, e⟩ | ⟨k, hk, e⟩ | ⟨k, hk, e⟩)
    · simp at hk; omega
    · revert h; decide
    all_goals omega
  · rintro (⟨n, k, hn, hk, e⟩ | h | ⟨k, hk, e⟩ | ⟨k, hk, e⟩ | ⟨k, hk, e⟩ | ⟨k, hk, e⟩ | ⟨k, hk, e⟩ | ⟨k, hk, e⟩)
    · simp at hk; omega
    · revert h; decide
    all_goals omega

theorem witness_MemoryReadsAndWrites :
    let m := { (st).mod with mem := { (st).mod.mem with sites := (List.range 16).map fun n => (n, { state := 0 }) } }
    let last := 0x20_0000_0000 - 64
    (Mod.paAbsent m 0 = false ∧ inReserve 0 = false ∧ ([1] : List Byte) ≠ [])
    ∧ (Mod.paAbsent m last = false ∧ inReserve last = false ∧ last % 64 = 0 ∧ (List.replicate 64 (0 : Byte)).length % 64 = 0)
    ∧ Mod.paAbsent m 0x20_0000_0000 = true
    ∧ (inReserve 0x1_C000_0000 = true ∧ inReserve 0x1_BFFF_FFFF = false ∧ inReserve 0x1_FFFF_FFFF = true ∧ inReserve 0x2_0000_0000 = false)
    ∧ (0x1_0000 % 65536 = 0 ∧ sget false m.mem.blocks 0 = false) ∧ Memory.wf m.mem = true := by
  decide +kernel

theorem witness_EveryCommandAnswers :
    pvisRow .powerBrakeAssert = none
    ∧ (pvisRow (.nop 0 (pv 0x00 [])) = some ("NOP", 0x00, 0, pv 0x00 []) ∧ accepted st 0x00 0 (pv 0x00 []))
    ∧ (pvisRow (.nop 0 (pv 0x01 [])) = some ("NOP", 0x00, 0, pv 0x01 []) ∧ ¬ accepted st 0x00 0 (pv 0x01 [])) :=
  ⟨rfl, ⟨rfl, by decide, by decide⟩, ⟨rfl, fun h => absurd h.1 (by decide)⟩⟩

/-- The state after reset with one command waiting. -/
def stQueue (i : Instr) : State := { State.reset with pending := [i] }

theorem reset_sound : Sound State.reset.mgt := by
  constructor <;> (try decide)
  intro i _
  rfl

theorem witness_SoundnessKept :
    Sound (stQueue (.secPolicyWrite 0x8000_0007)).mgt ∧ ∃ t, step (stQueue (.secPolicyWrite 0x8000_0007)) = .next t ∧ t.mgt.locked = true :=
  ⟨reset_sound, _, rfl, by decide⟩

theorem witness_FusesAndLockedPolicy :
    let s := { stQueue .perstAssert with mgt := { State.reset.mgt with policy := 0x8000_0000 } }
    s.mgt.locked = true ∧ ∃ t, step s = .next t ∧ t.mgt.policy = 0 ∧ t.mod.sys.perst = true :=
  ⟨by decide, _, rfl, by decide, by decide⟩

/-! ## The spec's own examples -/

/-- A state that runs `i` next. -/
def runs (i : Instr) (s : State := st) : State := { s with pending := [i] }

/-- What `f` shows of the state after one step. -/
def after {α : Type} (f : State → α) (s : State) : Option α := match step s with | .next t => some (f t) | _ => none

/-- The words of the fused tile of chapter 12 (R299, R314) are accepted, with the fields its table lists. -/
theorem test_fused_tile_words :
    pvisIs 0x20 mmaExample = true ∧ pvisIs 0x40 vaddExample = true
    ∧ (PvisWords.tmode mmaExample, PvisWords.token mmaExample, PvisWords.f mmaExample 43 42, PvisWords.f mmaExample 34 31,
        PvisWords.f mmaExample 30 27, PvisWords.f mmaExample 26 23, PvisWords.f mmaExample 22 22) = (2, 7, 1, 2, 9, 9, 1) := by
  decide +kernel

/-- Ring 2 of chapter 22's example: completion ring first, which then reads with phase 1 (R370), and then the
submission ring, which reads back as written. -/
theorem test_ring_example :
    after (fun s => (s.mod.host.cq.map (·.2.ctrl), s.regRead 0x850)) (runs (.registerWrite 0x850 8 0x0000_0032_0805_0801))
      = some ([0x0000_0032_0805_0801], 0x0000_0032_0805_0803)
    ∧ (after (fun s => s.regRead 0x50) (runs (.registerWrite 0x50 4 0x0008_0203)
        (withMod { (st).mod with host := { (st).mod.host with cq := [(2, { ctrl := 0x0000_0032_0805_0801 })] } })))
      = some 0x0008_0203 := by
  decide +kernel

/-- In the reverse order the enable is refused and the register reads 0x0008_0202 (chapter 22's example). -/
theorem test_ring_example_reversed :
    after (fun s => s.regRead 0x50) (runs (.registerWrite 0x50 4 0x0008_0203)) = some 0x0008_0202 := by
  decide +kernel

/-- Reflect padding of four pixels maps −3 to 6 to 3, 2, 1, 0, 1, 2, 3, 2, 1, 0 (chapter 5). -/
theorem test_reflect_padding :
    [-3, -2, -1, 0, 1, 2, 3, 4, 5, 6].map (mapIndex 3 4) = [3, 2, 1, 0, 1, 2, 3, 2, 1, 0].map some := by decide +kernel

/-- The row of an all-zero key with salt 0 is row 0: every product of R245 is zero. -/
theorem test_hash_of_zero : hashRow { rows := 1000 } 0 = 0 := by decide +kernel

/-- The floor voltage of a rate at a row of R454's table is that row's voltage, and between rows it is rounded up to 10 mV. -/
theorem test_floor_voltages : [78, 110, 148, 170, 182, 160].map floorMv = [550, 620, 720, 800, 850, 770] := by decide +kernel

/-- FP32 sums round to nearest even, and a quiet NaN comes of infinities of both signs. -/
theorem test_fadd : fadd 0x3F80_0000 0x3F80_0000 = 0x4000_0000 ∧ fadd 0x4B80_0000 0x3F80_0000 = 0x4B80_0000
    ∧ fadd 0x7F80_0000 0xFF80_0000 = 0x7FC0_0000 := by decide +kernel

/-- A role of chapter 11's trunk: `n` groups of 301 stationary tiles of MXFP4 in a LOOP, and what follows. -/
def trunk (n : Nat) (rest : List DWord) : List DWord :=
  let x := pv 0x20 [(42, 1), (31, 2), (27, 9), (23, 9), (22, 1)] [[(32, 640), (16, 128)], [(48, 7), (32, 7), (16, 4815)]]
  [(pv 0x01 [(32, 1), (0, n)]).w, x.w, x.e1, x.e2, (pv 0x07 [(32, 1), (0, 3)]).w] ++ rest

/-- The bounds of a role's paths with the listed points. -/
def gaps (ws : List DWord) (listed : List Nat) : List (Nat × Nat) :=
  let is := roleInstrs ws
  PathView.bounds { instrs := is, listed := listed, work := workOf [] 0 is }

/-- Chapter 11's example: 64 groups between points are 154,128 steps, 32 groups 77,072. -/
theorem test_gap_example :
    gaps (trunk 64 [(pv 0x0B []).w]) [] = [(0, 154128)]
    ∧ gaps (trunk 32 (trunk 32 [(pv 0x0B []).w])) [5] = [(0, 77072), (5, 77072)] := by decide +kernel

/-- R104 on recip at 2: 0.5 is exact, one ulp beside it is allowed and two are not. -/
theorem test_recip_bound : gateNear 8 0x4000_0000 = 0x3F00_0000
    ∧ [0x3F00_0001, 0x3F00_0002].map (gateWithin 8 0x4000_0000) = [true, false] := by decide +kernel

/-- LI writes its register and the core goes on to the next word (R286). -/
theorem test_li :
    after (fun s => ((Mod.core s.mod 0).reg 31, (Mod.core s.mod 0).pc)) (runs (.li 0 (pv 0x01 [(32, 31), (0, 0xFFFF_FFFF)])))
      = some (0xFFFF_FFFF, 1) := by
  decide +kernel

/-- A word of another opcode in a PVIS row stops by name (R293). -/
theorem test_other_opcode : step (runs (.nop 0 (pv 0x01 []))) = .fault (.rejectedEncoding "NOP") := by rfl

/-- No row of the table gives bits, so no word spells a command. -/
theorem test_no_word : decodeTableWord 8 0 = none ∧ State.withFetchWord State.reset 8 0 = State.reset := by decide +kernel

/-! ## Ill-formed commands are refused -/

theorem test_wf_opcode : (Instr.nop 0 (pv 0x01 [])).wf = false ∧ (Instr.nop 0 (pv 0x00 [])).wf = true := by decide
theorem test_wf_reserved_bit : (Instr.nop 0 (pv 0x00 [(0, 1)])).wf = false := by decide
theorem test_wf_extension_count : (Instr.mma 0 { mmaExample with w := 0x2021_C401_4CC0_0000 }).wf = false := by decide +kernel
theorem test_wf_access_size : (Instr.registerWrite 0 9 0).wf = false ∧ (Instr.registerWrite 0 8 0).wf = true := by decide
theorem test_wf_bar4 : (Instr.bar4Access (2 ^ 37) 1 none).wf = false ∧ (Instr.bar4Access (2 ^ 37 - 1) 1 none).wf = true := by decide
theorem test_wf_mailbox : (Instr.mailboxInbound (List.replicate 4093 0)).wf = false
    ∧ (Instr.mailboxOutbound (List.replicate 4092 0)).wf = true := by decide +kernel
theorem test_wf_packet : (Instr.writePacket { address := 2 ^ 48 }).wf = false ∧ (Instr.writePacket {}).wf = true := by decide +kernel
theorem test_wf_xyz : (Instr.slowExtensionEnd (256, 0, 0)).wf = false ∧ (Instr.slowExtensionEnd (255, 255, 255)).wf = true := by decide

end Sys2Proof.Tests
end

/-!
The work counters (R40, R42, R318): what CTAKE, CPEEK and CSET return and leave.
-/
namespace Sys2Proof.Proofs

open Sys2Proof Sys2Proof.Machine Sys2Proof.Claims Sys2Proof.Laws

/-- A core that has been given a counter's result: the value in register `rd`, the epoch and wrap bit in the next (R318). -/
def withCounterPair (x : Core) (rd : Nat) (r : Nat × Nat × Bool) : Core :=
  (x.setReg rd (BitVec.ofNat 32 r.1)).setReg (rd + 1) (BitVec.ofNat 32 (r.2.1 + 65536 * b2n r.2.2))

theorem putCounter_setCore (m : Mod) (c : Nat) (x : Core) (rd : Nat) (r : Nat × Nat × Bool) :
    Mod.putCounter (setCore m c x) c rd r = setCore m c (withCounterPair x rd r) := by
  simp only [Mod.putCounter, Mod.putReg, modCore_setCore, withCounterPair]

/-- A take whose range ends below 2^32 − 1 keeps the epoch and the sticky bit (R40). -/
theorem counterTake_of_lt {k : Counter} {n : Nat} (h : k.value + n < 2 ^ 32) :
    k.take n = ((k.value, k.epoch, false), { k with value := k.value + n }) := by
  have hw : decide (2 ^ 32 ≤ k.value + n) = false := decide_eq_false (Nat.not_le.mpr h)
  simp only [Counter.take, hw, Nat.mod_eq_of_lt h, Bool.or_false, Bool.false_eq_true, if_false]

/-- A wrapping take returns the advanced epoch and sets both wrap bits (R42). -/
theorem counterTake_of_le {k : Counter} {n : Nat} (h : 2 ^ 32 ≤ k.value + n) :
    k.take n = ((k.value, (k.epoch + 1) % 2 ^ 16, true),
      { value := (k.value + n) % 2 ^ 32, epoch := (k.epoch + 1) % 2 ^ 16, wrap := true }) := by
  simp only [Counter.take, decide_eq_true h, Bool.or_true, if_true]

/-- A register's value fits the counter, so a set stores it whole (R40). -/
theorem counterSet_toNat (k : Counter) (v : Word) :
    k.set v.toNat = { value := v.toNat, epoch := (k.epoch + 1) % 2 ^ 16, wrap := false } := by
  simp only [Counter.set, Nat.mod_eq_of_lt v.isLt]

section
variable {s : State} {c : CoreId} {p : PvisWords}

/-- CTAKE does to the counter and to the register pair what `Counter.take` says; the visor counts it. -/
theorem gives_ctake (h : Issues s c 0xA6 p) {r : Nat × Nat × Bool} {k : Counter}
    (hk : (Mod.counter s.mod (Mod.ctrPlace s.mod c p)).take (val16 (past s c p).regs (PvisWords.f p 15 0)) = (r, k)) :
    Gives (exec (.ctake c p) s) s
      (Mod.setCounter (setCore s.mod c (withCounterPair (past s c p) (fieldRd p) r)) (Mod.ctrPlace s.mod c p) k) := by
  refine gives_cmd (Mod.zeroOut c) (Mod.ctake c p) h ?_
  simp only [Mod.ctake, ctrPlace_setCore, counter_setCore, core_setCore, hk, setCounter_setCore, putCounter_setCore]
  exact visor_tallied _ _ _ _

/-- CPEEK fills the register pair and leaves the counter. -/
theorem gives_cpeek (h : Issues s c 0xA7 p) :
    let k := Mod.counter s.mod (Mod.ctrPlace s.mod c p)
    Gives (exec (.cpeek c p) s) s
      (setCore s.mod c (withCounterPair (past s c p) (fieldRd p) (k.value, k.epoch, k.wrap))) := by
  refine gives_cmd_same id (Mod.cpeek c p) h ?_
  simp only [Mod.cpeek, ctrPlace_setCore, counter_setCore, putCounter_setCore]

/-- CSET does to the counter what `Counter.set` says and writes no register. -/
theorem gives_cset (h : Issues s c 0xA8 p) {k : Counter}
    (hk : (Mod.counter s.mod (Mod.ctrPlace s.mod c p)).set ((past s c p).reg (fieldRa p)).toNat = k) :
    Gives (exec (.cset c p) s) s (Mod.setCounter (setCore s.mod c (past s c p)) (Mod.ctrPlace s.mod c p) k) := by
  refine gives_cmd_same id (Mod.cset c p) h ?_
  simp only [Mod.cset, ctrPlace_setCore, counter_setCore, core_setCore, hk]

end

/-- Settles O9: each instruction does what the counter's operation says, and a take either wraps or does not. -/
theorem workCounters : Obligations.WorkCounters := by
  unfold Obligations.WorkCounters
  intro s c p x w k rd e1 n got
  refine ⟨fun h hn => ?plainTake, fun h hn => ?wrappingTake, fun h => ?peek, fun h => ?set⟩
  case plainTake => exact (gives_ctake h (counterTake_of_lt hn) :)
  case wrappingTake => exact (gives_ctake h (counterTake_of_le hn) :)
  case peek => exact gives_cpeek h
  case set => exact gives_cset h (counterSet_toNat _ _)

end Sys2Proof.Proofs

/-!
The fault indicator (R503): the table's rows in order, once the helper has power.
-/
namespace Sys2Proof.Proofs

open Sys2Proof Sys2Proof.Machine Sys2Proof.Claims Sys2Proof.Laws

/-- R503's table, as one equation: the first row that applies gives what FAULT_LED shows. -/
theorem faultLed_of_input {s : State} (h : s.mod.sys.input = true) :
    s.faultLed =
      if s.mod.sys.trip = true then 2
      else if s.mod.sys.failing = true ∨ s.mod.sys.crown = 3 then 1
      else if bitAt s.mgt.sideband.toNat 8 = true then 3
      else 0 := by
  simp only [State.faultLed, h, Bool.not_true, Bool.false_eq_true, if_false, Bool.or_eq_true, beq_iff_eq]

/-- Settles O54: a row of the table shows exactly when no row before it applies. -/
theorem faultLed : Obligations.FaultLed := by
  unfold Obligations.FaultLed
  intro s hinput trip alarm locate
  rw [faultLed_of_input hinput]
  refine ⟨fun htrip => ?trip, fun hntrip halarm => ?alarm, fun hntrip hnalarm hlocate => ?locate,
    fun hntrip hnalarm hnlocate => ?otherwise⟩
  case trip => exact if_pos htrip
  case alarm => rw [if_neg hntrip, if_pos halarm]
  case locate => rw [if_neg hntrip, if_neg hnalarm, if_pos hlocate]
  case otherwise => rw [if_neg hntrip, if_neg hnalarm, if_neg hnlocate]

end Sys2Proof.Proofs

/-!
Offsets of BAR0 that hold no register, and registers of what BRN-S64 lacks (R2, R512): they read zero and ignore writes.
-/
namespace Sys2Proof.Proofs

open Sys2Proof Sys2Proof.Machine Sys2Proof.Claims Sys2Proof.Laws

/-- Chapter 22 lists the offset for a register of this width: 64 bits for `true`, 32 bits for `false`. -/
def listedAs (off : Nat) : Bool → Prop
  | true => listedWide off
  | false => listedNarrow off

/-! The map of BAR0 holds only registers that chapter 22 lists, each at its width. -/

theorem inArray_of_elem {off base w n k : Nat} (h : elem off base w n = some k) : inArray off base w n := by
  unfold elem at h
  split at h
  next hin =>
    obtain ⟨hbase, hend, hstep⟩ := hin
    have hlt : off - base < w * n := by omega
    have hmul : w * ((off - base) / w) = off - base := Nat.mul_div_cancel' (Nat.dvd_of_mod_eq_zero hstep)
    exact ⟨(off - base) / w, Nat.div_lt_of_lt_mul hlt, by omega⟩
  next => cases h

theorem listedAs_of_ringRegAt {off : Nat} {r : Reg} (hoff : off < 0x1000) (h : ringRegAt off = some r) :
    listedAs off r.wide := by
  have hn : off % 0x800 / 32 < 64 := by omega
  simp only [ringRegAt] at h
  repeat' split at h
  all_goals cases h
  · exact .inl ⟨_, 0x000, hn, by decide, by omega⟩
  · exact .inl ⟨_, 0x008, hn, by decide, by omega⟩
  · exact .inl ⟨_, 0x010, hn, by decide, by omega⟩
  · exact .inl ⟨_, 0x018, hn, by decide, by omega⟩
  · exact .inl ⟨_, 0x800, hn, by decide, by omega⟩
  · exact .inl ⟨_, 0x808, hn, by decide, by omega⟩
  · exact .inl ⟨_, 0x810, hn, by decide, by omega⟩
  · exact .inl ⟨_, 0x818, hn, by decide, by omega⟩

/-- The offsets of the single registers (R516). -/
def singleOffsets : List Nat :=
  [0x1000, 0x1008, 0x1018, 0x1400, 0x1408, 0x1410, 0x1418, 0x2000, 0x2040, 0x2048, 0x2050, 0x3000, 0x3008, 0x3010, 0x3018,
    0x3100, 0x4000, 0x4008, 0x6180, 0x6188, 0x7000, 0x7008, 0x8000]

theorem singleRegAt_eq_none {off : Nat} (h : off ∉ singleOffsets) : singleRegAt off = none := by
  simp only [singleOffsets, List.mem_cons, List.not_mem_nil, or_false, not_or] at h
  simp only [singleRegAt, h, if_false]

theorem singleOffsets_listed : ∀ off ∈ singleOffsets, ∃ r, singleRegAt off = some r ∧ listedAs off r.wide := by
  simp only [singleOffsets, List.forall_mem_cons, List.not_mem_nil, false_implies, implies_true, and_true]
  and_intros <;> exact ⟨_, rfl, .inr (.inl (by decide))⟩

theorem listedAs_of_singleRegAt {off : Nat} {r : Reg} (h : singleRegAt off = some r) : listedAs off r.wide := by
  by_cases hoff : off ∈ singleOffsets
  case pos =>
    obtain ⟨r', hr', hlisted⟩ := singleOffsets_listed off hoff
    cases hr'.symm.trans h
    exact hlisted
  case neg => cases (singleRegAt_eq_none hoff).symm.trans h

theorem listedAs_of_arrayRegAt {off : Nat} {r : Reg} (h : arrayRegAt off = some r) : listedAs off r.wide := by
  obtain ⟨a, ha, rfl⟩ := List.exists_of_findSome?_eq_some h
  simp only [List.mem_cons, List.not_mem_nil, or_false] at ha
  rcases ha with ha | ha | ha | ha | ha | ha | ha | ha | ha | ha | ha | ha <;>
    obtain ⟨k, hk, rfl⟩ := Option.map_eq_some_iff.1 ha.symm <;>
    simp only [Reg.wide, listedAs, listedWide, listedNarrow, inArray_of_elem hk, or_true, true_or]

theorem listedAs_of_regAt {off : Nat} {r : Reg} (h : regAt off = some r) : listedAs off r.wide := by
  unfold regAt at h
  split at h
  next hring => exact listedAs_of_ringRegAt hring h
  next =>
    split at h
    next hr => cases h; exact listedAs_of_singleRegAt hr
    next => exact listedAs_of_arrayRegAt h

theorem wide_eq_false_of_not_listedWide {off : Nat} (hw : ¬ listedWide off) {r : Reg} (h : regAt off = some r) :
    r.wide = false := by
  have hr := listedAs_of_regAt h
  cases hwide : r.wide with
  | false => rfl
  | true => rw [hwide] at hr; exact absurd hr hw

theorem regAt_eq_none {off : Nat} (hw : ¬ listedWide off) (hn : ¬ listedNarrow off) : regAt off = none := by
  cases hr : regAt off with
  | none => rfl
  | some r =>
    have hlisted := listedAs_of_regAt hr
    rw [wide_eq_false_of_not_listedWide hw hr] at hlisted
    exact absurd hlisted hn

/-! A read or write at an offset without a register, or at the register of an absent resource. -/

section

variable {s : State} {off : Nat}

theorem regRead_of_none (h : regAt off = none) : s.regRead off = 0 := by simp only [State.regRead, h]

theorem regWriteAt_of_none (h : regAt off = none) (v : Nat) : s.regWriteAt off v = s := by simp only [State.regWriteAt, h]

theorem regRead_of_absent {r : Reg} (h : regAt off = some r) (ha : Mod.regAbsent s.mod r = true) : s.regRead off = 0 := by
  simp only [State.regRead, h, ha, if_true]

theorem regWriteAt_of_absent {r : Reg} (h : regAt off = some r) (ha : Mod.regAbsent s.mod r = true) (v : Nat) :
    s.regWriteAt off v = s := by
  simp only [State.regWriteAt, h, State.regWrite, ha, if_true]

/-! Accesses whose 8-byte word holds no 64-bit register reach the register at their own offset (R511). -/

theorem barRead_four (ho : off % 4 = 0) (hbase : ∀ r, regAt (off / 8 * 8) = some r → r.wide = false) :
    s.barRead off 4 = (s.regRead off, s) := by
  have haligned : ¬ (((4 : Nat) ≠ 4 ∧ (4 : Nat) ≠ 8) ∨ off % 4 ≠ 0) := by omega
  have hsize : ¬ (4 : Nat) = 8 := by decide
  cases hr : regAt (off / 8 * 8) with
  | none => simp only [State.barRead, haligned, hsize, hr, Bool.not_false, if_true, if_false]
  | some r => simp only [State.barRead, haligned, hsize, hr, hbase r hr, Bool.not_false, if_true, if_false]

theorem barWrite_of_not_cfgReady (hc : s.mod.sys.cfgReady = false) (size v : Nat) : s.barWrite off size v = s := by
  simp only [State.barWrite, hc, Bool.not_false, Bool.true_or, if_true]

theorem barWrite_four (ho : off % 4 = 0) (hbase : ∀ r, regAt (off / 8 * 8) = some r → r.wide = false)
    (hc : s.mod.sys.cfgReady = true) (v : Nat) : s.barWrite off 4 v = s.regWriteAt off (v % 2 ^ 32) := by
  have haligned : ((4 : Nat) != 4 && (4 : Nat) != 8 || off % 4 != 0) = false := by rw [ho]; rfl
  have hsize : ¬ (4 : Nat) = 8 := by decide
  cases hr : regAt (off / 8 * 8) with
  | none =>
    simp only [State.barWrite, hc, haligned, hsize, hr, Bool.not_true, Bool.false_or, Bool.not_false, Bool.false_eq_true,
      if_true, if_false]
  | some r =>
    simp only [State.barWrite, hc, haligned, hsize, hr, hbase r hr, Bool.not_true, Bool.false_or, Bool.not_false,
      Bool.false_eq_true, if_true, if_false]

/-- A 4-byte write to an offset without a register changes nothing, whether or not the module answers configuration. -/
theorem barWrite_four_of_none (ho : off % 4 = 0) (hbase : ∀ r, regAt (off / 8 * 8) = some r → r.wide = false)
    (hnone : regAt off = none) (v : Nat) : s.barWrite off 4 v = s := by
  cases hc : s.mod.sys.cfgReady with
  | false => exact barWrite_of_not_cfgReady hc 4 v
  | true => rw [barWrite_four ho hbase hc, regWriteAt_of_none hnone]

/-- An 8-byte write whose two halves ignore it changes nothing, whatever width the register has. -/
theorem barWrite_eight_of_ignored (ho : off % 8 = 0) (hlow : ∀ v, s.regWriteAt off v = s)
    (hup : ∀ v, s.regWriteAt (off + 4) v = s) (v : Nat) : s.barWrite off 8 v = s := by
  have hbase : off / 8 * 8 = off := by omega
  simp only [State.barWrite, hbase, hlow, hup, if_true, ite_self]

end

theorem exec_registerWrite (s : State) (off : BitVec 16) (size : Nat) (v : DWord) :
    exec (.registerWrite off size v) s = .next (s.barWrite off.toNat size v.toNat) := rfl

/-! What BRN-S64 lacks (R2). -/

/-- The registers of the fabric ports, GDDR sites and flash ports that BRN-S64 does not have. -/
def lackedByS64 : Reg → Bool
  | .portCtrl p | .portStatus p => decide (8 ≤ p)
  | .site n => decide (12 ≤ n)
  | .flpQueues n | .flpPort n => decide (2 ≤ n)
  | _ => false

theorem regAbsent_eq_lackedByS64 {m : Mod} (h : m.sys.grade = .s64) (r : Reg) : Mod.regAbsent m r = lackedByS64 r := by
  have hports (p : Nat) : Mod.portAbsent m p = decide (8 ≤ p) := by rw [Mod.portAbsent, h, Config.ports]
  have hsite (n : Nat) : (!Mod.hasSite m n) = decide (12 ≤ n) := by
    rw [Mod.hasSite, h, Config.sites, ← decide_not, decide_eq_decide, Nat.not_lt]
  have hflash : Config.flashPorts m.sys.grade = 2 := by rw [h, Config.flashPorts]
  cases r <;> simp only [Mod.regAbsent, lackedByS64, hports, hsite, hflash]

/-- The offsets of the registers of the ports, sites and flash ports that BRN-S64 lacks (R2, R516). -/
def offsetLackedByS64 (off : Nat) : Prop :=
  inArray off 0x2140 8 8 ∨ inArray off 0x21C0 8 8 ∨ inArray off 0x1860 8 4 ∨ inArray off 0x1C10 8 2 ∨ inArray off 0x1C50 8 2

/-- The register of the offset, and no register in the upper half of its 8-byte word. -/
theorem regAt_of_offsetLackedByS64 {off : Nat} (h : offsetLackedByS64 off) :
    (regAt off).any lackedByS64 = true ∧ regAt (off + 4) = none := by
  rcases h with ⟨k, hk, rfl⟩ | ⟨k, hk, rfl⟩ | ⟨k, hk, rfl⟩ | ⟨k, hk, rfl⟩ | ⟨k, hk, rfl⟩ <;> revert k <;> decide

/-- Settles O55: an unlisted offset holds no register, and the grade's missing registers are absent. -/
theorem unlistedOffsets : Obligations.UnlistedOffsets := by
  unfold Obligations.UnlistedOffsets
  intro s off v o silent
  refine ⟨fun ho hwide hnarrow hupper => ?unlisted, fun ho ⟨hgrade, hlacked⟩ => ?lacked⟩
  case unlisted =>
    have hnone : regAt o = none := regAt_eq_none hwide hnarrow
    have hbase : ∀ r, regAt (o / 8 * 8) = some r → r.wide = false := fun _ => wide_eq_false_of_not_listedWide hupper
    have hread : s.barRead o 4 = (0, s) := by rw [barRead_four ho hbase, regRead_of_none hnone]
    have hwrite : s.barWrite o 4 v.toNat = s := barWrite_four_of_none ho hbase hnone v.toNat
    exact ⟨by rw [hread], by rw [hread], by rw [exec_registerWrite, hwrite]⟩
  case lacked =>
    obtain ⟨hlow, hup⟩ := regAt_of_offsetLackedByS64 hlacked
    obtain ⟨r, hr, hlack⟩ := (Option.any_eq_true _ _).1 hlow
    have habsent : Mod.regAbsent s.mod r = true := (regAbsent_eq_lackedByS64 hgrade r).trans hlack
    have hignored : ∀ v, s.regWriteAt o v = s := regWriteAt_of_absent hr habsent
    have hwrite : s.barWrite o 8 v.toNat = s := barWrite_eight_of_ignored ho hignored (regWriteAt_of_none hup) v.toNat
    exact ⟨regRead_of_absent hr habsent, hignored v.toNat, by rw [exec_registerWrite, hwrite]⟩

end Sys2Proof.Proofs

/-!
All commands (R293, R480, R485 to R487): every command answers, no step takes a fuse back, and the management state stays
sound. A step is a PVIS row, a row that leaves the helper alone (`Laws.kept`), or one of the rows below that act on it.
-/
namespace Sys2Proof.Proofs

open Sys2Proof Sys2Proof.Machine Sys2Proof.Claims Sys2Proof.Laws

/-! ## What keeps the management state sound -/

/-- Everything `Sound`, `Blown` and SEC_POLICY's lock speak of. -/
def guardedPart (g : Mgmt) :=
  (g.svn, g.imageKeys, g.keyRevoked, g.fwKeys, g.fwRevoked, g.policy, g.sideband, g.booted, g.crownResets, g.resetAt, g.eid)

/-- From `g` to `h` soundness is kept and no fuse is taken back (R486). -/
structure Fused (g h : Mgmt) : Prop where
  sound : Sound g → Sound h
  blown : Blown g h

/-- And a locked SEC_POLICY stays as it is. -/
structure Guarded (g h : Mgmt) : Prop extends Fused g h where
  policy : g.locked = true → h.policy = g.policy

theorem Fused.refl (g : Mgmt) : Fused g g :=
  ⟨id, ⟨Nat.le_refl _, fun _ h => h, fun _ h => h, fun _ _ => rfl, rfl⟩⟩

theorem Fused.trans {f g h : Mgmt} (a : Fused f g) (b : Fused g h) : Fused f h where
  sound hs := b.sound (a.sound hs)
  blown := {
    svn := Nat.le_trans a.blown.svn b.blown.svn
    image i hi := b.blown.image i (a.blown.image i hi)
    firmware i hi := b.blown.firmware i (a.blown.firmware i hi)
    keys i hi := by
      have e := a.blown.keys i hi
      exact (b.blown.keys i (e ▸ hi)).trans e
    fused := b.blown.fused.trans a.blown.fused }

theorem Guarded.refl (g : Mgmt) : Guarded g g := ⟨Fused.refl g, fun _ => rfl⟩

theorem Guarded.trans {f g h : Mgmt} (a : Guarded f g) (b : Guarded g h) : Guarded f h where
  toFused := a.toFused.trans b.toFused
  policy hl := by
    have e := a.policy hl
    exact (b.policy (by rw [Mgmt.locked, e]; exact hl)).trans e

/-- A change of other fields keeps it all. -/
theorem Guarded.of_part {g h : Mgmt} (e : guardedPart h = guardedPart g) : Guarded g h := by
  simp only [guardedPart, Prod.mk.injEq] at e
  obtain ⟨hsvn, hkeys, hrev, hfwk, hfwr, hpol, hside, hboot, hres, hat, heid⟩ := e
  refine ⟨⟨fun s => ⟨?_, ?_, ?_, ?_, ?_, ?_, ?_, ?_, ?_, ?_, ?_⟩, ⟨?_, ?_, ?_, ?_, ?_⟩⟩, fun _ => hpol⟩
  · rw [hsvn]; exact s.svn
  · rw [hrev]; exact s.imageBits
  · rw [hfwr]; exact s.firmwareBits
  · rw [hkeys]; exact s.slots
  · rw [hkeys]; exact s.form
  · rw [hpol]; exact s.policy
  · rw [hside]; exact s.sideband
  · rw [hboot]; exact s.booted
  · rw [hres]; exact s.resets
  · rw [hat]; exact s.recent
  · rw [heid]; exact s.endpoint
  · exact Nat.le_of_eq hsvn.symm
  · rw [hrev]; exact fun _ h => h
  · rw [hfwr]; exact fun _ h => h
  · rw [hkeys]; exact fun _ _ => rfl
  · exact hfwk

theorem guardedPart_setTarget (g : Mgmt) (x : FwSlot) : guardedPart (g.setTarget x) = guardedPart g := by
  unfold Mgmt.setTarget; split <;> rfl

theorem guardedPart_breakUpdate (g : Mgmt) : guardedPart g.breakUpdate = guardedPart g := by
  obtain ⟨a, b, u, n, d, z, e⟩ := breakUpdate_only g
  rw [e]; rfl

theorem guardedPart_modSlot (g : Mgmt) (i : Nat) (f : FwSlot → FwSlot) : guardedPart (g.modSlot i f) = guardedPart g := by
  obtain ⟨a, b, e⟩ := modSlot_only g i f
  rw [e]; rfl

/-! ## Changes of the guarded fields -/

/-- Registers and counters that no fuse backs are written with sound values, and SEC_POLICY is not locked or stays. -/
theorem Guarded.of_fields {g h : Mgmt} (hfuse : (h.svn, h.imageKeys, h.keyRevoked, h.fwKeys, h.fwRevoked)
      = (g.svn, g.imageKeys, g.keyRevoked, g.fwKeys, g.fwRevoked))
    (hlock : g.locked = true → h.policy = g.policy)
    (hs : Sound g → h.policy &&& ~~~policyMask = 0 ∧ h.sideband.toNat < 512 ∧ h.booted ≤ 2 ∧ h.crownResets ≤ 65535
      ∧ h.resetAt.length ≤ 2 ∧ h.eid ≠ 0xFF) : Guarded g h := by
  simp only [Prod.mk.injEq] at hfuse
  obtain ⟨hsvn, hkeys, hrev, hfwk, hfwr⟩ := hfuse
  refine ⟨⟨fun s => ?_, ⟨?_, ?_, ?_, ?_, hfwk⟩⟩, hlock⟩
  · obtain ⟨hpol, hside, hboot, hres, hat, heid⟩ := hs s
    exact ⟨hsvn ▸ s.svn, hrev ▸ s.imageBits, hfwr ▸ s.firmwareBits, hkeys ▸ s.slots, hkeys ▸ s.form, hpol, hside, hboot,
      hres, hat, heid⟩
  · exact Nat.le_of_eq hsvn.symm
  · rw [hrev]; exact fun _ h => h
  · rw [hfwr]; exact fun _ h => h
  · rw [hkeys]; exact fun _ _ => rfl

theorem setBit_lt {x i n : Nat} (hx : x < 2 ^ n) (hi : i < n) : setBit x i < 2 ^ n :=
  Nat.or_lt_two_pow hx (Nat.pow_lt_pow_right (by decide) hi)

/-- A key is fused into an empty slot (R486). -/
theorem guarded_enrol {g : Mgmt} (slot : Fin 4) (key : BitVec 384) (h : sget 0 g.imageKeys slot.val = 0) :
    Guarded g { g with imageKeys := sset 0 g.imageKeys slot key } := by
  refine ⟨⟨fun s => ?_, ⟨Nat.le_refl _, fun _ h => h, fun _ h => h, fun i hi => ?_, rfl⟩⟩, fun _ => rfl⟩
  · refine { s with slots := fun i hi => ?_, form := swf_sset _ _ _ s.form }
    rw [sget_sset_ne _ _ _ (by omega)]; exact s.slots i hi
  · exact sget_sset_ne _ _ _ (fun e => hi (e ▸ h))

/-- A revocation sets a bit of a fuse array (R486). -/
theorem guarded_revokeImage (g : Mgmt) (slot : Fin 4) : Guarded g { g with keyRevoked := setBit g.keyRevoked slot } :=
  ⟨⟨fun s => { s with imageBits := setBit_lt (n := 4) s.imageBits slot.isLt },
    ⟨Nat.le_refl _, fun _ h => bitAt_setBit h, fun _ h => h, fun _ _ => rfl, rfl⟩⟩, fun _ => rfl⟩

theorem guarded_revokeFirmware (g : Mgmt) {i : Nat} (h : i < 2) : Guarded g { g with fwRevoked := setBit g.fwRevoked i } :=
  ⟨⟨fun s => { s with firmwareBits := setBit_lt (n := 2) s.firmwareBits h },
    ⟨Nat.le_refl _, fun _ h => h, fun _ h => bitAt_setBit h, fun _ _ => rfl, rfl⟩⟩, fun _ => rfl⟩

/-- The anti-rollback counter rises, to 64 at most (R486). -/
theorem guarded_svn (g : Mgmt) (n : Nat) : Guarded g { g with svn := max g.svn (min 64 n) } :=
  ⟨⟨fun s => { s with svn := Nat.max_le.mpr ⟨s.svn, Nat.min_le_left _ _⟩ },
    ⟨Nat.le_max_left _ _, fun _ h => h, fun _ h => h, fun _ _ => rfl, rfl⟩⟩, fun _ => rfl⟩

/-- Without power only the boot flash and the fuses are left (R500). -/
theorem fused_cold (g : Mgmt) : Fused g g.cold := by
  have e : g.cold.svn = g.svn ∧ g.cold.imageKeys = g.imageKeys ∧ g.cold.keyRevoked = g.keyRevoked
      ∧ g.cold.fwKeys = g.fwKeys ∧ g.cold.fwRevoked = g.fwRevoked := by
    obtain ⟨a, b, u, n, d, z, e⟩ := breakUpdate_only g
    rw [Mgmt.cold, e]; exact ⟨rfl, rfl, rfl, rfl, rfl⟩
  obtain ⟨hsvn, hkeys, hrev, hfwk, hfwr⟩ := e
  have r : (0 : Word) &&& ~~~policyMask = 0 ∧ (0x55 : Word).toNat < 512 ∧ 0 ≤ 2 ∧ 0 ≤ 65535 ∧ ([] : List Nat).length ≤ 2
      ∧ (0 : Byte) ≠ 0xFF := by decide
  obtain ⟨hpol, hside, hboot, hres, hat, heid⟩ := r
  refine ⟨fun s => ⟨hsvn ▸ s.svn, hrev ▸ s.imageBits, hfwr ▸ s.firmwareBits, hkeys ▸ s.slots, hkeys ▸ s.form, hpol, hside,
    hboot, hres, hat, heid⟩, ⟨Nat.le_of_eq hsvn.symm, ?_, ?_, ?_, hfwk⟩⟩
  · rw [hrev]; exact fun _ h => h
  · rw [hfwr]; exact fun _ h => h
  · rw [hkeys]; exact fun _ _ => rfl

/-! ## The rows that act on the helper -/

/-- What every command does to the helper: fuses only blow, soundness is kept, and a locked policy stays until PERST#. -/
structure Helped (s t : State) : Prop extends Fused s.mgt t.mgt where
  pending : t.pending = s.pending
  policy : s.mgt.locked = true → t.mgt.policy = s.mgt.policy ∨ t.mod.sys.perst = true

theorem Helped.of_guarded {s t : State} (hp : t.pending = s.pending) (h : Guarded s.mgt t.mgt) : Helped s t :=
  ⟨h.toFused, hp, fun hl => .inl (h.policy hl)⟩

theorem Helped.of_part {s t : State} (h : guardedPart t.mgt = guardedPart s.mgt := by rfl)
    (hp : t.pending = s.pending := by rfl) : Helped s t := .of_guarded hp (.of_part h)

theorem Helped.refl (s : State) : Helped s s := .of_part

/-- A state with PERST# asserted has no locked policy to keep. -/
theorem Helped.of_perst {s t : State} (hp : t.pending = s.pending) (h : Fused s.mgt t.mgt) (hr : t.mod.sys.perst = true) :
    Helped s t := ⟨h, hp, fun _ => .inr hr⟩

theorem helped_ite {c : Prop} [Decidable c] {s t u : State} (ht : c → Helped s t) (hu : ¬ c → Helped s u) :
    Helped s (if c then t else u) := by
  split
  · exact ht ‹_›
  · exact hu ‹_›

theorem helped_answer {s t : State} (h : Helped s t) (code : Nat) (data : List Byte) : Helped s (t.answer code data) :=
  { h with }

theorem helped_updTo (s : State) (u : UpdState) : Helped s (s.updTo u) := .of_part

theorem helped_inState {s : State} {u : UpdState} {f : State → State} (h : Helped s (f s)) : Helped s (s.inState u f) :=
  helped_ite (fun _ => h) fun _ =>
    helped_ite (fun _ => helped_answer (.refl s) _ _) fun _ => helped_answer (.refl s) _ _

/-- A command answers a state the helper may go to. -/
def Answers (o : Out) (s : State) : Prop := ∃ t, o = .next t ∧ Helped s t

theorem answers_next {s t : State} (h : Helped s t) : Answers (.next t) s := ⟨t, rfl, h⟩

theorem answers_byHelper {s : State} {f : State → State} (h : Helped s (f s)) : Answers (s.byHelper f) s :=
  answers_next (helped_ite (fun _ => h) fun _ => .refl s)

theorem answers_byCrown {s : State} {f : State → State} (h : Helped s (f s)) : Answers (s.byCrown f) s :=
  answers_byHelper (helped_ite (fun _ => h) fun _ => helped_answer (.refl s) _ _)

theorem answers_byVendor {s : State} {f : State → State} (h : Helped s (f s)) : Answers (s.byVendor f) s :=
  answers_byHelper (helped_ite (fun _ => h) fun _ => helped_answer (.refl s) _ _)

/-- A row that answers and changes nothing. -/
theorem answers_reply (s : State) (code : Nat) (data : List Byte) : Answers (s.byHelper fun s => s.answer code data) s :=
  answers_byHelper (helped_answer (.refl s) _ _)

/-- A key operation acts on the fuses only where its check holds. -/
theorem answers_keyOp {s : State} {ok : Bool} {f : Mgmt → Mgmt} (h : ok = true → Guarded s.mgt (f s.mgt)) :
    Answers (s.keyOp ok f) s := by
  refine answers_byVendor (helped_ite (fun _ => helped_answer (.refl s) _ _) fun hc => ?_)
  have hok : ok = true := by
    simp only [Bool.or_eq_true, Bool.not_eq_true', not_or, Bool.not_eq_false] at hc
    exact hc.2
  exact helped_answer (.of_guarded (s := s) (t := { s with mgt := f s.mgt }) rfl (h hok)) _ _

/-! ### Power, PERST# and boot -/

theorem helped_powerOff (s : State) (input trip : Bool) : Helped s (s.powerOff input trip) :=
  .of_perst rfl (fused_cold _) rfl

theorem helped_powerOn (s : State) (slot : Nat) (ok : Bool) : Helped s (s.powerOn slot ok) := by
  cases hi : s.mod.sys.input with
  | true => simp only [State.powerOn, hi, if_true]; exact .refl s
  | false =>
    obtain ⟨_, _, hperst, _⟩ := powerOn_facts s slot ok hi
    have hf : Fused s.mgt (s.powerOn slot ok).mgt := by
      simp only [State.powerOn, hi, Bool.false_eq_true, if_false]
      refine (fused_cold s.mgt).trans (Guarded.of_part ?_).toFused
      rfl
    have hp : (s.powerOn slot ok).pending = s.pending := by
      simp only [State.powerOn, hi, Bool.false_eq_true, if_false]; rfl
    exact .of_perst hp hf hperst

/-- PERST# resets the policy and the counts of Crown resets (R487, R501). -/
theorem fused_mgtHeld (s : State) : Fused s.mgt s.mgtHeld := by
  have hbreak : Guarded s.mgt s.mgt.breakUpdate := .of_part (guardedPart_breakUpdate _)
  have hcut (b : Bool) : Guarded s.mgt (if b = true then s.mgt.breakUpdate.modSlot s.mgt.breakUpdate.booted
      (fun x => { x with failures := x.failures - 1 }) else s.mgt.breakUpdate) := by
    split
    · exact hbreak.trans (.of_part (guardedPart_modSlot _ _ _))
    · exact hbreak
  refine (hcut _).toFused.trans ⟨fun h => { h with policy := ?_, resets := ?_, recent := ?_ }, ?_⟩
  · exact BitVec.zero_and
  · exact Nat.zero_le _
  · exact Nat.zero_le _
  · exact ⟨Nat.le_refl _, fun _ h => h, fun _ h => h, fun _ _ => rfl, rfl⟩

theorem helped_perstAssert (s : State) : Answers (exec .perstAssert s) s :=
  answers_next (helped_ite (fun _ => .refl s) fun _ => .of_perst rfl (fused_mgtHeld s) rfl)

/-- A boot chooses one of three slots (R485) and changes no fuse. -/
theorem guarded_boot (s : State) (a b : SlotCheck) : Guarded s.mgt (s.boot a b).mgt := by
  have hfound : Guarded s.mgt ((s.mgt.checked a b).modSlot (s.mgt.bootSlot a b) fun x => { x with failures := x.failures + 1 }) :=
    .of_part (guardedPart_modSlot _ _ _)
  refine hfound.trans (.of_fields rfl (fun _ => rfl) fun h => ?_)
  exact ⟨h.policy, h.sideband, bootSlot_le s.mgt a b, h.resets, h.recent, h.endpoint⟩

theorem helped_perstRelease (s : State) (a b : SlotCheck) (fails : List Nat) (link : Word) :
    Helped s (s.perstRelease a b fails link) := by
  have hboot (m : Mod) : Guarded s.mgt (({ s with mod := m } : State).boot a b).mgt := guarded_boot { s with mod := m } a b
  refine helped_ite (fun _ => .refl s) fun _ => ?_
  exact helped_ite (fun _ => .of_guarded rfl (hboot _)) fun _ => .of_guarded rfl (hboot _)

theorem helped_becomeReady (s : State) (drives : BitVec 4) : Helped s (s.becomeReady drives) := by
  have hreached (b : Prop) [Decidable b] : Guarded s.mgt
      (if b then s.mgt.modSlot s.mgt.booted (fun x => { x with failures := 0 }) else s.mgt) := by
    split
    · exact .of_part (guardedPart_modSlot _ _ _)
    · exact .refl _
  refine helped_ite (fun _ => .refl s) fun _ => .of_guarded rfl ?_
  exact (hreached _).trans (guarded_svn _ _)

/-- A Crown reset is counted, to 65,535 at most, and the last two are remembered (R479). -/
theorem helped_crownReset (s : State) : Helped s s.crownReset := by
  refine helped_ite (fun _ => .refl s) fun _ => .of_guarded rfl ?_
  have hbreak : Guarded s.mgt s.mgt.breakUpdate := .of_part (guardedPart_breakUpdate _)
  refine hbreak.trans (.of_fields rfl (fun _ => rfl) fun h => ?_)
  exact ⟨h.policy, h.sideband, h.booted, Nat.min_le_left _ _, (List.length_take_le _ _), h.endpoint⟩

theorem helped_crownReturn (s : State) (a b : SlotCheck) : Helped s (s.crownReturn a b) := by
  refine helped_ite (fun _ => .refl s) fun _ => .of_guarded rfl (.of_fields rfl (fun _ => rfl) fun h => ?_)
  exact ⟨h.policy, h.sideband, rebootSlot_le s.mgt a b, h.resets, h.recent, h.endpoint⟩

/-! ### Keys -/

theorem answers_keyenrol (s : State) (slot : Fin 4) (key : BitVec 384) (signer : Fin 2) (sig : BitVec 768) :
    Answers (exec (.keyenrol slot key signer sig) s) s := by
  show Answers (execKeyenrol slot key signer sig s) s
  refine answers_keyOp fun h => guarded_enrol slot key ?_
  simp only [Bool.and_eq_true, beq_iff_eq] at h
  exact h.2

theorem answers_keyrevoke (s : State) (firmware : Bool) (slot : Fin 4) (signer : Fin 2) (sig : BitVec 768) :
    Answers (exec (.keyrevoke firmware slot signer sig) s) s := by
  show Answers (execKeyrevoke firmware slot signer sig s) s
  refine answers_keyOp fun h => ?_
  cases firmware with
  | false => exact guarded_revokeImage s.mgt slot
  | true =>
    simp only [Bool.and_eq_true, Bool.not_true, Bool.false_or, decide_eq_true_eq] at h
    exact guarded_revokeFirmware s.mgt h.2

/-! ### Registers and the mailbox -/

/-- A register write or a mailbox message keeps the queue and what is guarded. -/
structure Tame (s t : State) : Prop extends Guarded s.mgt t.mgt where
  pending : t.pending = s.pending

theorem Tame.refl (s : State) : Tame s s := ⟨.refl _, rfl⟩

theorem Tame.trans {s t u : State} (h : Tame s t) (k : Tame t u) : Tame s u :=
  ⟨h.toGuarded.trans k.toGuarded, k.pending.trans h.pending⟩

theorem Tame.of_part {s t : State} (h : guardedPart t.mgt = guardedPart s.mgt := by rfl)
    (hp : t.pending = s.pending := by rfl) : Tame s t := ⟨.of_part h, hp⟩

theorem Tame.helped {s t : State} (h : Tame s t) : Helped s t := .of_guarded h.pending h.toGuarded

theorem tame_onMod (s : State) (f : Mod → Mod) : Tame s (s.onMod f) := .of_part

theorem tame_writeOut (s : State) (msg : List Byte) : Tame s (s.writeOut msg) := .of_part

theorem tame_clearOut (s : State) : Tame s s.clearOut := by
  unfold State.clearOut
  split
  · exact .refl s
  · split
    · exact .of_part
    · split <;> exact .of_part

/-- SEC_POLICY holds defined bits only, and nothing is written while it is locked (R486). -/
theorem tame_writePolicy (s : State) (v : Word) : Tame s (s.writePolicy v) := by
  unfold State.writePolicy
  split
  · exact .refl s
  · next hopen =>
    refine ⟨.of_fields rfl (fun hl => absurd hl hopen) fun h => ⟨?_, h.sideband, h.booted, h.resets, h.recent, h.endpoint⟩, rfl⟩
    show v &&& policyMask &&& ~~~policyMask = 0
    rw [BitVec.and_assoc, BitVec.and_not_self]; exact BitVec.and_zero

theorem tame_writeMbox (s : State) (v : Nat) : Tame s (s.writeMbox v) := by
  have hfields (x y) : Tame s { s with mgt := { s.mgt with mboxVector := x, mboxIrq := y } } := .of_part
  unfold State.writeMbox
  extract_lets s1
  split
  · exact (hfields _ _).trans (tame_clearOut _)
  · exact hfields _ _

theorem tame_sideband (s : State) (v : Nat) : Tame s { s with mgt := { s.mgt with sideband := BitVec.ofNat 32 (v % 512) } } := by
  refine ⟨.of_fields rfl (fun _ => rfl) fun h => ⟨h.policy, ?_, h.booted, h.resets, h.recent, h.endpoint⟩, rfl⟩
  show (BitVec.ofNat 32 (v % 512)).toNat < 512
  rw [BitVec.toNat_ofNat]
  exact Nat.lt_of_le_of_lt (Nat.mod_le _ _) (Nat.mod_lt _ (by decide))

theorem tame_regWrite (s : State) (r : Reg) (v : Nat) : Tame s (s.regWrite r v) := by
  unfold State.regWrite
  split
  · exact .refl s
  · split
    · exact tame_writeMbox s v
    · exact tame_writePolicy s _
    · exact tame_sideband s v
    · exact tame_onMod s _

theorem tame_regWriteAt (s : State) (off v : Nat) : Tame s (s.regWriteAt off v) := by
  unfold State.regWriteAt
  split
  · exact tame_regWrite s _ v
  · exact .refl s

theorem tame_holdLow (s : State) (l : Option (Nat × Word)) : Tame s (s.holdLow l) := .of_part

theorem tame_barWrite (s : State) (off size v : Nat) : Tame s (s.barWrite off size v) := by
  unfold State.barWrite
  extract_lets base wide
  repeat' split
  · exact .refl s
  · exact tame_regWriteAt s _ _
  · exact (tame_regWriteAt s _ _).trans (tame_regWriteAt _ _ _)
  · exact tame_regWriteAt s _ _
  · exact tame_holdLow s _
  · exact (tame_holdLow s none).trans (tame_regWriteAt _ _ _)
  · exact .refl s
  · exact .refl s

/-! ### Messages -/

theorem answers_setEndpointId (s : State) (eid : Byte) : Answers (execSetEndpointId eid s) s := by
  refine answers_byHelper ?_
  refine helped_ite (fun _ => helped_answer (.refl s) _ _) fun hne => helped_answer (.of_guarded ?_ ?_) _ _
  · rfl
  · refine .of_fields rfl (fun _ => rfl) fun h => ?_
    exact ⟨h.policy, h.sideband, h.booted, h.resets, h.recent, fun e => hne (.inr e)⟩

/-- A message that is taken where `c` holds and else refused with nothing changed. -/
theorem helped_taken {c : Prop} [Decidable c] {s t : State} (h : c → Helped s t) (code : Nat) (data : List Byte) :
    Helped s (if c then t else s.answer code data) :=
  helped_ite h fun _ => helped_answer (.refl s) _ _

/-- The target slot of an update is written after the update has moved on (R484). -/
theorem helped_setTarget (s : State) (u : UpdState) (x : FwSlot) :
    Helped s { s.updTo u with mgt := (s.updTo u).mgt.setTarget x } :=
  .of_part (guardedPart_setTarget _ x)

theorem answers_requestfirmwaredata (s : State) (off : Nat) (data : List Byte) :
    Answers (execRequestfirmwaredata off data s) s := by
  refine answers_byCrown (helped_inState (helped_taken (fun _ => helped_answer (.of_part ?_) _ _) _ _))
  exact guardedPart_setTarget s.mgt { s.mgt.target with valid := false }

theorem answers_verifycomplete (s : State) (chk : SlotCheck) : Answers (execVerifycomplete chk s) s := by
  refine answers_byCrown (helped_inState (helped_ite (fun _ => helped_answer .of_part _ _) fun _ => helped_answer ?_ _ _))
  exact helped_setTarget s .idle _

theorem answers_applycomplete (s : State) (result : Nat) : Answers (execApplycomplete result s) s := by
  refine answers_byCrown (helped_inState (helped_ite (fun _ => helped_answer ?_ _ _) fun _ => helped_answer ?_ _ _))
  · exact helped_setTarget s .activate _
  · exact helped_updTo s .ready

/-- Every row that acts on the helper answers, and goes where the helper may go. -/
theorem answers_of_actsOnHelper {i : Instr} (s : State) (h : actsOnHelper i = true) : Answers (exec i s) s := by
  cases i <;> simp only [exec]
  case inputPowerOn slot ok => exact answers_next (helped_powerOn s slot ok)
  case inputUndervoltage => exact answers_next (helped_powerOff s false false)
  case inputOvervoltage | thermalTrip =>
    exact answers_next (helped_ite (fun _ => helped_powerOff s true true) fun _ => .refl s)
  case perstAssert => exact helped_perstAssert s
  case perstRelease a b fails link => exact answers_next (helped_perstRelease s a b fails link)
  case serviceReady drives => exact answers_next (helped_becomeReady s drives)
  case crownWatchdogExpiry => exact answers_next (helped_crownReset s)
  case crownReturn a b => exact answers_next (helped_crownReturn s a b)
  case keyenrol slot key signer sig => exact answers_keyenrol s slot key signer sig
  case keyrevoke firmware slot signer sig => exact answers_keyrevoke s firmware slot signer sig
  case secPolicyWrite v => exact answers_next (helped_ite (fun _ => (tame_writePolicy s v).helped) fun _ => .refl s)
  case registerWrite off size v => exact answers_next (tame_barWrite s _ _ _).helped
  case mailboxInbound msg => exact answers_next (helped_ite (fun _ => .of_part) fun _ => .refl s)
  case mailboxOutbound msg =>
    refine answers_next (helped_ite (fun _ => helped_ite (fun _ => .of_part) fun _ => ?_) fun _ => .refl s)
    exact .of_part
  case crnMboxOutReadyClear => exact answers_next (helped_ite (fun _ => (tame_clearOut s).helped) fun _ => .refl s)
  case telemetrySample t =>
    refine answers_byHelper ?_
    exact .of_part
  case smbusFallback | dynamicAddressAssignment =>
    refine answers_byHelper ?_
    exact helped_ite (fun _ => .refl s) fun _ => .of_part
  case setEndpointId eid => exact answers_setEndpointId s eid
  case getEndpointId | getMctpVersionSupport | getMessageTypeSupport | getVendorDefinedMessageSupport | gettid
      | getpldmversion | getpldmtypes | getpldmcommands | getpdrrepositoryinfo => exact answers_reply s _ _
  case getsensorreading n =>
    refine answers_byHelper ?_
    split <;> exact helped_answer (.refl s) _ _
  case getstatesensorreadings n =>
    refine answers_byHelper ?_
    exact helped_ite (fun _ => helped_answer (.refl s) _ _) fun _ => helped_taken (fun _ => helped_answer (.refl s) _ _) _ _
  case getnumericeffectervalue | getpdr =>
    refine answers_byHelper ?_
    exact helped_taken (fun _ => helped_answer (.refl s) _ _) _ _
  case setnumericeffectervalue n v =>
    refine answers_byHelper ?_
    exact helped_taken (fun _ => helped_answer .of_part _ _) _ _
  case pollforplatformeventmessage =>
    refine answers_byHelper ?_
    split
    · exact helped_answer (.refl s) _ _
    · exact helped_answer .of_part _ _
  case requestupdate =>
    refine answers_byCrown ?_
    exact helped_taken (fun _ => helped_answer (helped_updTo s _) _ _) _ _
  case cancelupdate =>
    refine answers_byCrown ?_
    exact helped_ite (fun _ => helped_answer (.refl s) _ _) fun _ => helped_answer (helped_updTo s _) _ _
  case getstatus => exact answers_byCrown (helped_answer (.refl s) _ _)
  case getpackagedata => exact answers_byCrown (helped_inState (helped_answer (.refl s) _ _))
  case passcomponenttable k n =>
    refine answers_byCrown (helped_inState ?_)
    exact helped_taken (fun _ => helped_answer (helped_updTo s _) _ _) _ _
  case updatecomponent n size =>
    refine answers_byCrown (helped_inState ?_)
    exact helped_taken (fun _ => helped_answer .of_part _ _) _ _
  case transfercomplete result =>
    refine answers_byCrown (helped_inState ?_)
    exact helped_ite (fun _ => helped_answer (helped_updTo s _) _ _) fun _ => helped_answer (helped_updTo s _) _ _
  case activatefirmware delayed =>
    refine answers_byCrown (helped_inState ?_)
    exact helped_taken (fun _ => helped_answer .of_part _ _) _ _
  case requestfirmwaredata off data => exact answers_requestfirmwaredata s off data
  case verifycomplete chk => exact answers_verifycomplete s chk
  case applycomplete result => exact answers_applycomplete s result
  case getcertchain n => exact answers_byVendor (helped_answer (.refl s) _ _)
  case getattestation nonce => exact answers_byVendor (helped_answer (.refl s) _ _)
  all_goals cases h

/-! ## PVIS rows -/

/-- The outcome of a PVIS row (R293): with words that may stand, a next state whose helper and answers are the same; else
a stop by the row's name. -/
def StopsUnless (ok : Prop) (name : String) (o : Out) (s : State) : Prop :=
  (ok → ∃ t, o = .next t ∧ t.pending = s.pending ∧ t.mgt = s.mgt ∧ t.resp = s.resp)
  ∧ (¬ ok → o = .fault (.rejectedEncoding name))

theorem stopsUnless_cond {ok : Bool} {name : String} {s : State} (f : Mod → Mod) :
    StopsUnless (ok = true) name (if ok then .next (s.onMod f) else .fault (.rejectedEncoding name)) s :=
  ⟨fun h => ⟨_, if_pos h, rfl, rfl, rfl⟩, fun h => if_neg h⟩

/-- Only ATTN and KVAPP check more than the words (R309, R310). -/
theorem accepted_iff {s : State} {op : Nat} {c : CoreId} {p : PvisWords} (h : op ≠ 0x70 ∧ op ≠ 0x71) :
    accepted s op c p ↔ pvisIs op p = true :=
  ⟨fun a => a.1, fun w => ⟨w, fun e => absurd e (not_or.mpr h)⟩⟩

theorem stopsUnless_coreCmd {name : String} {op : Nat} {c : CoreId} {p : PvisWords} {s : State} {zero run : Mod → Mod}
    (h : op ≠ 0x70 ∧ op ≠ 0x71) : StopsUnless (accepted s op c p) name (coreCmd name op c p s zero run) s := by
  rw [accepted_iff h]
  exact stopsUnless_cond _

theorem stopsUnless_macroCmd {name : String} {op mask : Nat} {c : CoreId} {p : PvisWords} {s : State}
    {run : Bool → Mod → Mod} (h : op ≠ 0x70 ∧ op ≠ 0x71) :
    StopsUnless (accepted s op c p) name (macroCmd name op mask c p s run) s := by
  rw [accepted_iff h]
  exact stopsUnless_cond _

/-- ATTN and KVAPP stop too where a head of their range is not declared. -/
theorem stopsUnless_heads {name : String} {op mask : Nat} {c : CoreId} {p : PvisWords} {s : State}
    {run : Bool → Mod → Mod} (h : op = 0x70 ∨ op = 0x71) :
    StopsUnless (accepted s op c p) name (if !Mod.headsDeclared s.mod c op p then .fault (.rejectedEncoding name)
      else macroCmd name op mask c p s run) s := by
  cases hd : Mod.headsDeclared s.mod c op p with
  | true =>
    have e : accepted s op c p ↔ pvisIs op p = true := ⟨fun a => a.1, fun w => ⟨w, fun _ => hd⟩⟩
    rw [e]
    exact stopsUnless_cond _
  | false => exact ⟨fun a => absurd (a.2 h) (by simp [hd]), fun _ => rfl⟩

theorem stopsUnless_of_pvisRow {i : Instr} {name : String} {op : Nat} {c : CoreId} {p : PvisWords} (s : State)
    (h : pvisRow i = some (name, op, c, p)) : StopsUnless (accepted s op c p) name (exec i s) s := by
  cases i
  case attn | kvapp =>
    cases h
    exact stopsUnless_heads (by decide)
  case conv | hsend | hrecv | kvpf | sample | verify | smodal | sscan | scell | sreset | sanchor | evsnap =>
    cases h
    exact stopsUnless_macroCmd (by decide)
  all_goals cases h <;> exact stopsUnless_coreCmd (by decide)

/-! ## The obligations -/

/-- Settles O58: a row is a PVIS row, acts on the helper, or leaves it alone. -/
theorem everyCommandAnswers : Obligations.EveryCommandAnswers := by
  unfold Obligations.EveryCommandAnswers
  refine fun s i => ⟨fun hrow => ?_, fun name op c p hrow => stopsUnless_of_pvisRow s hrow⟩
  cases hh : actsOnHelper i with
  | true =>
    obtain ⟨t, ht, hs⟩ := answers_of_actsOnHelper s hh
    exact ⟨t, ht, hs.pending⟩
  | false =>
    obtain ⟨t, ht, hp, _⟩ := kept i s hh hrow
    exact ⟨t, ht, hp⟩

/-- Where any command takes the helper. -/
theorem helped_of_exec {i : Instr} {s t : State} (h : exec i s = .next t) : Helped s t := by
  have same (hm : t.mgt = s.mgt) (hp : t.pending = s.pending) : Helped s t := .of_part (by rw [hm]) hp
  cases hrow : pvisRow i with
  | some r =>
    obtain ⟨name, op, c, p⟩ := r
    obtain ⟨hok, hstop⟩ := stopsUnless_of_pvisRow s hrow
    by_cases ha : accepted s op c p
    · obtain ⟨u, hu, hp, hm, _⟩ := hok ha
      cases hu.symm.trans h
      exact same hm hp
    · cases (hstop ha).symm.trans h
  | none =>
    cases hh : actsOnHelper i with
    | true =>
      obtain ⟨u, hu, hs⟩ := answers_of_actsOnHelper s hh
      cases hu.symm.trans h
      exact hs
    | false =>
      obtain ⟨u, hu, hp, hm⟩ := kept i s hh hrow
      cases hu.symm.trans h
      exact same hm hp

/-- Where a step takes the helper: an idle step leaves it alone. -/
theorem step_fused {s t : State} (h : step s = .next t) :
    Fused s.mgt t.mgt ∧ (s.mgt.locked = true → t.mgt.policy = s.mgt.policy ∨ t.mod.sys.perst = true) := by
  unfold step at h
  split at h
  · cases h
    have hm : (idle s).mgt = s.mgt := by unfold idle; split <;> rfl
    exact ⟨hm ▸ Fused.refl _, fun _ => .inl (by rw [hm])⟩
  · have hs := helped_of_exec h
    exact ⟨hs.toFused, hs.policy⟩

/-- Settles O59. -/
theorem soundnessKept : Obligations.SoundnessKept := by
  unfold Obligations.SoundnessKept
  exact fun s t hs h => (step_fused h).1.sound hs

/-- Settles O60. -/
theorem fusesAndLockedPolicy : Obligations.FusesAndLockedPolicy := by
  unfold Obligations.FusesAndLockedPolicy
  exact fun s t h => ⟨(step_fused h).1.blown, (step_fused h).2⟩

end Sys2Proof.Proofs

/-!
The control unit (R18, R34, R38, R295, R316 to R319, R333): scalar results, branches, waits, bank switches, flags and
hatband lines. Each instruction is one lemma of its run on the core that has fetched it; `gives_cmd` does the rest.
-/
namespace Sys2Proof.Proofs

open Sys2Proof Sys2Proof.Machine Sys2Proof.Claims Sys2Proof.Laws

/-- Settles O1: `step` takes the front command, and `idle` is the tick. -/
theorem stepRunsTheFrontCommand : Obligations.StepRunsTheFrontCommand := by
  unfold Obligations.StepRunsTheFrontCommand
  refine fun s i rest => ⟨rfl, fun hheld => ?held, fun hfree => ?ticks⟩
  case held => simp only [step, idle, hheld, if_true]
  case ticks => simp only [step, idle, hfree, Bool.false_eq_true, if_false]

section
variable {m : Mod} {c : Nat} {x : Core} {p : PvisWords} {a b : Word}

theorem putReg_setCore (m : Mod) (c : Nat) (x : Core) (i : Nat) (v : Word) :
    Mod.putReg (setCore m c x) c i v = setCore m c (x.setReg i v) := modCore_setCore m c x _

theorem jump_setCore (m : Mod) (c : Nat) (x : Core) (n : Int) :
    Mod.jump (setCore m c x) c n = setCore m c { x with pc := n.toNat } := modCore_setCore m c x _

/-- The program counter of a core past an instruction of one word. -/
theorem past_pc {s : State} {c : CoreId} {op : Nat} {p : PvisWords} (h : pvisIs op p = true)
    (hop : extCount op = some 0) : (past s c p).pc = (Mod.core s.mod c).pc + 1 := by
  show (Mod.core s.mod c).pc + pvisLen p = _
  rw [pvisLen_of h hop]

end

/-- Settles O2: one register is written, or none. -/
theorem scalarResults : Obligations.ScalarResults := by
  unfold Obligations.ScalarResults
  intro s c p x rd a b put
  refine ⟨fun h => ?nop, fun h => ?li, fun h => ?alu, fun h => ?alui, fun h => ?sys, fun h => ?evmark, fun h => ?level⟩
  case nop => exact gives_cmd_same id id h rfl
  case li => exact gives_cmd_same id (Mod.li c p) h (putReg_setCore _ _ _ _ _)
  case alu =>
    refine gives_cmd_same id (Mod.alu c p) h ?_
    simp only [Mod.alu, core_setCore, putReg_setCore]
    rfl
  case alui =>
    refine gives_cmd_same id (Mod.alui c p) h ?_
    simp only [Mod.alui, core_setCore, putReg_setCore]
    rfl
  case sys => exact gives_cmd_same id (Mod.sysRead c p) h (putReg_setCore _ _ _ _ _)
  case level =>
    refine gives_cmd_same id (Mod.levelRead c p) h ?_
    simp only [Mod.levelRead, core_setCore, putReg_setCore]
    rfl
  case evmark => exact gives_cmd id (Mod.evmark c p) h (visor_tallied _ _ _ _)

theorem word_sub_one_eq_zero {x : Word} : x - 1 = 0 ↔ x = 1 := by
  constructor
  · intro h
    bv_omega
  · intro h
    subst h
    decide

/-- Settles O3: the target is counted from the instruction's own word. -/
theorem branchTargets : Obligations.BranchTargets := by
  unfold Obligations.BranchTargets
  intro s c p y x at_
  have hreg (i : Nat) : x.reg i = y.reg i := rfl
  refine ⟨fun h hb => ?taken, fun h hb => ?notTaken, fun h hne => ?back, fun h heq => ?last⟩
  case taken =>
    have hpc : (x.pc : Int) = y.pc + 1 := congrArg Nat.cast (past_pc (s := s) (c := c) h.words rfl)
    refine gives_cmd_same id (Mod.br c p) h ?_
    have hx : brHolds (PvisWords.f p 42 40) (x.reg (fieldRa p)) (x.reg (fieldRb p)) = true := hb
    simp only [Mod.br, core_setCore]
    rw [if_pos hx, jump_setCore, show (past s c p).pc = x.pc from rfl, hpc, Int.add_sub_cancel]
  case notTaken =>
    refine gives_cmd_same id (Mod.br c p) h ?_
    have hx : ¬ brHolds (PvisWords.f p 42 40) (x.reg (fieldRa p)) (x.reg (fieldRb p)) = true := by
      rw [hreg, hreg]; exact Bool.eq_false_iff.mp hb
    simp only [Mod.br, core_setCore]
    exact if_neg hx
  case back =>
    have hpc : (x.pc : Int) = y.pc + 1 := congrArg Nat.cast (past_pc (s := s) (c := c) h.words rfl)
    have hv : (past s c p).reg (fieldRd p) - 1 ≠ 0 := fun e => hne (word_sub_one_eq_zero.mp e)
    refine gives_cmd_same id (Mod.loopBack c p) h ?_
    simp only [Mod.loopBack, core_setCore, putReg_setCore]
    rw [if_neg hv, jump_setCore, show (past s c p).pc = x.pc from rfl, hpc]
    rw [Int.add_sub_cancel]
    rfl
  case last =>
    have hv : (past s c p).reg (fieldRd p) - 1 = 0 := word_sub_one_eq_zero.mpr heq
    refine gives_cmd_same id (Mod.loopBack c p) h ?_
    simp only [Mod.loopBack, core_setCore, putReg_setCore]
    rw [if_pos hv, hv]
    rfl

/-! ## Waits -/

/-- Settles O4: each wait is registered and, where it holds already, ends in `Mod.settle`. -/
theorem controlUnitWaits : Obligations.ControlUnitWaits := by
  unfold Obligations.ControlUnitWaits
  intro s c p x y
  refine ⟨fun h hidle => ?cond, fun h hidle hack => ?fence, fun h => ?qwait, fun e cmp v hw hl => ?satisfied⟩
  case cond =>
    refine gives_cmd_same id (Mod.condRead c p) h ?_
    simp only [Mod.condRead, modCore_setCore, Mod.settle, core_setCore]
    rw [maskIdle_setCore, if_pos hidle]
    · simp only [beq_iff_eq]
      rfl
    · rfl
  case fence =>
    refine gives_cmd_same id (Mod.fenceInstr c p) h ?_
    simp only [Mod.fenceInstr, modCore_setCore, Mod.settle, core_setCore]
    have hscope : (decide (PvisWords.f p 1 0 < 2) || !Mod.ackWaits s.mod c) = true := by
      by_cases hs : PvisWords.f p 1 0 < 2
      · simp [hs]
      · simp [hack (Nat.le_of_not_lt hs)]
    rw [maskIdle_setCore, ackWaits_setCore, hidle, hscope]
    · rfl
    · rfl
    · rfl
  case qwait =>
    refine gives_cmd_same id (Mod.qwait c p) h ?_
    simp only [Mod.qwait, core_setCore, modCore_setCore]
    exact (apply_ite (setCore s.mod c) _ _ _).symm
  case satisfied =>
    refine gives_same ?_
    simp only [Mod.qwaitDone]
    rw [show (Mod.core s.mod c).wait = .level e cmp v from hw]
    exact if_pos hl

/-- What END leaves of the core's bank and of the core (R38). -/
def leftBank (m : Mod) (c : Nat) (x : Core) : Mod :=
  setCore (setCluster m (c / 16)
    ((Mod.cluster m (c / 16)).setBank x.bank ((Mod.cluster m (c / 16)).bank x.bank).leave)) c { x with running := false }

theorem endCore_setCore (m : Mod) (c : Nat) (x : Core) : Mod.endCore c (setCore m c x) =
    if (coresOf (c / 16)).all fun i => !(Mod.core (leftBank m c x) i).running then
      Mod.modFlight (leftBank m c x) x.job fun f => { f with ended := f.ended + 1 }
    else leftBank m c x := by
  simp only [Mod.endCore, core_setCore, modCluster_set, cluster_setCore, setCluster_setCore, modCore_setCore, leftBank]
  rfl

theorem leftBank_others (m : Mod) (c : Nat) (x : Core) {i : Nat} (hi : i ≠ c) :
    Mod.core (leftBank m c x) i = Mod.core m i := core_setCore_ne _ _ hi

/-- END is the last of its cluster where no other core runs. -/
theorem leftBank_all (m : Mod) (c : Nat) (x : Core) : ((coresOf (c / 16)).all fun i =>
    !(Mod.core (leftBank m c x) i).running) = true ↔ ∀ i ∈ coresOf (c / 16), i ≠ c → (Mod.core m i).running = false := by
  simp only [List.all_eq_true, Bool.not_eq_true']
  constructor
  · intro h i hi hne
    rw [← leftBank_others m c x hne]
    exact h i hi
  · intro h i hi
    by_cases hc : i = c
    · rw [hc, leftBank, core_setCore]
    · rw [leftBank_others m c x hc]
      exact h i hi hc

/-- Settles O5: the bank a core enters, and the bank it leaves. -/
theorem bankSwitchAndEnd : Obligations.BankSwitchAndEnd := by
  unfold Obligations.BankSwitchAndEnd
  intro s c p x y l k moved left
  refine ⟨fun h hready _ => ?bank, fun b hw _ hb hready hfree => ?ready, fun h hrun => ?stays, fun h hlast => ?last⟩
  case bank =>
    refine gives_cmd id (Mod.bankSwitch c) h ?_
    have hholds : Mod.bankHolds (setCore s.mod c x) c (1 - x.bank) = true := decide_eq_true hready
    simp only [Mod.bankSwitch, core_setCore]
    rw [if_pos hholds]
    exact enterBank_setCore s.mod c (1 - x.bank) x
  case ready =>
    refine gives_onMod ?_
    have hholds : Mod.bankHolds s.mod c b = true := decide_eq_true hready
    have hp : (Mod.cluster s.mod (c / 16)).preempt.isNone = true := by
      rw [show (Mod.cluster s.mod (c / 16)).preempt = none from hfree]; rfl
    simp only [Mod.bankReady, show (Mod.core s.mod c).wait = .bank b from hw, hholds, hp, Bool.and_self, if_true]
    exact enterBank_self s.mod c b
  case stays =>
    refine gives_cmd_same id (Mod.endCore c) h ?_
    obtain ⟨i, hi, hne, hr⟩ := hrun
    rw [endCore_setCore, if_neg fun hall => ?_]
    · rfl
    · exact absurd hr (by rw [(leftBank_all _ _ _).mp hall i hi hne]; decide)
  case last =>
    refine gives_cmd_same id (Mod.endCore c) h ?_
    rw [endCore_setCore, if_pos ((leftBank_all _ _ _).mpr hlast)]
    rfl

/-! ## Flags and hatband lines -/

section
variable {s : State} {c : CoreId} {p : PvisWords}

/-- FSET or FCLR whose wait has ended (R316). -/
theorem flagInstr_idle (val : Bool) (hidle : Mod.maskIdle s.mod c (PvisWords.f p 23 16) = true)
    (hack : Mod.ackWaits s.mod c = false) :
    Mod.flagInstr c p val (setCore s.mod c (past s c p)) =
      Mod.flagOp (setCore s.mod c { past s c p with wait := .none }) c (PvisWords.f p 11 0) val := by
  simp only [Mod.flagInstr, modCore_setCore, Mod.settle, core_setCore]
  rw [maskIdle_setCore, ackWaits_setCore, hidle, hack]
  · rfl
  · rfl
  · rfl

/-- FWAITS or FWAITC goes on, or registers its wait (R327). -/
theorem flagWait_tallied (w : Bool) :
    let x := past s c p
    let has := Mod.flagValue s.mod (Mod.ctxOf s.mod c) (c / 16) (PvisWords.f p 11 0)
    ∃ i j, Mod.flagWait c p w (setCore s.mod c x) =
      tallied (setCore s.mod c (if has = w then x else { x with wait := .flag (PvisWords.f p 11 0) w false })) i j := by
  intro x has
  simp only [Mod.flagWait, modCore_setCore, flagValue_setCore, ctxOf_setCore s.mod c c x rfl]
  by_cases h : has = w
  · rw [if_pos h, if_pos h]; exact ⟨_, _, (tallied_self _).symm⟩
  · rw [if_neg h, if_neg h]; exact visor_tallied _ _ _ _

end

/-- Settles O6: a change goes to the home, a wait ends at once or is registered. -/
theorem flagInstructions : Obligations.FlagInstructions := by
  unfold Obligations.FlagInstructions
  intro s c p x y v has idle waits
  refine ⟨fun h ⟨hidle, hack⟩ => ?fset, fun h ⟨hidle, hack⟩ => ?fclr,
    fun h => ?fwaits, fun h => ?fwaitc, fun f w hw => ?done⟩
  case fset => exact gives_cmd_same id (Mod.flagInstr c p true) h (flagInstr_idle true hidle hack)
  case fclr => exact gives_cmd_same id (Mod.flagInstr c p false) h (flagInstr_idle false hidle hack)
  case fwaits => exact gives_cmd id (Mod.flagWait c p true) h (flagWait_tallied true)
  case fwaitc => exact gives_cmd id (Mod.flagWait c p false) h (flagWait_tallied false)
  case done =>
    refine gives_same ?_
    simp only [Mod.flagDone]
    rw [show (Mod.core s.mod c).wait = .flag f w true from hw]
    rfl

/-- What a release leaves of the lines and of memory (R333). -/
theorem hatRelease_facts {m : Mod} {n : Nat} (h : Mod.allArrived m n = true) :
    (Mod.hatRelease m n).dev.release = sset false m.dev.release n (!Mod.release m n)
      ∧ (Mod.hatRelease m n).mem = m.mem := by
  simp only [Mod.hatRelease, h, if_true]
  obtain ⟨hdev, hmem⟩ := resumeLines_dev n (m.cores.map (·.1))
    { m with dev := { m.dev with release := sset false m.dev.release n (!Mod.release m n) } }
  exact ⟨congrArg Dev.release hdev, hmem⟩

section
variable {m : Mod} {c n : Nat} {p : PvisWords} {x : Core}

theorem lineOf_past (hctx : x.ctx = (Mod.core m c).ctx)
    (h : Mod.lineOf m (Mod.ctxOf m c) (PvisWords.f p 3 0) = some n) :
    Mod.lineOf (setCore m c x) (Mod.ctxOf (setCore m c x) c) (PvisWords.f p 3 0) = some n := by
  rw [ctxOf_setCore m c c x hctx, lineOf_setCore]
  exact h

theorem hbarr_setCore (hctx : x.ctx = (Mod.core m c).ctx) (hphase : x.phaseOf = (Mod.core m c).phaseOf)
    (h : Mod.lineOf m (Mod.ctxOf m c) (PvisWords.f p 3 0) = some n) : Mod.hbarr c p (setCore m c x) =
      if Mod.unreleased m c (PvisWords.f p 3 0) n then setCore m c { x with wait := .arrive (PvisWords.f p 3 0) }
      else Mod.arrive (setCore m c x) c (PvisWords.f p 3 0) n := by
  simp only [Mod.hbarr, lineOf_past hctx h, unreleased_setCore m c x _ _ hphase, modCore_setCore]

theorem hbwait_setCore (hctx : x.ctx = (Mod.core m c).ctx) (hphase : x.phaseOf = (Mod.core m c).phaseOf)
    (h : Mod.lineOf m (Mod.ctxOf m c) (PvisWords.f p 3 0) = some n) : Mod.hbwait c p (setCore m c x) =
      if Mod.unreleased m c (PvisWords.f p 3 0) n then
        setCore m c { x with wait := .release (PvisWords.f p 3 0) (sget 0 x.phaseOf (PvisWords.f p 3 0) == 2) }
      else setCore m c x := by
  simp only [Mod.hbwait, lineOf_past hctx h, unreleased_setCore m c x _ _ hphase, modCore_setCore]

end

/-- Settles O8: an arrival goes by whether the last one is released, a release by whether all have arrived. -/
theorem hatbandPhases : Obligations.HatbandPhases := by
  unfold Obligations.HatbandPhases
  intro s c p x v
  refine ⟨fun n hn => ?phases, fun n hall => ?release⟩
  case phases =>
    refine ⟨fun h hb => ?_, fun h hb => ?_, fun h hb => ?_, fun h hb => ?_⟩
    · exact gives_cmd_same id (Mod.hbarr c p) h
        ((hbarr_setCore (x := x) rfl rfl hn).trans (if_neg (Bool.eq_false_iff.mp hb)))
    · exact gives_cmd_same id (Mod.hbarr c p) h ((hbarr_setCore (x := x) rfl rfl hn).trans (if_pos hb))
    · exact gives_cmd_same id (Mod.hbwait c p) h
        ((hbwait_setCore (x := x) rfl rfl hn).trans (if_neg (Bool.eq_false_iff.mp hb)))
    · exact gives_cmd_same id (Mod.hbwait c p) h ((hbwait_setCore (x := x) rfl rfl hn).trans (if_pos hb))
  case release =>
    obtain ⟨hrel, hmem⟩ := hatRelease_facts hall
    have hr (j : Nat) : Mod.release (s.onMod fun m => Mod.hatRelease m n).mod j
        = sget false (sset false s.mod.dev.release n (!Mod.release s.mod n)) j := by rw [← hrel]; rfl
    refine ⟨_, rfl, ?_, fun j hj => ?_, hmem⟩
    · rw [hr, sget_sset_same]
    · rw [hr, sget_sset_ne _ _ _ hj]; rfl

end Sys2Proof.Proofs

/-!
Engines (R19, R28 to R33, R291): issue to an engine's queue of four, and the move an engine makes by its oldest command.
-/
namespace Sys2Proof.Proofs

open Sys2Proof Sys2Proof.Machine Sys2Proof.Claims Sys2Proof.Laws

/-- Settles O10: a row of `engineRow` is `engineCmd` of its opcode and engine, and `engineCmd_issued` says the rest. -/
theorem engineCommandIssue : Obligations.EngineCommandIssue := by
  unfold Obligations.EngineCommandIssue
  intro s i op e c p hrow h
  suffices hcmd : ∃ name, exec i s = engineCmd name op e c p s by
    obtain ⟨name, hcmd⟩ := hcmd
    rw [hcmd]
    exact engineCmd_issued s name op e c p h
  cases i
  case qtok | qskip =>
    obtain ⟨_, he, hr⟩ := Option.map_eq_some_iff.mp hrow
    cases hr
    exact ⟨_, congrArg (fun g => engineCmd _ _ g c p s) (congrArg (Option.getD · 0) he)⟩
  case mma | combine | drain | gate | glstm | ggru | gcacc | vadd | vmul | vfma | vcmp | vsel | vmin | vmax | vld | vst |
      vbc | dmard | dmawr =>
    cases hrow
    exact ⟨_, rfl⟩
  all_goals cases hrow

/-! ## Moves -/

section
variable {m : Mod} {c e q : Nat} {x : ECmd} {ent : QEntry}

/-- A push into an end of the core that has a free slot; the ring out of the core, qx_out, goes on by itself (R29). -/
theorem push_free (hq : q < 11) (hroom : (Mod.core m c).level q < queueDepth q) : ∃ a b, Mod.push m c q ent =
    some (tallied (setCore m c ((Mod.core m c).setQueue q ((Mod.core m c).queue q ++ [ent]))) a b) := by
  have h16 : q < 16 := by omega
  have h11 : q ≠ 11 := by omega
  obtain ⟨a, b, hv⟩ := visor_tallied
    (Mod.modCore m c fun x => x.setQueue q (x.queue q ++ [ent])) (c / 16) 0x1A (b2n ent.poison)
  exact ⟨a, b, by simp only [Mod.push, Mod.pushEnd, h16, hroom, h11, if_true, if_false, hv]; rfl⟩

theorem push_full (hq : q < 12) (hfull : queueDepth q ≤ (Mod.core m c).level q) : Mod.push m c q ent = none := by
  have h16 : q < 16 := by omega
  simp only [Mod.push, Mod.pushEnd, h16, Nat.not_lt.mpr hfull, if_true, if_false]

/-- An engine that is parked or held moves nothing. -/
theorem engineOne_held (u : Mod → Nat → ECmd → EStep) (h : front m c e x)
    (hheld : sget 0 (Mod.core m c).parked e ≠ 0 ∨ Mod.held m c = true) : Mod.engineOne u m c e = none := by
  obtain ⟨rest, h⟩ := h
  simp only [Mod.engineOne, h]
  exact if_pos hheld

/-- What an engine is left as by one move of its oldest command. -/
def moved (c e : Nat) : EStep → Option Mod
  | .blocked => none
  | .more m x => some (Mod.setFront m c e x)
  | .dead m => some m
  | .waits m => some m

/-- A command that has not started is started, if it may (R31). -/
theorem engineOne_start (u : Mod → Nat → ECmd → EStep) (h : front m c e x)
    (hpark : sget 0 (Mod.core m c).parked e = 0) (hheld : Mod.held m c = false) (hout : x.out = [])
    (hfin : x.finished = false) (hclaim : (Mod.core m c).claimed e x = false) (hstart : x.started = false) :
    Mod.engineOne u m c e = moved c e (Mod.startCmd m c x) := by
  rw [engineOne_front h u hpark hheld, hout]
  simp only [hfin, hclaim, hstart, Bool.false_eq_true, if_false]
  cases Mod.startCmd m c x <;> rfl

theorem setCore_tallied (m : Mod) (c : Nat) (x y : Core) (a b : SMap VCount) :
    setCore (tallied (setCore m c x) a b) c y = tallied (setCore m c y) a b :=
  congrArg (tallied · a b) (setCore_setCore m c x y)

theorem tokenHead_of_ge {y : Core} {n : Nat} {qs : List QEntry} (hn : 2 ≤ n) (hq : y.queue n = ent :: qs) :
    y.tokenHead x n = some ent := by
  have : ¬ n < 2 := by omega
  simp only [Core.tokenHead, hq, this, decide_false, Bool.false_and, Bool.false_eq_true, if_false]

/-- Taking the head of an end that nothing refills. -/
theorem dropHead_set {n : Nat} {qs : List QEntry} (hn : n < 7) (hq : (Mod.core m c).queue n = ent :: qs) :
    Mod.dropHead m c n = setCore m c ((Mod.core m c).setQueue n qs) := by
  have h10 : n ≠ 10 := by omega
  have h7 : n ≠ 7 := by omega
  simp only [Mod.dropHead, h10, h7, if_false, setCore_modCore, hq, List.tail_cons]

/-- A command that waits for a token takes it, poisoned or not (R31, R33). -/
theorem startCmd_token {qs : List QEntry} (hmode : 2 ≤ PvisWords.tmode x.p)
    (hlo : 2 ≤ nth 15 (inEnds x.p) (PvisWords.tend x.p)) (hhi : nth 15 (inEnds x.p) (PvisWords.tend x.p) < 7)
    (hq : (Mod.core m c).queue (nth 15 (inEnds x.p) (PvisWords.tend x.p)) = ent :: qs) (hmark : ent.marker = 2)
    (htok : ent.poison = true ∨ ent.token = PvisWords.token x.p) :
    Mod.startCmd m c x =
      .more (setCore m c ((Mod.core m c).setQueue (nth 15 (inEnds x.p) (PvisWords.tend x.p)) qs))
        { x with started := true, poison := x.poison || ent.poison } := by
  simp only [Mod.startCmd, Nat.not_lt.mpr hmode, if_false, tokenHead_of_ge hlo hq, hmark, ne_eq, not_true_eq_false,
    dropHead_set hhi hq]
  by_cases hpoison : ent.poison = true
  · simp only [hpoison, if_true, Bool.or_true]
  · have htok := htok.resolve_left hpoison
    simp only [hpoison, htok, if_true, if_false, Bool.false_eq_true, Bool.or_false]

/-- A command whose end has no token at its head does not start. -/
theorem startCmd_blocked (hmode : 2 ≤ PvisWords.tmode x.p)
    (hq : (Mod.core m c).queue (nth 15 (inEnds x.p) (PvisWords.tend x.p)) = [] ∨
      ∃ q qs, (Mod.core m c).queue (nth 15 (inEnds x.p) (PvisWords.tend x.p)) = q :: qs ∧ q.marker ≠ 2) :
    Mod.startCmd m c x = .blocked := by
  simp only [Mod.startCmd, Nat.not_lt.mpr hmode, if_false]
  rcases hq with hq | ⟨q, qs, hq, hmark⟩
  · simp only [Core.tokenHead, hq]
  · simp only [Core.tokenHead, hq]
    split
    · rfl
    · next q' hq' =>
      split at hq'
      · cases hq'
      · cases hq'
        exact if_pos hmark

theorem pumpThat_one {f : ECmd → Bool} {g : Nat} (h : (Mod.core m c).frontsThat f = [g]) :
    Mod.pumpThat m c f = Mod.pump m c g := by
  simp only [Mod.pumpThat, h, List.foldl_cons, List.foldl_nil]

theorem onMod_pumpThat {s : State} {f : ECmd → Bool} {g : Nat} (h : (Mod.core s.mod c).frontsThat f = [g]) :
    (.next (s.onMod fun m => Mod.pumpThat m c f) : Out) = .next (s.onMod fun m => Mod.pump m c g) := by
  simp only [State.onMod, pumpThat_one h]

end

/-- Settles O11: by what the oldest command is at, its results out, its end, its claims or its start. -/
theorem engineMoves : Obligations.EngineMoves := by
  unfold Obligations.EngineMoves
  refine ⟨fun m c e x h => ?moves, fun s c e g => ?resumes⟩
  case moves =>
    intro y end_ step able ready
    refine ⟨fun hheld => engineOne_held _ h hheld, fun q ent rest ⟨hpark, hheld⟩ hout hq hroom => ?push,
      fun q ent rest ⟨hpark, hheld⟩ hout hq hfull => ?full, fun ⟨hpark, hheld⟩ hout hfin hop => ?complete,
      fun ⟨hpark, hheld⟩ hout hfin hclaim => ?claimed, fun ⟨⟨hpark, hheld⟩, hout, hfin, hclaim⟩ hstart hmode => ?plain,
      fun q qs ⟨⟨hpark, hheld⟩, hout, hfin, hclaim⟩ hstart hmode hlo hhi hq hmark htok => ?token,
      fun ⟨⟨hpark, hheld⟩, hout, hfin, hclaim⟩ hstart hmode hq => ?blocked⟩
    case push =>
      obtain ⟨a, b, hp⟩ := push_free (ent := ent) hq hroom
      refine ⟨a, b, (engineOne_front h _ hpark hheld).trans ?_⟩
      simp only [hout, hp, Option.map_some, setFront_set, tallied_core, core_setCore, setCore_tallied]
      rfl
    case full =>
      rw [show step = _ from engineOne_front h _ hpark hheld, hout]
      simp only [push_full hq hfull, Option.map_none]
    case complete =>
      rw [show step = _ from engineOne_front h _ hpark hheld, hout]
      simp only [hfin, hop, decide_false, Bool.false_and, Bool.false_eq_true, if_true, if_false]
    case claimed =>
      rw [show step = _ from engineOne_front h _ hpark hheld, hout]
      simp only [hfin, hclaim, y, Bool.false_eq_true, if_true, if_false]
    case plain =>
      rw [show step = _ from engineOne_start _ h hpark hheld hout hfin hclaim hstart]
      simp only [Mod.startCmd, hmode, if_true, moved, setFront_set, y]
    case token =>
      rw [show step = _ from engineOne_start _ h hpark hheld hout hfin hclaim hstart]
      simp only [startCmd_token hmode hlo hhi hq hmark htok, moved, setFront_set, core_setCore, setCore_setCore]
      rfl
    case blocked =>
      rw [show step = _ from engineOne_start _ h hpark hheld hout hfin hclaim hstart]
      simp only [startCmd_blocked hmode hq, moved]
  case resumes =>
    exact ⟨fun h => onMod_pumpThat h, fun h => onMod_pumpThat h, fun h => onMod_pumpThat h⟩

end Sys2Proof.Proofs

/-!
Key-value and sampling instructions (R173 to R187, R203, R309, R310, R312, R313): each is its run on the core that has
fetched it, and the run is taken apart by what its tables, pages and objects answer.
-/
namespace Sys2Proof.Proofs

open Sys2Proof Sys2Proof.Machine Sys2Proof.Claims Sys2Proof.Laws

/-! ## Issue -/

section
variable {i : Instr} {op mask : Nat} {c : CoreId} {p : PvisWords} {run : Mod → Mod} {s : State}

theorem execAttn_eq (h : Mod.headsDeclared s.mod c 0x70 p = true) :
    execAttn c p s = macroCmd "ATTN" 0x70 0x7F c p s (Mod.attn c p) := by
  simp only [execAttn, h, Bool.not_true, Bool.false_eq_true, if_false]

theorem execKvapp_eq (h : Mod.headsDeclared s.mod c 0x71 p = true) :
    execKvapp c p s = macroCmd "KVAPP" 0x71 0x7F c p s (Mod.kvapp c p) := by
  simp only [execKvapp, h, Bool.not_true, Bool.false_eq_true, if_false]

/-- A row of `macroRow` is `macroCmd`, once the heads it names are declared (R293, R294). -/
theorem exec_macroRow (h : macroRow i = some (op, mask, c, p, run))
    (hd : op = 0x70 ∨ op = 0x71 → Mod.headsDeclared s.mod c op p = true) :
    ∃ name r, r false = run ∧ exec i s = macroCmd name op mask c p s r := by
  cases i
  case attn =>
    cases h
    exact ⟨_, _, rfl, execAttn_eq (hd (.inl rfl))⟩
  case kvapp =>
    cases h
    exact ⟨_, _, rfl, execKvapp_eq (hd (.inr rfl))⟩
  case conv | hsend | hrecv | kvpf | sample | verify | smodal | sscan | scell | evsnap =>
    cases h
    exact ⟨_, _, rfl, rfl⟩
  all_goals cases h

end

/-- Settles O12: by `macroCmd_ok` where it issues and `macroCmd_waits` where it does not. -/
theorem macroIssue : Obligations.MacroIssue := by
  unfold Obligations.MacroIssue
  intro s i op mask c p run hrow hd
  obtain ⟨name, r, hr, he⟩ := exec_macroRow hrow hd
  rw [he]
  refine ⟨fun h => ?_, fun hw h => macroCmd_waits r hw h⟩
  rw [macroCmd_ok r h, hr]

/-! ## Attention -/

section
variable {s : State} {c : CoreId} {p : PvisWords} {x : Ctx} {a : AttnDecl} {rows : List (Nat × LenRow)}

/-- A pass whose length table can be read and offends no rule takes its lists (R174, R180). -/
theorem attn_takes {m : Mod} {c : Nat} {po : Bool} (hx : Mod.ctx m (Mod.ctxOf m c) = some x)
    (ha : Mod.attnDecl m x (PvisWords.f p 43 32) = some a) (hrows : Mod.tableRows m c p = .inr (rows, false))
    (hpass : (Mod.core m c).pass = none)
    (hfault : Mod.tableFault m (Mod.ctxOf m c) x a (headsOf 0x70 p) false rows = none) :
    Mod.attn c p po m =
      let rs := rows.map (·.2)
      let m1 := Mod.takePass m c ((rs.flatMap fun r => Mod.rowLists m x a.layer (headsOf 0x70 p) r).map (·.2)) x
      Mod.attnRun m1 c p a (Mod.passLists m1 x a.layer (headsOf 0x70 p) ((Mod.core m1 c).pass.getD []) rs) po := by
  simp only [Mod.attn, hx, ha, hrows, hpass, hfault, Option.isSome_none, Bool.false_eq_true, if_false]

/-- A page of tier 3, 4 or 5 is not in GDDR (R185). -/
theorem away_iff (t : Nat) : (t == 3 || t == 4 || t == 5) = true ↔ t = 3 ∨ t = 4 ∨ t = 5 := by
  simp only [Bool.or_eq_true, beq_iff_eq, or_assoc]

end

/-- Settles O13: the pass is taken, and then runs or waits by where its pages are. -/
theorem attentionPass : Obligations.AttentionPass := by
  unfold Obligations.AttentionPass
  intro s c p x a rows k m hs rs m1 ls need away h hd hx ha hrows hpass hfault
  have hrun : Mod.attn c p false m = Mod.attnRun m1 c p a ls false := attn_takes (by rwa [ctxOf_issued]) ha hrows hpass
    (by rwa [ctxOf_issued])
  refine ⟨fun ps hnone hread => ?runs, fun q hq => ?waits⟩
  case runs =>
    intro y r hf
    have hfind : need.find? (fun q => let t := (Mod.page m1 q).tier; t == 3 || t == 4 || t == 5) = none :=
      List.find?_eq_none.mpr fun q hq => fun ht => hnone q hq ((away_iff _).mp ht)
    show Gives (execAttn c p s) s _
    rw [execAttn_eq hd]
    refine gives_macro_same (Mod.attn c p) h (hrun.trans ?_)
    simp only [Mod.attnRun]
    rw [hfind, hread]
    simp only []
    rw [hf]
    rfl
  case waits =>
    have hfind : need.find? (fun q => let t := (Mod.page m1 q).tier; t == 3 || t == 4 || t == 5) = some q := by
      rw [← hq]
      congr 1
      funext q
      rw [Bool.eq_iff_iff, decide_eq_true_iff]
      exact away_iff _
    show Gives (execAttn c p s) s _
    rw [execAttn_eq hd]
    refine gives_macro_same (Mod.attn c p) h (hrun.trans ?_)
    simp only [Mod.attnRun]
    rw [hfind]

/-! ## Appends and prefetch -/

section
variable {m m1 : Mod} {c : Nat} {p : PvisWords} {x : Ctx} {a : AttnDecl} {rows : List (Nat × LenRow)} {ovf bad po : Bool}

/-- A KVAPP whose table and records pass their checks comes to its appends (R203, R310). -/
theorem kvapp_runs (hx : Mod.ctx m (Mod.ctxOf m c) = some x)
    (ha : Mod.attnDecl m x (PvisWords.f p 43 32) = some a) (hrows : Mod.tableRows m c p = .inr (rows, false))
    (hrecs : PvisWords.f p 31 28 ≠ 0 → x.blk.branchTable ≠ 0 →
      Mod.branchesBad m (Mod.ctxOf m c) x true (rows.map (·.2.branch)) = none)
    (hver : PvisWords.f p 31 28 ≠ 0 → verifyOk x (PvisWords.f p 31 28) (rows.map (·.2)) = true)
    (hfault : Mod.tableFault m (Mod.ctxOf m c) x a (headsOf 0x71 p) true rows = none) :
    Mod.kvapp c p po m = Mod.kvappRun m c p x a (rows.map (·.2)) po := by
  have hrec : (if (decide (PvisWords.f p 31 28 = 0) || decide (x.blk.branchTable = 0)) = true then none
      else Mod.branchesBad m (Mod.ctxOf m c) x true ((rows.map (·.2)).map (·.branch))) = none := by
    by_cases hn : PvisWords.f p 31 28 = 0
    · simp [hn]
    · by_cases hb : x.blk.branchTable = 0
      · simp [hb]
      · simpa [hn, hb, Function.comp_def] using hrecs hn hb
  have hv : ¬ (PvisWords.f p 31 28 != 0 && !verifyOk x (PvisWords.f p 31 28) (rows.map (·.2))) = true := by
    by_cases hn : PvisWords.f p 31 28 = 0
    · simp [hn]
    · simp [hver hn]
  simp only [Mod.kvapp, hx, ha, hrows, hrec, hv, hfault, Bool.false_eq_true, if_false]

end

/-- Settles O14: with `kvapp_runs`, by whether the instruction verifies; KVPF by its run. -/
theorem appendAndPrefetch : Obligations.AppendAndPrefetch := by
  unfold Obligations.AppendAndPrefetch
  intro s c p x rows k m y hx
  have hx' : Mod.ctx m (Mod.ctxOf m c) = some x := by rwa [ctxOf_issued]
  have hk : Mod.ctxOf m c = k := ctxOf_issued s c p c
  refine ⟨fun a m1 ovf bad h hd ha hrows hn hfault happ => ?plain,
    fun a m1 ovf bad h hd ha hrows hn htab hrecs hver hfault happ => ?verifies, fun h hrows => ?prefetch⟩
  case plain =>
    have hrun : Mod.kvapp c p false m = Mod.kvappRun m c p x a (rows.map (·.2)) false :=
      kvapp_runs hx' ha hrows (fun hne => absurd hn hne) (fun hne => absurd hn hne) (by rwa [hk])
    show Gives (execKvapp c p s) s _
    rw [execKvapp_eq hd]
    refine gives_macro_same (Mod.kvapp c p) h (hrun.trans ?_)
    simp only [Mod.kvappRun]
    rw [hk, hn, core_issued]
    simp only [bne_self_eq_false]
    rw [happ]
    rfl
  case verifies =>
    have hrun : Mod.kvapp c p false m = Mod.kvappRun m c p x a (rows.map (·.2)) false :=
      kvapp_runs hx' ha hrows (fun _ _ => by rwa [hk]) (fun _ => hver) (by rwa [hk])
    have hn' : (PvisWords.f p 31 28 != 0) = true := bne_iff_ne.mpr hn
    show Gives (execKvapp c p s) s _
    rw [execKvapp_eq hd]
    refine gives_macro_same (Mod.kvapp c p) h (hrun.trans ?_)
    simp only [Mod.kvappRun]
    rw [hk, hn', core_issued, happ]
    simp only [hn, if_false]
    rfl
  case prefetch =>
    refine gives_macro_same (Mod.kvpf c p) h ?_
    simp only [Mod.kvpf]
    rw [show Mod.ctx (issued s c p) (Mod.ctxOf (issued s c p) c) = some x from hx', core_issued]
    simp only []
    rw [hrows]
    rfl

/-! ## Sampling -/

section
variable {m : Mod} {c : Nat} {p : PvisWords} {po : Bool}

/-- What a sampling instruction leaves once its registers are written (R33, R312). -/
def drawn (m : Mod) (c : Nat) (p : PvisWords) (bad nan : Bool) : Mod :=
  Mod.orCond (Mod.macroPush (Mod.macroPoison m c bad) c p bad) c (condNan nan)

theorem drawn_mem (bad nan : Bool) : (drawn m c p bad nan).mem = m.mem := by
  rw [drawn, orCond_mem, macroPush_mem]
  cases bad <;> rfl

/-- SAMPLE whose logits can be read (R312). -/
theorem sample_reads {ls : List Word} {bad : Bool}
    (h : Mod.objWords m c (PvisWords.x1 p 63 48) ((Mod.core m c).regN (PvisWords.x1 p 47 43))
      (extent16 (Mod.core m c).regs (PvisWords.x1 p 31 16)) = .inr (ls, bad)) :
    Mod.sample c p po m =
      let x := Mod.core m c
      let q := branchDraw (Mod.seed m (Mod.ctxOf m c)) (x.regN (PvisWords.x1 p 37 33)) (x.regN (PvisWords.x1 p 42 38))
      let r := sampleToken (x.reg (fieldRa p)) (x.reg (fieldRb p)) (PvisWords.x1 p 15 0) ls (q.a / 256) m.free
      drawn { setCore m c (x.setReg (fieldRd p) r.1) with free := m.free + 1 } c p (po || bad) r.2 := by
  simp only [Mod.sample, h, Mod.bumpFree, putReg_free, drawn]

/-- What VERIFY works with (R313). -/
def verifyIn (m : Mod) (c : Nat) (p : PvisWords) (x : Ctx) (ls cs qs : List Word) : VerifyIn :=
  let y := Mod.core m c
  let b := y.branchNo (fieldRa p)
  { ratio := PvisWords.f p 43 43 == 1, t := y.reg (fieldRb p), pTop := y.reg (PvisWords.f p 12 8)
    v := extent16 y.regs (PvisWords.x2 p 26 11), seed := Mod.seed m (Mod.ctxOf m c), branch := b
    base := (if b < 4096 then x.branch b else {}).verifyBase, logits := ls, cands := cs, draft := qs, free := m.free }

/-- VERIFY whose logits, candidates and, in ratio mode, draft can be read (R313). -/
theorem verifyRun_reads {x : Ctx} {ls cs qs : List Word} {p1 p2 p3 : Bool} {b v : Nat} {r : BranchRec}
    (hb : b = (Mod.core m c).branchNo (fieldRa p)) (hr : r = if b < 4096 then x.branch b else {})
    (hv : v = extent16 (Mod.core m c).regs (PvisWords.x2 p 26 11))
    (hls : Mod.objWords m c (PvisWords.x1 p 63 48) ((Mod.core m c).regN (PvisWords.x1 p 47 43)) ((r.pending + 1) * v)
      = .inr (ls, p1))
    (hcs : Mod.objWords m c (PvisWords.x2 p 63 48) ((Mod.core m c).regN (PvisWords.x2 p 47 43)) r.pending = .inr (cs, p2))
    (hqs : (if PvisWords.f p 43 43 == 1 then
        Mod.objWords m c (PvisWords.x2 p 42 27) ((Mod.core m c).regN (PvisWords.x2 p 10 6)) (r.pending * v)
      else .inr ([], false)) = .inr (qs, p3)) :
    Mod.verifyRun c p po x m =
      let z := (verifyIn m c p x ls cs qs).run
      drawn { setCore m c (((Mod.core m c).setReg (fieldRd p) (BitVec.ofNat 32 z.1)).setReg (fieldRd p + 1) z.2.1) with
        free := m.free + r.pending + 2 } c p (po || p1 || p2 || p3) z.2.2 := by
  subst hb hr hv
  simp only [Mod.verifyRun, hls, hcs, hqs, putReg_putReg_free, drawn, verifyIn]

end

/-- Settles O15: both read their objects, draw, and write their registers; a mark, a token and condition bits follow. -/
theorem sampleAndVerify : Obligations.SampleAndVerify := by
  unfold Obligations.SampleAndVerify
  intro s c p k m x done
  refine ⟨fun ls bad h hls => ?sample, fun cx ls cs qs p1 p2 p3 h hcx htab => ?verify, fun m1 bad nan => drawn_mem bad nan⟩
  case sample =>
    intro q r
    have hcore : Mod.core m c = x := core_issued s c p
    have hls' : Mod.objWords m c (PvisWords.x1 p 63 48) ((Mod.core m c).regN (PvisWords.x1 p 47 43))
        (extent16 (Mod.core m c).regs (PvisWords.x1 p 31 16)) = .inr (ls, bad) := by rw [hcore]; exact hls
    refine gives_macro_same (Mod.sample c p) h ((sample_reads hls').trans ?_)
    rw [hcore, ctxOf_issued]
    rfl
  case verify =>
    intro b r v ratio hbad hls hcs hqs z
    have hcore : Mod.core m c = x := core_issued s c p
    have hctx : Mod.ctxOf m c = k := ctxOf_issued s c p c
    refine gives_macro_same
      (fun po m => Mod.branchOp c p (fun _ => [(Mod.core m c).branchNo (fieldRa p)]) (Mod.verifyRun c p po) m) h ?_
    simp only []
    rw [branchOp_ok (x := cx) (by rw [hctx]; exact hcx) htab (by rw [hctx, hcore]; exact hbad)]
    refine (verifyRun_reads (b := b) (r := r) (v := v) (ls := ls) (cs := cs) (qs := qs) (by rw [hcore]; rfl) rfl
      (by rw [hcore]) (by rw [hcore]; exact hls) (by rw [hcore]; exact hcs) (by rw [hcore]; exact hqs)).trans ?_
    simp only [verifyIn]
    rw [hcore, hctx]
    rfl

end Sys2Proof.Proofs

/-!
Streams and branches (R141 to R154, R195 to R204, R311, R314): the instructions run on the core that has fetched them, once
the streams or branches they name can be read.
-/
namespace Sys2Proof.Proofs

open Sys2Proof Sys2Proof.Machine Sys2Proof.Claims Sys2Proof.Laws

/-! ## Streams -/

section
variable {s : State} {c : CoreId} {p : PvisWords} {x : Ctx} {op : Nat} {name : String}

/-- The streams of an instruction are named by its job and their entries can be read (R314). -/
structure Streams (s : State) (c : CoreId) (p : PvisWords) (x : Ctx) : Prop where
  ctx : Mod.ctx (issued s c p) (Mod.ctxOf s.mod c) = some x
  named : Mod.jobNames (issued s c p) c (streamsOf (past s c p) p) = true
  entries : Mod.entriesBad (issued s c p) (Mod.ctxOf s.mod c) x
    ((streamsOf (past s c p) p).map fun n => { stream := n }) = none

/-- A stream instruction whose streams are named and readable comes to its run on them. -/
theorem streamMacro_gives {run : Bool → Ctx → List Nat → Mod → Mod} {m1 : Mod} (h : IssuesMacro s c op 0x7F p)
    (able : Streams s c p x) (hr : run false x (streamsOf (past s c p) p) (issued s c p) = m1) :
    Gives (macroCmd name op 0x7F c p s fun po => Mod.streamOp c p (run po)) s m1 := by
  refine gives_macro_same (fun po => Mod.streamOp c p (run po)) h ?_
  rw [streamOp_ok (streamsOf (past s c p) p) (by rw [core_issued]) (by rw [ctxOf_issued]; exact able.ctx) able.named
    (by rw [ctxOf_issued]; exact able.entries)]
  exact hr

end

/-- Settles O16: the three are one update of states, each with its step function (R141). -/
theorem streamUpdates : Obligations.StreamUpdates := by
  unfold Obligations.StreamUpdates
  intro s c p x k m ns ch m0 able done runs first t phase back gru
  have hcore : Mod.core m c = past s c p := core_issued s c p
  have hctx : Mod.ctxOf m c = k := ctxOf_issued s c p c
  refine ⟨fun m1 sat h hable => ?smodal, fun m1 sat h hable => ?sscan, fun m1 sat h hable => ?scell⟩
  all_goals
    obtain ⟨hx, hnamed, hentries⟩ := hable
    intro r bad hfault hout
    refine streamMacro_gives (m1 := done r m1 sat _ bad) h ⟨hx, hnamed, hentries⟩ ?_
  case smodal =>
    simp only [Mod.smodal, Bool.false_or]
    rw [hcore, hctx]
    exact streamDone_ok _ _ _ _ _ _ _ _ hfault hout
  case sscan =>
    simp only [Mod.sscan, Bool.false_or]
    rw [hcore, hctx]
    exact streamDone_ok _ _ _ _ _ _ _ _ hfault hout
  case scell =>
    simp only [Mod.scell, Bool.false_or]
    rw [hcore, hctx]
    exact streamDone_ok _ _ _ _ _ _ _ _ hfault hout

section
variable {α : Type} {m m1 : Mod} {c : Nat} {p : PvisWords} {ns : List Nat}

/-- A change of stream entries leaves the cores, and so the steps that a reset drops are the job's (R143). -/
theorem resetNow_fold {f : Mod → α → Mod} (hf : ∀ m a, (f m a).cores = m.cores) (l : List α)
    (h : Mod.applyResets (l.foldl f m) (Mod.ctxOf m c) ns = (m1, none)) :
    Mod.resetNow (l.foldl f m) c p ns = Mod.modFlight m1 (Mod.core m c).job fun f =>
      { f with steps := ns.foldl (fun t n => sset 0 t n 0) f.steps } := by
  have hcore : Mod.core (l.foldl f m) c = Mod.core m c := core_of_cores (cores_fold f hf l m) c
  have hctx : Mod.ctxOf (l.foldl f m) c = Mod.ctxOf m c := by simp only [Mod.ctxOf, hcore]
  rw [resetNow_ok (by rw [hctx]; exact h), hcore]

end

/-- Settles O17: both mark their streams and reset them at once. -/
theorem streamResets : Obligations.StreamResets := by
  unfold Obligations.StreamResets
  intro s c p x m1 k m ns as done able
  have hcore : Mod.core m c = past s c p := core_issued s c p
  have hctx : Mod.ctxOf m c = k := ctxOf_issued s c p c
  refine ⟨fun h ⟨hx, hnamed, hentries⟩ hreset => ?sreset,
    fun h ⟨hx, hnamed, hentries⟩ haligned hreset => ?sanchor⟩
  case sreset =>
    refine streamMacro_gives (m1 := done) (run := fun _ _ ns m => Mod.resetNow
      (ns.foldl (fun x n => Mod.modStream x (Mod.ctxOf m c) n fun e => { e with reset := true }) m) c p ns)
      h ⟨hx, hnamed, hentries⟩ ?_
    rw [resetNow_fold, core_issued]
    · exact fun _ _ => rfl
    · rw [ctxOf_issued]
      exact hreset
  case sanchor =>
    have hal : ¬ (as.any fun a => a.2 % 64 != 0) = true := by
      simp only [List.any_eq_true, bne_iff_ne, ne_eq, not_exists, not_and, Decidable.not_not]
      exact haligned
    refine streamMacro_gives (m1 := done) h ⟨hx, hnamed, hentries⟩ ?_
    rw [if_neg hal, resetNow_fold, core_issued]
    · exact fun _ _ => rfl
    · rw [ctxOf_issued]
      exact hreset

/-! ## Branches -/

section
variable {m : Mod} {k : Nat} {x : Ctx}

theorem keeps_forkList (pBlock cBlock n key : Nat) : Keeps k m (Mod.forkList m k x pBlock cBlock n key) :=
  (keeps_onEntries _ _ _).trans (keeps_setList _ _ _ _)

/-- A context after a change of one of its branch records. -/
theorem ctx_modBranch (h : Mod.ctx m k = some x) (b : Nat) (f : BranchRec → BranchRec) :
    Mod.ctx (Mod.modBranch m k b f) k = some { x with branches := smod {} x.branches b f } := by
  rw [Mod.modBranch, ctx_modCtx, h, Option.map_some]

theorem branchState_of_lt {b : Nat} (hb : b < 4096) : x.branchState b = (x.branch b).state := if_pos hb

end

/-- The child's record after a fork (R192, R195). -/
def forked (d r : BranchRec) (parent n : Nat) : BranchRec :=
  { d with
    state := 1, parent := parent, sequence := r.sequence, length := n, forkPosition := n, children := 0
    generation := (d.generation + 1) % 65536, pending := 0, verifyBase := 0 }

/-- A fork that no rule refuses (R195, R196). -/
theorem fork_facts {m : Mod} {c parent child n : Nat} {x : Ctx} (hx : Mod.ctx m (Mod.ctxOf m c) = some x)
    (hchild : child < 4096) (hparent : parent < 4096) (hn : n ≠ 0) (hd : (x.branch child).state = 0)
    (hr : (x.branch parent).state = 1)
    (hkeys : ∀ key ∈ x.listsOf (x.branch parent).listBlock, n ≤ (x.list key).length ∧ (x.list key).ring = false ∧
      (cutEntries n (x.list key).entries).length
        ≤ (x.list (childKey (x.branch parent).listBlock (x.branch child).listBlock key)).capacity) :
    ∃ x', Mod.ctx (Mod.fork c parent child n x m) (Mod.ctxOf m c) = some x' ∧ (Mod.fork c parent child n x m).mem = m.mem
      ∧ x'.branch child = forked (x.branch child) (x.branch parent) parent n
      ∧ x'.branch parent = { x.branch parent with children := (x.branch parent).children + 1 }
      ∧ (∀ b, b ≠ child → b ≠ parent → x'.branch b = x.branch b) := by
  have hne : parent ≠ child := fun e => by rw [e, hd] at hr; exact absurd hr (by decide)
  have hshort : ((x.listsOf (x.branch parent).listBlock).any fun key =>
      decide ((x.list key).length < n) || (x.list key).ring) = false := by
    simp only [List.any_eq_false, Bool.or_eq_true, decide_eq_true_eq, not_or]
    intro key hkey
    obtain ⟨hlen, hring, _⟩ := hkeys key hkey
    exact ⟨Nat.not_lt.mpr hlen, by simp [hring]⟩
  have hroom : ((x.listsOf (x.branch parent).listBlock).any fun key =>
      decide ((x.list (childKey (x.branch parent).listBlock (x.branch child).listBlock key)).capacity
        < (cutEntries n (x.list key).entries).length)) = false := by
    simp only [List.any_eq_false, decide_eq_true_eq]
    intro key hkey
    obtain ⟨_, _, hcap⟩ := hkeys key hkey
    exact Nat.not_lt.mpr hcap
  obtain ⟨hmem, hctx⟩ := keeps_fold (Mod.ctxOf m c) (fun y key => Mod.forkList y (Mod.ctxOf m c) x
    (x.branch parent).listBlock (x.branch child).listBlock n key) (fun _ _ => keeps_forkList _ _ _ _)
    (x.listsOf (x.branch parent).listBlock) m
  obtain ⟨x1, hx1, hbranches⟩ := hctx x hx
  have hsame (b : Nat) : x1.branch b = x.branch b := by simp only [Ctx.branch, hbranches]
  have hn' : (n == 0) = false := beq_eq_false_iff_ne.mpr hn
  have hfork : Mod.fork c parent child n x m = Mod.modBranch (Mod.modBranch
      ((x.listsOf (x.branch parent).listBlock).foldl (fun y key => Mod.forkList y (Mod.ctxOf m c) x
        (x.branch parent).listBlock (x.branch child).listBlock n key) m) (Mod.ctxOf m c) child
        fun d => forked d (x.branch parent) parent n)
      (Mod.ctxOf m c) parent fun r => { r with children := r.children + 1 } := by
    simp only [Mod.fork, hchild, branchState_of_lt hchild, branchState_of_lt hparent, hd, hr, hn', hshort, hroom,
      decide_true, Bool.not_true, bne_self_eq_false, Bool.or_false, Bool.false_eq_true, if_false, forked]
  rw [hfork]
  refine ⟨_, ctx_modBranch (ctx_modBranch hx1 _ _) _ _, hmem, ?_, ?_, fun b hb hb' => ?_⟩
  · rw [branch_set, if_neg hne.symm, branch_set, if_pos rfl, hsame]
  · rw [branch_set, if_pos rfl, branch_set, if_neg hne, hsame]
  · rw [branch_set, if_neg hb', branch_set, if_neg hb, hsame]

/-- Settles O18: with `fork_facts`, on the core that has fetched the instruction. -/
theorem branchFork : Obligations.BranchFork := by
  unfold Obligations.BranchFork
  intro s c p x k y parent child at_ r d keys h hx htab hchild hparent hat hbad hd hr hkeys
  have hctx : Mod.ctxOf (issued s c p) c = k := ctxOf_issued s c p c
  have hx' : Mod.ctx (issued s c p) (Mod.ctxOf (issued s c p) c) = some x := by rw [hctx]; exact hx
  obtain ⟨x', hx1, hmem, hfacts⟩ := fork_facts hx' hchild hparent hat hd hr hkeys
  have hfilter : ([child, parent].filter (· < 4096)) = [child, parent] := by
    simp only [List.filter, hchild, hparent, decide_true]
  have hrun : Gives (exec (.bfork c p) s) s (Mod.fork c parent child at_ x (issued s c p)) := by
    refine gives_cmd_same id (fun m => Mod.branchOp c p (fun y => [y.branchNo (fieldRa p), y.branchNo (fieldRd p)])
      (Mod.fork c ((Mod.core m c).branchNo (fieldRd p)) ((Mod.core m c).branchNo (fieldRa p))
        ((Mod.core m c).regN (fieldRb p))) m) h ?_
    show Mod.branchOp c p _ _ (issued s c p) = _
    rw [core_setCore, branchOp_ok hx' htab]
    · rfl
    rw [core_issued, hctx]
    exact (congrArg _ hfilter).trans hbad
  obtain ⟨a, b, e⟩ := hrun
  exact ⟨_, x', e, by rw [← hctx]; exact hx1, hmem, hfacts⟩

section
variable {m : Mod} {c b : Nat} {prune : Bool} {x : Ctx}

/-- A kill at once or one that waits, by the jobs that name its branches (R195, R198). -/
theorem killOp_eq (hb : x.branchState b ≠ 0) : Mod.killOp c b prune x m =
    let k := Mod.ctxOf m c
    let bs := x.removed prune b
    let js := Mod.killJobs m k (Mod.core m c).job bs
    if js = [] then bs.foldl (Mod.killBranch k) m
    else Mod.modCore (Mod.modCtx m k fun z => { z with kills := z.kills ++ [⟨b, prune, c, (Mod.core m c).job, bs, js⟩] }) c
      fun z => { z with wait := .kill b } := by
  simp only [Mod.killOp, hb, if_false, List.isEmpty_iff]

end

/-- Settles O19: a kill goes by the jobs it has to wait for, a commit by the branch's state. -/
theorem branchEnds : Obligations.BranchEnds := by
  unfold Obligations.BranchEnds
  intro s c p x k y m b able kills
  have hcore : Mod.core m c = y := core_issued s c p
  have hctx : Mod.ctxOf m c = k := ctxOf_issued s c p c
  refine ⟨fun h hable hb => ?bkill, fun h hable hb => ?bprune, fun j z w n hz hfind hjobs hwait hjob => ?done,
    fun h hable hstate hle => ?bcommit⟩
  case bkill =>
    obtain ⟨hx, htab, hbad⟩ := hable
    have hop := killOp_eq (m := m) (c := c) (prune := false) hb
    simp only [hcore, hctx] at hop
    exact ⟨fun hjs => killOp_gives false h hx htab hbad rfl (hop.trans (if_pos hjs)),
      fun hjs => killOp_gives false h hx htab hbad rfl (hop.trans (if_neg hjs))⟩
  case bprune =>
    obtain ⟨hx, htab, hbad⟩ := hable
    have hop := killOp_eq (m := m) (c := c) (prune := true) hb
    simp only [hcore, hctx] at hop
    exact ⟨fun hjs => killOp_gives true h hx htab hbad rfl (hop.trans (if_pos hjs)),
      fun hjs => killOp_gives true h hx htab hbad rfl (hop.trans (if_neg hjs))⟩
  case done =>
    have hnone : (w.jobs.any fun i => (Mod.flight s.mod i).isSome) = false := by
      simp only [List.any_eq_false]
      intro i hi
      rw [hjobs i hi]
      decide
    refine gives_same ?_
    simp only [Mod.killWaitDone, hz, hfind, hnone, hwait, hjob, bne_self_eq_false, Bool.or_false, Bool.false_eq_true,
      if_false]
  case bcommit =>
    obtain ⟨hx, htab, hbad⟩ := hable
    refine gives_cmd_same id (fun m => Mod.branchOp c p (fun y => [y.branchNo (fieldRd p)])
      (Mod.commit c ((Mod.core m c).branchNo (fieldRd p)) ((Mod.core m c).regN (fieldRa p))) m) h ?_
    show Mod.branchOp c p _ _ m = _
    have hgood : ¬ (x.branchState b != 2 || decide ((x.branch b).pending < y.regN (PvisWords.f p 28 24))) = true := by
      rw [hstate, decide_eq_false (Nat.not_lt.mpr hle)]
      decide
    rw [core_setCore, branchOp_ok (by rw [hctx]; exact hx) htab (by rw [hcore, hctx]; exact hbad)]
    simp only [Mod.commit]
    rw [hctx]
    exact if_neg hgood

end Sys2Proof.Proofs

/-!
Convolution (R116, R126, R134, R304 to R306): LBDECL, CONV and the halo exchange on the core that has fetched them.
-/
namespace Sys2Proof.Proofs

open Sys2Proof Sys2Proof.Machine Sys2Proof.Claims Sys2Proof.Laws

section
variable {m : Mod} {c : Nat} {p : PvisWords}

/-- The line buffer an LBDECL declares (R116, R304). -/
def declared (y : Core) (p : PvisWords) : LineBuf :=
  { valid := true, baseLine := PvisWords.f p 41 32, slots := PvisWords.f p 31 25, pixels := PvisWords.f p 24 16 + 1
    blocks := PvisWords.f p 14 9 + 1
    firstCol := if PvisWords.x1 p 63 63 = 1 then signed 32 (y.reg (PvisWords.x1 p 62 58)).toNat
      else signed 17 (PvisWords.x1 p 16 0)
    scale := PvisWords.f p 8 8 == 1 }

theorem core_lbdecl : Mod.core (Mod.lbdecl c p m) c = { Mod.core m c with
    lineBufs := sset {} (Mod.core m c).lineBufs (PvisWords.f p 43 42) (declared (Mod.core m c) p)
    rowTags := (Mod.core m c).rowTags.filter fun t => t.1 / 64 != PvisWords.f p 43 42 } :=
  core_modCore_same _ _ _

/-- The words of the GATE that follows a CONV as its gate stage are passed (R305). -/
def pastGate (m : Mod) (c : Nat) (gate : Option PvisWords) : Mod :=
  match gate with
  | some g => Mod.modCore m c fun y => Core.fetched y g
  | none => m

/-- A CONV whose output has no rows or columns (R126). -/
theorem conv_empty {po : Bool} (h : (convShape (Mod.core m c) p).outH = 0 ∨ (convShape (Mod.core m c) p).outW = 0) :
    Mod.conv c p po m = pastGate (Mod.macroPush (Mod.zeroOut c m) c p po) c (Mod.nextGate m c) := by
  simp only [Mod.conv]
  exact if_pos h

/-- A CONV whose filter can be read and whose rows are all done (R112, R305). -/
theorem conv_done {a : ConvShape} {b : LineBuf} {rd : Nat → Byte} {fpo po : Bool} {m1 : Mod} {cond : Nat}
    (ha : convShape (Mod.core m c) p = a) (hb : sget {} (Mod.core m c).lineBufs a.lb = b)
    (hH : a.outH ≠ 0) (hW : a.outW ≠ 0) (hvalid : b.valid = true)
    (hlines : Mod.linesOk m c b.baseLine (b.slots * b.slotLines) true = true)
    (hfilter : Mod.filterOf m c (Mod.ctxOf m c) a = .inr (rd, fpo))
    (hrows : Mod.convRows m c (Mod.ctxOf m c) a rd (Mod.nextGate m c) 0 fpo a.rows 0 = .done m1 cond po) :
    Mod.conv c p false m = pastGate
      (Mod.macroPoison (Mod.macroPush (Mod.orCond m1 c (cond ||| 512 * b2n a.periodic)) c p po) c po) c
      (Mod.nextGate m c) := by
  have hsize : ¬ (a.outH = 0 ∨ a.outW = 0) := fun h => h.elim hH hW
  simp only [Mod.conv, ha, hb, hsize, hvalid, hlines, hfilter, Bool.false_or, hrows, Bool.not_true, Bool.or_self,
    Bool.false_eq_true, if_false]
  rfl

/-- HSEND or HRECV whose slot's flag has its value runs (R134). -/
theorem haloRun_runs {h : Halo} {v : Nat} {recv : Bool} {m1 : Mod}
    (hhalo : Mod.halo m (Mod.ctxOf m c) (PvisWords.x1 p 63 48) = some h) (hrecv : (PvisWords.op p == 0x54) = recv)
    (hv : v = if sget false (Mod.core m c).haloNext (PvisWords.x1 p 63 48) then h.flagB else h.flagA)
    (hflag : Mod.haloFlag m c (Mod.ctxOf m c) (PvisWords.x1 p 63 48) v recv = recv)
    (hrun : (if recv then Mod.haloRecv m c p else Mod.haloSend m c p) = (m1, true)) : Mod.haloRun c p m = m1 := by
  subst hv
  simp only [Mod.haloRun, hhalo, hrecv, hflag, hrun, if_true]

/-- HSEND or HRECV whose slot's flag has not its value registers the wait (R134). -/
theorem haloRun_waits {h : Halo} {v : Nat} {recv : Bool}
    (hhalo : Mod.halo m (Mod.ctxOf m c) (PvisWords.x1 p 63 48) = some h) (hrecv : (PvisWords.op p == 0x54) = recv)
    (hv : v = if sget false (Mod.core m c).haloNext (PvisWords.x1 p 63 48) then h.flagB else h.flagA)
    (hflag : Mod.haloFlag m c (Mod.ctxOf m c) (PvisWords.x1 p 63 48) v recv = !recv) :
    ∃ a b, Mod.haloRun c p m =
      tallied (Mod.modCore m c fun y => { y with wait := .halo v recv (PvisWords.op p) p }) a b := by
  subst hv
  have hne : ¬ (!recv) = recv := by cases recv <;> decide
  simp only [Mod.haloRun, hhalo, hrecv, hflag, hne, if_false]
  exact visor_tallied _ _ _ _

end

/-- Settles O20: by the shape of the output for CONV, and by the slot's flag for the halo exchange. -/
theorem convolutionInstructions : Obligations.ConvolutionInstructions := by
  unfold Obligations.ConvolutionInstructions
  intro s c p k y m lb
  have hcore : Mod.core m c = y := core_issued s c p
  have hctx : Mod.ctxOf m c = k := ctxOf_issued s c p c
  refine ⟨fun h => ?lbdecl, fun h => ?conv, fun h hh => ?halo⟩
  case lbdecl =>
    intro first
    obtain ⟨a, b, e⟩ : Gives (exec (.lbdecl c p) s) s (Mod.lbdecl c p m) :=
      gives_cmd_same (Mod.zeroOut c) (Mod.lbdecl c p) h rfl
    have hafter : Mod.core (tallied (Mod.lbdecl c p m) a b) c = _ := core_lbdecl
    rw [hcore] at hafter
    refine ⟨_, e, ?_, fun q hq => ?_, fun j hj => ?_, rfl⟩
    · rw [hafter, sget_sset_same]
      rfl
    · rw [hafter] at hq
      exact bne_iff_ne.mp (List.mem_filter.mp hq).2
    · rw [hafter, sget_sset_ne _ _ _ hj]
  case conv =>
    intro a b after
    have hshape : convShape (Mod.core m c) p = a := by rw [hcore]
    refine ⟨fun hsize => ?empty, fun rd fpo m1 cond po hH hW hvalid hlines hfilter hrows => ?done⟩
    case empty => exact gives_macro_same (Mod.conv c p) h (conv_empty (by rw [hshape]; exact hsize))
    case done =>
      exact gives_macro_same (Mod.conv c p) h (conv_done hshape (by rw [hcore]) hH hW hvalid hlines
        (by rw [hctx]; exact hfilter) (by rw [hctx]; exact hrows))
  case halo =>
    intro slot v flag
    have hhalo : Mod.halo m (Mod.ctxOf m c) (PvisWords.x1 p 63 48) = some h := by rw [hctx]; exact hh
    have hv : v = if sget false (Mod.core m c).haloNext (PvisWords.x1 p 63 48) then h.flagB else h.flagA := by rw [hcore]
    have hflag (b : Bool) : Mod.haloFlag m c (Mod.ctxOf m c) (PvisWords.x1 p 63 48) v b = flag b := by rw [hctx]
    have hop {n : Nat} (h : Issues s c n p) : PvisWords.op p = n := pvisIs_op h.words
    have hset (w : CoreWait) : (Mod.modCore m c fun z => { z with wait := w }) = setCore m c { y with wait := w } := by
      rw [setCore_modCore, hcore]
    refine ⟨fun m1 hi hf hrun => ?_, fun hi hf => ?_, fun m1 hi hf hrun => ?_, fun hi hf => ?_⟩
    · exact gives_macro_same (fun _ => Mod.haloRun c p) hi
        (haloRun_runs (recv := false) hhalo (by rw [hop hi.toIssues]; rfl) hv ((hflag _).trans hf) hrun)
    · refine gives_macro (fun _ => Mod.haloRun c p) hi ?_
      have := haloRun_waits (recv := false) hhalo (by rw [hop hi.toIssues]; rfl) hv ((hflag _).trans hf)
      rwa [hop hi.toIssues, hset] at this
    · exact gives_macro_same (fun _ => Mod.haloRun c p) hi
        (haloRun_runs (recv := true) hhalo (by rw [hop hi.toIssues]; rfl) hv ((hflag _).trans hf) hrun)
    · refine gives_macro (fun _ => Mod.haloRun c p) hi ?_
      have := haloRun_waits (recv := true) hhalo (by rw [hop hi.toIssues]; rfl) hv ((hflag _).trans hf)
      rwa [hop hi.toIssues, hset] at this

end Sys2Proof.Proofs

/-!
Rings (R345 to R358, R361, R370 to R376, R517 to R520, R524): fetching, records, ring control, the host link.
-/
namespace Sys2Proof.Proofs

open Sys2Proof Sys2Proof.Machine Sys2Proof.Claims Sys2Proof.Laws

/-! ## Descriptor fetching -/

section
variable {m : Mod} {policy : Word} {n : Nat} {d : BitVec 512}

/-- What is counted, reserved and remembered of a descriptor that is taken (R357). -/
theorem accept_facts : (Mod.sq (Mod.accept m policy n d) n).fetched = (Mod.sq m n).fetched + 1
    ∧ (Mod.cq (Mod.accept m policy n d) (Mod.sq m n).cqNum).reserved = (Mod.cq m (Mod.sq m n).cqNum).reserved + 1
    ∧ (Mod.accept m policy n d).host.flights
      = m.host.flights ++ [{ id := m.host.nextId, ring := n, raw := d, policy := policy }]
    ∧ (Mod.accept m policy n d).mem = m.mem ∧ (Mod.accept m policy n d).ctxs = m.ctxs
    ∧ (Mod.accept m policy n d).cores = m.cores := by
  have hsq : Mod.sq (Mod.accept m policy n d) n = { Mod.sq m n with fetched := (Mod.sq m n).fetched + 1 } :=
    sq_setSq_same m n _
  have hcq : Mod.cq (Mod.accept m policy n d) (Mod.sq m n).cqNum
      = { Mod.cq m (Mod.sq m n).cqNum with reserved := (Mod.cq m (Mod.sq m n).cqNum).reserved + 1 } :=
    cq_setCq_same (Mod.setSq m n { Mod.sq m n with fetched := (Mod.sq m n).fetched + 1 }) _ _
  exact ⟨by rw [hsq], by rw [hcq], rfl, rfl, rfl, rfl⟩

/-- A descriptor that the walker may fetch (R357, R361, R375). -/
theorem fetch_granted (hf : Mod.fetchable m n = true) (hg : Mod.granted m n = true) : Mod.fetch m policy n d true =
    if m.sys.failing && descKind d != 0x0E && descKind d != 0x0D then
      Mod.endFlight (Mod.accept m policy n d) m.host.nextId .deviceFailing 0 0
    else if !Mod.descValid m d then Mod.endFlight (Mod.accept m policy n d) m.host.nextId .descriptorInvalid 0 0
    else Mod.accept m policy n d := by
  simp only [Mod.fetch, hf, hg, Bool.and_self, Bool.not_true, Bool.false_eq_true, if_false]

end

/-- Settles O24: by the state of the link and of the module, and by the descriptor's checks. -/
theorem descriptorFetching : Obligations.DescriptorFetching := by
  unfold Obligations.DescriptorFetching
  intro s n d q m1 hf hg
  have hfetch := fetch_granted (policy := s.mgt.policy) (d := d) hf hg
  refine ⟨accept_facts, fun hup hvalid => ?valid, fun hup hvalid => ?invalid, fun hfail hq ha => ?failing, ?linkError⟩
  case valid =>
    refine gives_same (hfetch.trans ?_)
    simp only [hup, hvalid, Bool.false_and, Bool.not_true, Bool.false_eq_true, if_false, m1]
  case invalid =>
    refine gives_same (hfetch.trans ?_)
    simp only [hup, hvalid, Bool.false_and, Bool.not_false, Bool.false_eq_true, if_false, if_true, m1]
  case failing =>
    refine gives_same (hfetch.trans ?_)
    simp only [hfail, bne_iff_ne.mpr hq, bne_iff_ne.mpr ha, Bool.and_self, if_true, m1]
  case linkError =>
    refine gives_same ?_
    simp only [Mod.fetch, hf, hg, Bool.and_self, Bool.not_true, Bool.not_false, Bool.false_eq_true, if_false, if_true]
    rfl

/-! ## Completion records -/

/-- The fields of a completion record at their offsets (R370). -/
theorem record_fields (tag status kind ring ctx sqHead detail progress time : Nat) (phase : Bool) :
    let r := recordBytes tag status kind ring ctx sqHead detail progress time phase
    r.length = 32 ∧ at_ r 0x00 4 = tag % 2 ^ 32 ∧ at_ r 0x04 1 = status % 256 ∧ at_ r 0x05 1 = kind % 256
      ∧ at_ r 0x06 1 = ring % 256 ∧ at_ r 0x07 1 = ctx % 256 ∧ at_ r 0x08 4 = sqHead % 2 ^ 32
      ∧ at_ r 0x0C 4 = detail % 2 ^ 32 ∧ at_ r 0x10 8 = progress % 2 ^ 64 ∧ at_ r 0x18 7 = time % 2 ^ 56
      ∧ at_ r 0x1F 1 = 128 * b2n phase := by
  simp only [recordBytes, List.append_assoc]
  refine ⟨?_, at_here _ _ _, ?_, ?_, ?_, ?_, ?_, ?_, ?_, ?_, ?_⟩
  · simp only [List.length_append, leBytes_length]
  · rw [at_skip _ _ _ _ _ (by decide)]
    exact at_here _ _ _
  · iterate 2 rw [at_skip _ _ _ _ _ (by decide)]
    exact at_here _ _ _
  · iterate 3 rw [at_skip _ _ _ _ _ (by decide)]
    exact at_here _ _ _
  · iterate 4 rw [at_skip _ _ _ _ _ (by decide)]
    exact at_here _ _ _
  · iterate 5 rw [at_skip _ _ _ _ _ (by decide)]
    exact at_here _ _ _
  · iterate 6 rw [at_skip _ _ _ _ _ (by decide)]
    exact at_here _ _ _
  · iterate 7 rw [at_skip _ _ _ _ _ (by decide)]
    exact at_here _ _ _
  · iterate 8 rw [at_skip _ _ _ _ _ (by decide)]
    exact at_here _ _ _
  · iterate 9 rw [at_skip _ _ _ _ _ (by decide)]
    rw [at_last]
    cases phase <;> rfl

/-- Settles O25: by `Mod.postRecord`'s one write, and by the checks on a head record and a timer. -/
theorem completionRings : Obligations.CompletionRings := by
  unfold Obligations.CompletionRings
  intro s n q
  refine ⟨fun m rec => ?post, fun tag st kind ring ctx head detail progress time phase => ?length,
    fun count hup hen hfull hrange => ?taken, fun count hrange => ?passed, fun hen htime hsince => ?timer⟩
  case post =>
    intro x m1
    have hcq : Mod.cq m1 n = { x with
        posted := x.posted + 1
        phase := if x.posted.toNat % x.size + 1 = x.size then !x.phase else x.phase
        sinceMsg := x.sinceMsg + 1 } := cq_setCq_same _ _ _
    obtain ⟨hmem, _, hposted, _⟩ := postRecord_facts m n rec
    exact ⟨hmem, hposted, by rw [hcq], fun j hj => cq_setCq_ne _ _ hj, rfl⟩
  case length => exact (record_fields tag st kind ring ctx head detail progress time phase).1
  case taken =>
    refine gives_same ?_
    have htakes : headTakes (Mod.cq s.mod n).head.toNat (Mod.cq s.mod n).posted.toNat count.toNat = true :=
      decide_eq_true hrange
    simp only [Mod.headPoll, hup, htakes]
    exact if_pos (by rw [show (Mod.cq s.mod n).enabled = true from hen, show (Mod.cq s.mod n).free = 0 from hfull]; rfl)
  case passed =>
    refine gives_same ?_
    have htakes : headTakes (Mod.cq s.mod n).head.toNat (Mod.cq s.mod n).posted.toNat count.toNat = false :=
      decide_eq_false (Nat.not_le.mpr hrange)
    simp only [Mod.headPoll, htakes, Bool.and_false, Bool.false_eq_true, if_false]
  case timer =>
    refine gives_same ?_
    simp only [Mod.coalTimer]
    exact if_pos (by
      rw [show (Mod.cq s.mod n).enabled = true from hen, bne_iff_ne.mpr htime, bne_iff_ne.mpr hsince]; rfl)

/-! ## The end of a descriptor -/

section
variable {m : Mod} {fl : Flight} {st : Status} {progress detail : Nat}

/-- The completion record of a flight (R370). -/
def recordOf (m : Mod) (fl : Flight) (st : Status) (progress detail : Nat) : Bool → List Byte :=
  recordBytes (descTag fl.raw) st.code (descKind fl.raw) fl.ring (descCtx fl.raw) (Mod.sq m fl.ring).fetched.toNat detail
    progress m.sys.timer.toNat

/-- The record is written, the flight dropped and its reserved slot given back (R357, R370). -/
theorem postFlight_facts : (Mod.postFlight m fl st progress detail).mem = (Mod.hostWrite m
      ((Mod.cq m (Mod.sq m fl.ring).cqNum).base.toNat + 32 * ((Mod.cq m (Mod.sq m fl.ring).cqNum).posted.toNat %
        (Mod.cq m (Mod.sq m fl.ring).cqNum).size))
      (recordOf m fl st progress detail (Mod.cq m (Mod.sq m fl.ring).cqNum).phase) false).mem
    ∧ (Mod.postFlight m fl st progress detail).host.flights = m.host.flights.filter (·.id != fl.id)
    ∧ (Mod.cq (Mod.postFlight m fl st progress detail) (Mod.sq m fl.ring).cqNum).posted
      = (Mod.cq m (Mod.sq m fl.ring).cqNum).posted + 1
    ∧ (Mod.cq (Mod.postFlight m fl st progress detail) (Mod.sq m fl.ring).cqNum).reserved
      = (Mod.cq m (Mod.sq m fl.ring).cqNum).reserved - 1 := by
  obtain ⟨hmem, hflights, hposted, hreserved⟩ := postRecord_facts
    (Mod.onHost m fun h => { h with flights := h.flights.filter (·.id != fl.id) }) (Mod.sq m fl.ring).cqNum
    (recordOf m fl st progress detail)
  simp only [Mod.postFlight]
  obtain ⟨hmem', hflights', hposted', hreserved'⟩ := coalesce_facts (Mod.setCq (Mod.postRecord
      (Mod.onHost m fun h => { h with flights := h.flights.filter (·.id != fl.id) }) (Mod.sq m fl.ring).cqNum
      (recordOf m fl st progress detail)) (Mod.sq m fl.ring).cqNum
    { Mod.cq (Mod.postRecord (Mod.onHost m fun h => { h with flights := h.flights.filter (·.id != fl.id) })
        (Mod.sq m fl.ring).cqNum (recordOf m fl st progress detail)) (Mod.sq m fl.ring).cqNum with
      reserved := (Mod.cq (Mod.postRecord (Mod.onHost m fun h => { h with flights := h.flights.filter (·.id != fl.id) })
        (Mod.sq m fl.ring).cqNum (recordOf m fl st progress detail)) (Mod.sq m fl.ring).cqNum).reserved - 1 })
    (Mod.sq m fl.ring).cqNum (bitAt fl.raw.toNat 8)
  rw [cq_setCq_same] at hposted' hreserved'
  exact ⟨hmem'.trans hmem, hflights'.trans hflights, hposted'.trans hposted, hreserved'.trans (by rw [hreserved]; rfl)⟩

/-- A descriptor that no ABORT waits for ends with its one record (R378). -/
theorem endFlight_alone (h : Mod.flight m fl.id = some fl) (hnone : ∀ f ∈ m.host.flights, f.waitsFor.contains fl.id = false) :
    Mod.endFlight m fl.id st progress detail = Mod.postFlight m fl st progress detail := by
  obtain ⟨_, hflights, _⟩ := postFlight_facts (m := m) (fl := fl) (st := st) (progress := progress) (detail := detail)
  simp only [Mod.endFlight, h]
  refine postAborts_none _ _ _ fun f hf => hnone f ?_
  rw [hflights] at hf
  exact (List.mem_filter.mp hf).1

end

/-- Settles O28: the fields by their offsets, the end of a descriptor by its one record. -/
theorem completionRecord : Obligations.CompletionRecord := by
  unfold Obligations.CompletionRecord
  refine ⟨record_fields, fun m fl st progress detail h hnone => ?_⟩
  intro q c rec_ m1
  rw [show m1 = Mod.postFlight m fl st progress detail from endFlight_alone h hnone]
  exact postFlight_facts

/-! ## Ring control -/

/-- Settles O26: each write by whether its ring is enabled and by the bit it writes. -/
theorem ringControlWrites : Obligations.RingControlWrites := by
  unfold Obligations.RingControlWrites
  intro s n v w hready q c able fields cfields f
  refine ⟨fun hen hbit hable => ?sqEnable, fun hen hnot => ?sqStays, fun hen hbit => ?sqDisable, fun hen hbit => ?sqKept,
    fun hen hbit => ?cqEnable, fun hen hbit hused hres => ?cqDisable, fun hen hnot => ?cqKept, fun hold hused => ?control,
    fun hen hbit => ?faultEnable, fun hen hbit => ?faultDisable⟩
  case sqEnable =>
    refine onReg_gives hready ?_
    obtain ⟨hc, hev⟩ := hable
    simp only [Mod.writeSqCtrl, show (Mod.sq s.mod n).enabled = false from hen, hbit, hc, bne_iff_ne.mpr hev,
      Bool.and_self, Bool.false_eq_true, if_false, if_true]
    rfl
  case sqStays =>
    refine onReg_gives hready ?_
    have hno : ¬ (bitAt v.toNat 0 && ((Mod.cq s.mod (fld v.toNat 13 8)).enabled
        && Mod.eventRing s.mod != some (fld v.toNat 13 8))) = true := by
      rw [Bool.and_eq_true, Bool.and_eq_true, bne_iff_ne]
      rintro ⟨hbit, hable⟩
      rcases hnot with hbit' | hnot
      · rw [hbit] at hbit'; cases hbit'
      · exact hnot hable
    simp only [Mod.writeSqCtrl, show (Mod.sq s.mod n).enabled = false from hen, Bool.false_eq_true, if_false]
    exact if_neg hno
  case sqDisable =>
    refine onReg_gives hready ?_
    simp only [Mod.writeSqCtrl, show (Mod.sq s.mod n).enabled = true from hen, hbit, Bool.false_eq_true, if_false, if_true]
    rfl
  case sqKept =>
    refine onReg_gives hready ?_
    simp only [Mod.writeSqCtrl, show (Mod.sq s.mod n).enabled = true from hen, hbit, if_true]
  case cqEnable =>
    refine onReg_gives hready ?_
    simp only [Mod.writeCqCtrl, show (Mod.cq s.mod n).enabled = false from hen, hbit, Bool.false_eq_true, if_false, if_true]
    rfl
  case cqDisable =>
    refine onReg_gives hready ?_
    have hmay : ¬ (bitAt w.toNat 0 || Mod.cqUsed s.mod n || (Mod.cq s.mod n).reserved != 0) = true := by
      rw [hbit, hused, show (Mod.cq s.mod n).reserved = 0 from hres]
      decide
    simp only [Mod.writeCqCtrl, show (Mod.cq s.mod n).enabled = true from hen, if_true]
    exact if_neg hmay
  case cqKept =>
    refine onReg_gives hready ?_
    have hno : (bitAt w.toNat 0 || Mod.cqUsed s.mod n || (Mod.cq s.mod n).reserved != 0) = true := by
      rw [Bool.or_eq_true, Bool.or_eq_true, bne_iff_ne]
      exact or_assoc.mpr hnot
    simp only [Mod.writeCqCtrl, show (Mod.cq s.mod n).enabled = true from hen, if_true]
    exact if_pos hno
  case control =>
    refine onReg_gives hready ?_
    simp only [Mod.writeHifCtrl, hold, hused, Bool.or_self, Bool.not_false, Bool.or_true, Bool.false_eq_true, if_false]
    cases bitAt v.toNat 15 <;> rfl
  case faultEnable =>
    refine onReg_gives hready ?_
    simp only [Mod.writeFaultCtrl, show s.mod.flt.enabled = false from hen, hbit, Bool.false_eq_true, if_false, if_true]
    rfl
  case faultDisable =>
    refine onReg_gives hready ?_
    simp only [Mod.writeFaultCtrl, show s.mod.flt.enabled = true from hen, hbit, Bool.false_eq_true, if_false, if_true]
    rfl

/-! ## The host link -/

/-- Settles O27: BAR4 by whether it is open, the power state by the live contexts, translations by their pages. -/
theorem hostLink : Obligations.HostLink := by
  unfold Obligations.HostLink
  intro s open_ pa
  have hgate (h : open_) : ¬ (!s.mod.sys.cfgReady || !bitAt s.mod.host.ctrl.toNat 1) = true := by
    rw [h.1, h.2]; decide
  refine ⟨fun off len wr hclosed => ?closed, fun off len bs hopen => ?write, fun off len hopen hpresent hres => ?read,
    fun hnone => ?sleep, fun hsome => ?awake, ?wake, fun addr len => ?invalidation, fun idx r hr => ?pageRequest⟩
  case closed =>
    have hshut : (!s.mod.sys.cfgReady || !bitAt s.mod.host.ctrl.toNat 1) = true := by
      rw [Bool.or_eq_true, Bool.not_eq_true', Bool.not_eq_true']
      exact (Decidable.not_and_iff_not_or_not.mp hclosed).imp Bool.eq_false_iff.mpr Bool.eq_false_iff.mpr
    simp only [exec, execBar4Access, State.bar4, hshut, if_true]
  case write =>
    simp only [exec, execBar4Access, State.bar4, hgate hopen]
    rfl
  case read =>
    have hpresent' : Mod.paAbsent s.mod (s.mod.host.bar4Base.toNat + off) = false := hpresent
    have hres' : inReserve (s.mod.host.bar4Base.toNat + off) = false := hres
    simp only [exec, execBar4Access, State.bar4, hgate hopen, hpresent', hres', Bool.false_eq_true, if_false]
    rfl
  case sleep =>
    refine gives_same ?_
    simp only [Mod.d3, hnone, bne_self_eq_false, Bool.and_false, Bool.false_eq_true, if_false]
    rfl
  case awake =>
    refine gives_same ?_
    simp only [Mod.d3, bne_iff_ne.mpr hsome, Bool.and_self, if_true]
  case wake =>
    refine gives_same ?_
    simp only [Mod.d3, Bool.false_and, Bool.false_eq_true, if_false]
    rfl
  case invalidation =>
    refine ⟨_, rfl, fun p hp => ?_, fun p hp hout => ?_⟩
    · obtain ⟨hmem, hout⟩ := List.mem_filter.mp (show p ∈ s.mod.host.atc.filter fun p =>
        decide (p.1 * 4096 + 4096 ≤ addr ∨ addr + len ≤ p.1 * 4096) from hp)
      exact ⟨hmem, of_decide_eq_true hout⟩
    · exact (List.mem_filter.mpr ⟨hp, decide_eq_true hout⟩ : p ∈ s.mod.host.atc.filter fun p =>
        decide (p.1 * 4096 + 4096 ≤ addr ∨ addr + len ≤ p.1 * 4096))
  case pageRequest =>
    intro h failed
    have hend (ok : Bool) : Mod.pageReqEnd s.mod idx ok =
        if ok then { s.mod with host := { h with atc := ((r.addr / 4096, r.addr / 4096) :: h.atc).take 512 } }
        else failed := by
      simp only [Mod.pageReqEnd, hr]
      rfl
    exact ⟨gives_same (hend true), gives_same (hend false), gives_same (hend false)⟩

end Sys2Proof.Proofs

/-!
Descriptors that end jobs and order them (R141, R226, R327, R330, R367, R377 to R379, R386 to R398): SIGNAL, WAIT, FENCE,
ABORT, the end of a job, and the save and restore of a cluster.
-/
namespace Sys2Proof.Proofs

open Sys2Proof Sys2Proof.Machine Sys2Proof.Claims Sys2Proof.Laws

/-! ## SIGNAL, WAIT and FENCE -/

/-- Settles O29: each descriptor by what its flag, its writes or its invalidate bit say. -/
theorem signalWaitFence : Obligations.SignalWaitFence := by
  unfold Obligations.SignalWaitFence
  intro s fl m d flag v
  refine ⟨fun h => ?signal, fun h hnew hv => ?holds, fun h hnew hv => ?registers,
    fun hup hf hkind hstart hend => ?satisfied, fun h hinv hlate => ?fence, fun h hinv => ?invalidate⟩
  case signal =>
    refine gives_same ?_
    simp only [Mod.signal, show Mod.ready s.mod fl.id 0x05 = some fl from h]
    rfl
  case holds =>
    refine gives_same ?_
    simp only [Mod.wait, show Mod.ready s.mod fl.id 0x06 = some fl from h, hnew, Bool.false_eq_true, if_false]
    exact if_pos (beq_iff_eq.mpr hv)
  case registers =>
    refine gives_same ?_
    simp only [Mod.wait, show Mod.ready s.mod fl.id 0x06 = some fl from h, hnew, Bool.false_eq_true, if_false]
    refine if_neg fun e => ?_
    rw [show Mod.flagValue s.mod (descCtx fl.raw) 0 (descFld fl.raw 8 11 0) = !v from hv] at e
    rw [Bool.not_beq_self] at e
    exact absurd e (by decide)
  case satisfied =>
    refine onCrown_gives hup ?_
    simp only [Mod.waitSatisfied, show Mod.flight s.mod fl.id = some fl from hf, show descKind fl.raw = 0x06 from hkind,
      hstart, hend, beq_self_eq_true, Bool.and_self, if_true]
    rfl
  case fence =>
    refine gives_same ?_
    have hplain : fenceInv fl = false := by
      rw [fenceInv, show descFld fl.raw 8 0 0 = 0 from hinv]; rfl
    simp only [Mod.fenceDesc, show Mod.ready s.mod fl.id 0x07 = some fl from h, hplain,
      show Mod.lateWrites s.mod = false from hlate, Bool.or_self, Bool.false_eq_true, if_false]
    rfl
  case invalidate =>
    intro hit m1
    have hfence : fenceInv fl = true := by
      rw [fenceInv, show descFld fl.raw 8 0 0 = 1 from hinv]; rfl
    refine ⟨gives_same ?_, fun n e he => invalidate_dropped hit m.mem.tlbs n e he,
      fun n e he hno => invalidate_kept hit m.mem.tlbs n e he hno⟩
    simp only [Mod.fenceInvalidate, show Mod.ready s.mod fl.id 0x07 = some fl from h, hfence, if_true]
    rfl

/-! ## The end of a job -/

section
variable {m : Mod} {fl : Flight} {wide : Bool}

/-- ABORT by what its targets come to (R377 to R379). -/
theorem abort_ready (h : Mod.ready m fl.id 0x0D = some fl) (hw : bitAt (descFld fl.raw 0x0C 31 0) 8 = wide) :
    Mod.abort m fl.id wide =
      let r := Mod.abortAll (Mod.startFlight m fl.id) (Mod.abortTargets m fl wide)
      let st : Status := if r.2.1 then .ok else .abortLate
      if Mod.abortTargets m fl wide = [] then Mod.endFlight m fl.id .abortNoTarget 0 0
      else if r.2.2 = [] then Mod.endFlight r.1 fl.id st 0 0
      else Mod.modFlight r.1 fl.id fun x => { x with phase := .ending, endStatus := some st, waitsFor := r.2.2 } := by
  simp only [Mod.abort, h, hw, bne_self_eq_false, Bool.false_eq_true, if_false, List.isEmpty_iff]

end

/-- The streams of an ended job, each of them once (R141). -/
theorem advance_stream {c : Ctx} {fl : Flight} {r : StreamRef} (ends : Nat) (hr : r ∈ fl.streams)
    (hnodup : (fl.streams.map (·.stream)).Nodup) :
    Ctx.stream (Ctx.advance c fl ends) r.stream =
        { Ctx.stream c r.stream with
          nextChunk := ((Ctx.stream c r.stream).nextChunk + 1) % 2 ^ 32
          stepCount := ((Ctx.stream c r.stream).stepCount + sget 0 fl.steps r.stream) % 2 ^ 64 }
      ∧ Ctx.pinned (Ctx.advance c fl ends) r.stream = false := by
  have hstream := fold_smod_in ({} : StreamEntry) (fun r e => { e with
    nextChunk := (e.nextChunk + 1) % 2 ^ 32, stepCount := (e.stepCount + sget 0 fl.steps r.stream) % 2 ^ 64 })
    fl.streams c.streams r hr hnodup
  have hpin := fold_smod_in (0 : Nat) (fun _ _ => 0) fl.streams c.pins r hr hnodup
  refine ⟨hstream, ?_⟩
  show (sget 0 (Ctx.advance c fl ends).pins r.stream != 0) = false
  rw [show sget 0 (Ctx.advance c fl ends).pins r.stream = 0 from hpin]
  rfl

/-- Settles O32: the end of a job by its roles, an abort by its targets, the streams one by one. -/
theorem jobEnd : Obligations.JobEnd := by
  unfold Obligations.JobEnd
  intro s fl m targets gone aborts ends
  have habort (wide : Bool) (i : Instr) (hi : exec i s = .next (s.onMod fun m => Mod.abort m fl.id wide)) :
      ends wide i := by
    refine ⟨fun ⟨h, hw⟩ hnone => ?_, fun ⟨h, hw⟩ hsome hall => ?_⟩
    · rw [hi]
      exact gives_same ((abort_ready h hw).trans (if_pos hnone))
    · rw [hi]
      exact gives_same ((abort_ready h hw).trans ((if_neg hsome).trans (if_pos hall)))
  refine ⟨fun hup hf hkind hstart htotal hphase hsettled => ?completes, habort false _ rfl, habort true _ rfl,
    fun c ends r hr hnodup => ?streams⟩
  case completes =>
    refine onCrown_gives hup ?_
    have hended : fl.allEnded = true := by
      rw [Flight.allEnded, hstart, htotal, beq_self_eq_true]; rfl
    have hphase' : (fl.phase == Phase.ending) = false := beq_eq_false_iff_ne.mpr hphase
    simp only [Mod.jobCompletion, show Mod.flight s.mod fl.id = some fl from hf, hkind, hended, hphase',
      show Mod.jobSettled s.mod fl = true from hsettled, bne_self_eq_false, Bool.not_true, Bool.or_self, Bool.false_eq_true,
      if_false]
    rfl
  case streams =>
    intro e c1
    obtain ⟨hstream, hpin⟩ := advance_stream (c := c) ends hr hnodup
    exact ⟨by rw [hstream], by rw [hstream], hpin⟩

/-! ## Preemption, save and restore -/

/-- A restored core has the scratchpad it was saved with but for the weight region, which stands as it is (R389). -/
theorem restored_spad (now saved : Core) (w i : Nat) :
    (w * 32 ≤ i → sget 0 (Core.restored now saved w).spad i = sget 0 saved.spad i)
      ∧ (i < w * 32 → sget 0 (Core.restored now saved w).spad i = sget 0 now.spad i) := by
  have hnow (q) (hq : q ∈ now.spad.filter fun p => decide (p.1 < w * 32)) : q.1 < w * 32 :=
    of_decide_eq_true (List.mem_filter.mp hq).2
  have hsaved (q) (hq : q ∈ saved.spad.filter fun p => decide (w * 32 ≤ p.1)) : w * 32 ≤ q.1 :=
    of_decide_eq_true (List.mem_filter.mp hq).2
  constructor
  · intro hi
    refine (sget_append_hi 0 _ _ i fun q hq => by have := hnow q hq; omega).trans ?_
    exact sget_filter 0 saved.spad (fun n => decide (w * 32 ≤ n)) i (decide_eq_true hi)
  · intro hi
    refine (sget_append_lo 0 _ _ i fun q hq => by have := hsaved q hq; omega).trans ?_
    exact sget_filter 0 now.spad (fun n => decide (n < w * 32)) i (decide_eq_true hi)

section
variable {m : Mod} {l k : Nat} {x : Ctx} {po : Bool}

theorem clusterSave_ok {p : Preempt} (hp : (Mod.cluster m l).preempt = some p) (hk : (Mod.cluster m l).ctx = some k)
    (hx : Mod.ctx m k = some x) (hstop : ∀ i ∈ coresOf l, Mod.stopped m p.hard i = true)
    (hrange : Mod.rangeState m k true (Mod.savePieces m x l) = .inr po) :
    Mod.clusterSave m l = Mod.saveCluster (Mod.cleanRange m k (Mod.savePieces m x l)) k l p := by
  have hall : (coresOf l).all (Mod.stopped m p.hard) = true := List.all_eq_true.mpr hstop
  simp only [Mod.clusterSave, hp, hk, hall, hx, hrange, Bool.not_true, Bool.false_eq_true, if_false]

theorem clusterRestore_ok {sv : SavedCluster} (hnext : Mod.nextRestore m l = some (k, sv))
    (hjob : (Mod.cluster m l).job = none) (hret : (Mod.cluster m l).retiring = false)
    (hmine : ∀ j, sv.forJob = some j → Mod.flight m j = none) (hexcl : ∀ e, Mod.exclusiveActive m = some e → e = k)
    (hawait : Mod.awaited m k l = false) (hx : Mod.ctx m k = some x)
    (hrange : Mod.rangeState m k false (Mod.savePieces m x l) = .inr po) :
    Mod.clusterRestore m l = Mod.restoreCluster m k l sv po := by
  simp only [Mod.clusterRestore, hnext]
  rw [if_neg]
  · simp only [hx, hrange]
  · rw [hjob, hret, hawait]
    cases hj : sv.forJob with
    | none =>
      cases he : Mod.exclusiveActive m with
      | none => simp
      | some e => simp [hexcl e he]
    | some j =>
      cases he : Mod.exclusiveActive m with
      | none => simp [hmine j hj]
      | some e => simp [hmine j hj, hexcl e he]

end

/-- Settles O33: by the request's time, by the cores that have stopped, and by the records that may return. -/
theorem preemptSaveRestore : Obligations.PreemptSaveRestore := by
  unfold Obligations.PreemptSaveRestore
  intro s l hup m c
  refine ⟨onCrown_gives hup rfl, fun p k x po hp hk hx hstop hrange => ?save,
    fun k sv x po hnext hjob hret hmine hexcl hawait hx hrange => ?restore, fun now saved w i => ?core⟩
  case save => exact onCrown_gives hup (clusterSave_ok hp hk hx hstop hrange)
  case restore =>
    intro m1 hrecs
    have hback : Mod.clusterRestore s.mod l = m1 := clusterRestore_ok hnext hjob hret hmine hexcl hawait hx hrange
    have hnone : (m1.flt.recs.filter fun r => r.answer != 0) = [] :=
      List.filter_eq_nil_iff.mpr fun r hr => by rw [hrecs r hr]; decide
    refine onCrown_gives hup ?_
    rw [hback]
    exact congrArg (List.foldl (fun x r => Mod.answer x r (r.answer == 1)) m1) hnone
  case core =>
    intro y
    exact ⟨rfl, rfl, rfl, rfl, rfl, restored_spad now saved w i⟩

end Sys2Proof.Proofs

/-!
Loads and stream copies (R13, R37 to R39, R157 to R161, R277, R362 to R364): LOAD_MODEL, LOAD_PROGRAM and bank loads;
STREAM_EXPORT and STREAM_IMPORT.
-/
namespace Sys2Proof.Proofs

open Sys2Proof Sys2Proof.Machine Sys2Proof.Claims Sys2Proof.Laws

/-! ## Loads -/

section
variable {m m1 m2 : Mod} {v : SecView} {fl : Flight} {img : Image} {blk : ModelBlock} {cb : CtxBlock} {ds : List Diag}

/-- A LOAD_MODEL whose image and block pass and whose objects can be written (R13, R277). -/
theorem loadModelCmd_passes (hoff : Mod.takeoverOn m = false) (h : Mod.ready m fl.id 0x01 = some fl)
    (hblk : modelBlockOk blk = true)
    (hpass : ∀ ds, Mod.checkImage m v img (descFld fl.raw 0x18 63 0) true (Mod.liveContexts m != 0) ≠ .rejected ds)
    (hobjs : Mod.writeObjects (Mod.writeWeights (Mod.installModel (Mod.startFlight m fl.id) fl.id img blk) img.weights) blk
      img.objectBytes = (m2, none)) :
    Mod.loadModelCmd m v fl.id img blk = Mod.push_ (Mod.endFlight m2 fl.id .ok 0 0) := by
  have hload : Mod.loadModel m v fl.id img blk img.weights img.objectBytes = (Mod.endFlight m2 fl.id .ok 0 0, true) := by
    simp only [Mod.loadModel, h, hblk, Bool.not_true, Bool.false_eq_true, if_false, hobjs]
  simp only [Mod.loadModelCmd, hoff, hload, Bool.false_eq_true, if_false, if_true]

/-- A LOAD_MODEL whose image fails a check (R277, R278). -/
theorem loadModelCmd_rejected (hoff : Mod.takeoverOn m = false) (h : Mod.ready m fl.id 0x01 = some fl)
    (hblk : modelBlockOk blk = true)
    (hds : Mod.checkImage m v img (descFld fl.raw 0x18 63 0) true (Mod.liveContexts m != 0) = .rejected ds) :
    Mod.loadModelCmd m v fl.id img blk = Mod.rejectLoad m fl ds := by
  simp only [Mod.loadModelCmd, Mod.loadModel, hoff, h, hblk, hds, Bool.not_true, Bool.false_eq_true, if_false]

/-- A context is made with the image its load names (R364). -/
theorem createContext_ok (h : Mod.ready m fl.id 0x02 = some fl) (hop : descFld fl.raw 8 1 0 = 1) (hnew : fl.started = false)
    (hpass : ∀ ds, Mod.checkImage m v img (descFld fl.raw 0x18 63 0) false false ≠ .rejected ds)
    (hfree : (Image.clusterList img).any (Mod.clusterBusy m) = false) (hmake : Mod.makeContext m fl img cb = (m1, .ok)) :
    Mod.createContext m v fl.id (some img) cb = Mod.endLoad
      (Mod.loadBanks (Mod.cacheLoad (Mod.startFlight m1 fl.id) img) fl.id (some (descCtx fl.raw)) false img) fl.id := by
  simp only [Mod.createContext, h, hop, hnew, ne_eq, not_true_eq_false, Bool.false_eq_true, or_self, if_false, hfree, hmake]

/-- Roles are loaded over those of a context (R265, R362). -/
theorem loadRoles_ok {c : Ctx} (h : Mod.ready m fl.id 0x02 = some fl) (hop : descFld fl.raw 8 1 0 = 0)
    (hnew : fl.started = false)
    (hpass : ∀ ds, Mod.checkImage m v img (descFld fl.raw 0x18 63 0) false false ≠ .rejected ds)
    (hfree : (Image.clusterList img).any (Mod.clusterBusy m) = false) (hc : Mod.ctx m (descCtx fl.raw) = some c) :
    Mod.loadRoles m v fl.id img = Mod.endLoad (Mod.modCtx
      (Mod.loadBanks (Mod.cacheLoad (Mod.startFlight m fl.id) img) fl.id (some (descCtx fl.raw))
        (bitAt (descFld fl.raw 8 4 0) 2) (renumbered c.image img))
      (descCtx fl.raw) fun x => { x with image := overlay x.image img }) fl.id := by
  have hc' : Mod.ctx (Mod.cacheLoad (Mod.startFlight m fl.id) img) (descCtx fl.raw) = some c := hc
  simp only [Mod.loadRoles, h, hop, hnew, ne_eq, not_true_eq_false, Bool.false_eq_true, or_self, if_false, hfree, hc']

/-- A waiting bank is written once no core fetches from it (R37). -/
theorem takeWaitLoad_done {l b id role : Nat} {ctx : Option Nat} {words : List DWord}
    (hwait : ((Mod.cluster m l).bank b).waitLoad = some (id, ctx, role, words))
    (hfetch : ((Mod.cluster m l).bank b).fetch = 0) :
    Mod.takeWaitLoad m l b = Mod.endLoad (Mod.modFlight
      (setCluster m l ((Mod.cluster m l).setBank b (((Mod.cluster m l).bank b).loaded ctx role words))) id
        fun f => { f with progress := f.progress + 1 }) id := by
  simp only [Mod.takeWaitLoad, hwait, hfetch, if_true]
  rfl

end

/-- Settles O34: each load by what its checks and its banks come to. -/
theorem loads : Obligations.Loads := by
  unfold Obligations.Loads
  intro s fl img blk cb m v k bytes free op passes
  refine ⟨fun m1 m2 hoff h hblk hpass hinst hobjs => ?model, fun ds hoff h hblk hds => ?rejected,
    fun m1 ⟨h, hop, hnew⟩ hpass hfree hmake => ?create, fun c ⟨h, hop, hnew⟩ hpass hfree hc => ?roles,
    fun h hop => ?ends, fun l id ctx role words hwait hfetch => ?bank⟩
  case model =>
    subst hinst
    exact gives_same (loadModelCmd_passes hoff h hblk hpass hobjs)
  case rejected => exact gives_same (loadModelCmd_rejected hoff h hblk hds)
  case create => exact gives_same (createContext_ok h hop hnew hpass hfree hmake)
  case roles => exact gives_same (loadRoles_ok h hop hnew hpass hfree hc)
  case ends =>
    refine gives_same ?_
    simp only [Mod.endProgram, show Mod.ready s.mod fl.id 0x02 = some fl from h, hop, ne_eq, not_true_eq_false, if_false]
    rfl
  case bank =>
    intro m1 m2 hdone
    have hbank0 : Mod.takeWaitLoad s.mod l 0 = Mod.endLoad m2 id := takeWaitLoad_done hwait hfetch
    refine gives_same ?_
    rw [hbank0, Mod.endLoad, hdone]
    rfl

/-! ## Stream copies -/

section
variable {m : Mod} {fl : Flight} {c : Ctx} {move : Bool}

/-- A stream that is there, for which the buffer has room and that no job holds may be exported (R157). -/
theorem streamExport_ok (h : Mod.ready m fl.id 0x08 = some fl) (hc : Mod.ctx m (descCtx fl.raw) = some c)
    (hthere : Ctx.streamAbsent c (descFld fl.raw 8 15 0) = false)
    (hroom : (Ctx.stream c (descFld fl.raw 8 15 0)).stateSize + 128 ≤ descFld fl.raw 0x18 31 0)
    (hpin : Ctx.pinned c (descFld fl.raw 8 15 0) = false)
    (hbusy : busyCopy fl (Ctx.stream c (descFld fl.raw 8 15 0)) = false)
    (hres : (Ctx.stream c (descFld fl.raw 8 15 0)).residency ≠ 4) (hmove : bitAt (descFld fl.raw 8 63 0) 16 = move) :
    Mod.streamExport m fl.id move = Mod.exportRun m fl (Ctx.stream c (descFld fl.raw 8 15 0)) move := by
  simp only [Mod.streamExport, h, hc, hthere, Nat.not_lt.mpr hroom, hpin, hbusy, hres, hmove, bne_self_eq_false,
    Bool.or_self, Bool.false_eq_true, if_false]

/-- A stream that is there, for which the blob has room and that no job holds may be imported (R159). -/
theorem streamImport_ok (h : Mod.ready m fl.id 0x09 = some fl) (hc : Mod.ctx m (descCtx fl.raw) = some c)
    (hthere : Ctx.streamAbsent c (descFld fl.raw 8 15 0) = false)
    (hroom : (Ctx.stream c (descFld fl.raw 8 15 0)).stateSize + 128 ≤ descFld fl.raw 0x18 31 0)
    (hpin : Ctx.pinned c (descFld fl.raw 8 15 0) = false)
    (hbusy : busyCopy fl (Ctx.stream c (descFld fl.raw 8 15 0)) = false) :
    Mod.streamImport m fl.id = Mod.importStart m fl c (Ctx.stream c (descFld fl.raw 8 15 0)) := by
  simp only [Mod.streamImport, h, hc, hthere, Nat.not_lt.mpr hroom, hpin, hbusy, Bool.or_self, Bool.false_eq_true, if_false]

end

/-- Settles O35: a copy of a stream runs once it may, and goes on by what its reads and writes come to. -/
theorem streamCopies : Obligations.StreamCopies := by
  unfold Obligations.StreamCopies
  intro s fl c m k n e size named idle move isVa a
  refine ⟨fun h ⟨hc, hthere, hroom⟩ ⟨hpin, hbusy⟩ hres hmove => ?copies,
    fun h ⟨hc, hthere, hroom⟩ ⟨hpin, hbusy⟩ hres hmove => ?moves,
    fun h ⟨hc, hthere, hroom⟩ ⟨hpin, hbusy⟩ => ?takes,
    fun mv body po m2 m3 hres => ?exported, fun m1 b h body slot => ?imported⟩
  case copies => exact gives_same (streamExport_ok h hc hthere hroom hpin hbusy hres hmove)
  case moves => exact gives_same (streamExport_ok h hc hthere hroom hpin hbusy hres hmove)
  case takes => exact gives_same (streamImport_ok h hc hthere hroom hpin hbusy)
  case exported =>
    intro m0 m1 hbody hwrite htrailer m4
    simp only [Mod.exportRun, if_neg hres]
    rw [show Mod.blobBody _ _ _ _ = _ from hbody]
    simp only []
    rw [show Mod.blobWrite _ _ _ _ _ _ = _ from hwrite]
    simp only []
    rw [show Mod.blobWrite _ _ _ _ _ _ = _ from htrailer]
  case imported =>
    intro va hwrite
    have hwrite' : Mod.vaWrite m (brimTlbOf (Mod.slotVa m slot)) (descCtx fl.raw) (Mod.slotVa m slot)
        (convState e b (body.take b.bytes)) false = (m1, none) := hwrite
    refine ⟨fun hcrc => ?_, fun hcrc => ?_⟩
    · simp only [Mod.importRun, hwrite', hcrc, bne_self_eq_false, Bool.or_self, Bool.false_eq_true, if_false]
      rfl
    · simp only [Mod.importRun, hwrite', bne_iff_ne.mpr hcrc, Bool.false_or, if_true]
      rfl

end Sys2Proof.Proofs

/-!
Place tables and the flash tier (R237 to R260, R315, R368, R441, R521): binding, gathers, the cache, drives, and the limits
of waiting.
-/
namespace Sys2Proof.Proofs

open Sys2Proof Sys2Proof.Machine Sys2Proof.Claims Sys2Proof.Laws

/-! ## Binding -/

theorem xor_shift_lt {h n : Nat} (hh : h < 2 ^ 64) : h ^^^ (h / 2 ^ n) < 2 ^ 64 :=
  Nat.xor_lt_two_pow hh (Nat.lt_of_le_of_lt (Nat.div_le_self _ _) hh)

/-- The spatial hash scales a number of 64 bits to the rows (R246). -/
theorem hashRow_scales (d : TableDesc) (key : Nat) : ∃ h < 2 ^ 64, hashRow d key = h * d.rows / 2 ^ 64 :=
  ⟨_, xor_shift_lt (Nat.mod_lt _ (by decide)), rfl⟩

theorem hashRow_lt {d : TableDesc} (key : Nat) (h : 0 < d.rows) : hashRow d key < d.rows := by
  obtain ⟨x, hx, e⟩ := hashRow_scales d key
  rw [e, Nat.div_lt_iff_lt_mul (by decide), Nat.mul_comm d.rows]
  exact Nat.mul_lt_mul_of_pos_right hx h

theorem bound_set {m : Mod} {t : Nat} {b : Bound} (h : b.shards ≠ []) :
    Mod.bound { m with tab := { m.tab with bound := sset {} m.tab.bound t b } } t = some b := by
  have he : b.shards.isEmpty = false := List.isEmpty_eq_false_iff.mpr h
  simp only [Mod.bound, sget_sset_same, he, Bool.false_eq_true, if_false]

/-- What an unbound table leaves (R368). -/
theorem unbind_facts (m : Mod) (t : Nat) : Mod.bound (Mod.unbind m t) t = none
    ∧ (∀ r, Mod.updSlot (Mod.unbind m t) t r = none) ∧ (∀ x ∈ (Mod.unbind m t).tab.dirty, x.1 ≠ t)
    ∧ (∀ p ∈ (Mod.unbind m t).tab.ways, p.2.table ≠ t) := by
  refine ⟨?_, fun r => ?_, fun x hx => ?_, fun p hp => ?_⟩
  · simp only [Mod.bound, Mod.unbind, sget_sset_same]
    rfl
  · refine List.find?_eq_none.mpr fun u hu => ?_
    have := bne_iff_ne.mp (List.mem_filter.mp hu).2
    simp [this]
  · exact bne_iff_ne.mp (List.mem_filter.mp hx).2
  · exact bne_iff_ne.mp (List.mem_filter.mp hp).2

section
variable {m : Mod} {fl : Flight} {d : TableDesc} {shards : List ShardEntry} {warm : List (BitVec 128)}

/-- What a TABLE_BIND does by its checks, on a module that is no spare (R243, R252). -/
def boundBy (m : Mod) (fl : Flight) (d : TableDesc) (shards : List ShardEntry) (warm : List (BitVec 128)) : BindCheck → Mod
  | .wait => Mod.startFlight m fl.id
  | .bad st => Mod.endFlight m fl.id st 0 0
  | .ok =>
    let b : Bound := { (sget {} m.tab.bound d.table : Bound) with d := d, shards := shards }
    Mod.endFlight (Mod.prefetchRows { m with tab := { m.tab with bound := sset {} m.tab.bound d.table b } } d.table
      (Mod.ctxLc m (descCtx fl.raw)) (warm.map fun x => hashRow d x.toNat)) fl.id .ok 0 0

/-- A TABLE_BIND that names all its shards goes by its checks (R243). -/
theorem tableBind_asked (h : Mod.ready m fl.id 0x0A = some fl) (hkind : descFld fl.raw 0x1C 1 0 = 0)
    (hlen : shards.length = d.shards) (hne : shards ≠ []) (hspare : Mod.isSpare m = false ∨
      Mod.bindCheck m (descCtx fl.raw) d ≠ .ok) :
    Mod.tableBind m fl.id d shards warm = boundBy m fl d shards warm (Mod.bindCheck m (descCtx fl.raw) d) := by
  have hgo : ¬ (descFld fl.raw 0x1C 1 0 ≠ 0 || shards.length ≠ d.shards || shards.isEmpty) = true := by
    simp [hkind, hlen, hne]
  simp only [Mod.tableBind, h]
  rw [if_neg hgo]
  cases hc : Mod.bindCheck m (descCtx fl.raw) d with
  | wait => rfl
  | bad st => rfl
  | ok =>
    have hspare : Mod.isSpare m = false := hspare.resolve_right fun hne => hne hc
    simp only [hspare, Bool.false_and, Bool.false_eq_true, if_false, boundBy]

end

/-- Settles O37: each form of TABLE_BIND by its checks, a flush by whether it has started. -/
theorem tableBinding : Obligations.TableBinding := by
  unfold Obligations.TableBinding
  intro s fl d shards warm m k asks whole b bound t left
  refine ⟨fun ⟨h, hkind⟩ ⟨hlen, hne⟩ hcheck hspare => ⟨?bind, bound_set hne⟩, fun st ⟨h, hkind⟩ ⟨hlen, hne⟩ hcheck => ?bad,
    fun ⟨h, hkind⟩ ⟨hlen, hne⟩ hcheck => ?waits, fun ⟨h, hkind⟩ => ⟨?unbind, unbind_facts m t⟩,
    fun ⟨h, hkind⟩ hdrives hfits => ?spill, fun ⟨h, hkind⟩ hdrives hfits => ?spillBad, fun h hstart => ?flushOn,
    fun h hnew hupd hdirty => ?flushNew, fun key hrows => hashRow_lt key hrows⟩
  case bind =>
    refine gives_same ((tableBind_asked h hkind hlen hne (.inl hspare)).trans ?_)
    rw [show Mod.bindCheck s.mod (descCtx fl.raw) d = .ok from hcheck]
    rfl
  case bad =>
    refine gives_same ((tableBind_asked h hkind hlen hne (.inr (by rw [hcheck]; simp))).trans ?_)
    rw [show Mod.bindCheck s.mod (descCtx fl.raw) d = .bad st from hcheck]
    rfl
  case waits =>
    refine gives_same ((tableBind_asked h hkind hlen hne (.inr (by rw [hcheck]; simp))).trans ?_)
    rw [show Mod.bindCheck s.mod (descCtx fl.raw) d = .wait from hcheck]
    rfl
  case unbind =>
    refine gives_same ?_
    simp only [Mod.tableUnbind, show Mod.ready s.mod fl.id 0x0A = some fl from h, hkind, ne_eq, not_true_eq_false, if_false]
    rfl
  case spill =>
    refine gives_same ?_
    simp only [Mod.bindSpill, show Mod.ready s.mod fl.id 0x0A = some fl from h, hkind,
      show Mod.drivesCheck s.mod d = .ok from hdrives,
      show Mod.extentFits s.mod d d.firstLba (16 * d.rows) = true from hfits, ne_eq, not_true_eq_false, if_false, if_true]
    rfl
  case spillBad =>
    refine gives_same ?_
    simp only [Mod.bindSpill, show Mod.ready s.mod fl.id 0x0A = some fl from h, hkind,
      show Mod.drivesCheck s.mod d = .ok from hdrives,
      show Mod.extentFits s.mod d d.firstLba (16 * d.rows) = false from hfits, ne_eq, not_true_eq_false,
      Bool.false_eq_true, if_false]
    rfl
  case flushOn =>
    refine gives_same ?_
    simp only [Mod.tableFlush, show Mod.ready s.mod fl.id 0x0B = some fl from h, hstart, if_true]
    rfl
  case flushNew =>
    refine gives_same ?_
    simp only [Mod.tableFlush, Mod.updPages, show Mod.ready s.mod fl.id 0x0B = some fl from h, hnew,
      show s.mod.tab.updates = [] from hupd, show s.mod.tab.dirty = [] from hdirty, Bool.false_eq_true, if_false]
    rfl

/-! ## Gathers -/

/-- A bag that has all its rows is pooled and pushed (R247, R248). -/
theorem bagDeliver_complete {m : Mod} {b : Bag} (h : Mod.bagOf m b.id = some b) (hkind : b.kind = 0)
    (hall : b.complete = true) (hfree : b.parked = false) (hnew : b.pooled = false) :
    let po := b.got.any fun g => g.2.2
    let r := Mod.pushOut (if po then Mod.markPoison m b.job else m) b
      (Mod.bagEntries m b ++ b.token.toList.map fun t => (0, tokenEntry t.1 po 0))
    Mod.bagDeliver m b.id =
      if r.2 = [] then Mod.endBag r.1 b else Mod.modBag r.1 b.id fun x => { x with out := r.2, pooled := true } := by
  simp only [Mod.bagDeliver, h, hkind, hall, hfree, hnew, Bool.not_true, Bool.or_self, ne_eq, not_true_eq_false,
    decide_false, Bool.false_eq_true, if_false, List.isEmpty_iff]
  cases b.token <;> rfl

/-- Settles O38: a table instruction by its row, a bag by what is left to push, the null engine by its grade. -/
theorem tableGathers : Obligations.TableGathers := by
  unfold Obligations.TableGathers
  intro s c p m m1 bag
  have hctx (d : Nat) : Mod.ctxOf m1 d = Mod.ctxOf m d := ctxOf_issued s c p d
  have hcore : Mod.core m1 c = past s c p := core_issued s c p
  have hdenied : Mod.scatterDenied m1 c (PvisWords.f p 43 36) = Mod.scatterDenied m c (PvisWords.f p 43 36) := by
    simp only [Mod.scatterDenied, hctx]
    rfl
  have hscatter (h : Issues s c 0x92 p) : Gives (exec (.scatter c p) s) s
      (if Mod.scatterDenied m c (PvisWords.f p 43 36) then Mod.kill m1 c .region .tableGather 0 (PvisWords.f p 43 36)
        else Mod.newBag m1 (bag 2)) := by
    rw [← hdenied]
    exact gives_cmd_same (Mod.zeroOut c) (fun m =>
      if Mod.scatterDenied m c (PvisWords.f p 43 36) then Mod.kill m c .region .tableGather 0 (PvisWords.f p 43 36)
      else Mod.newBag m (Mod.bagFor m c p 2)) h rfl
  refine ⟨fun h => ?gather, fun h => ?tpf, fun h hno => ?scatter, fun h hden => ?denied, fun kind => ?bag, bagRows_facts,
    fun b hb hkind hall hfree hnew => ?deliver, fun ends tok hissue hgrade hrole => ?null⟩
  case gather => exact gives_cmd_same (Mod.zeroOut c) (fun m => Mod.newBag m (Mod.bagFor m c p 0)) h rfl
  case tpf => exact gives_cmd_same (Mod.zeroOut c) (fun m => Mod.newBag m (Mod.bagFor m c p 1)) h rfl
  case scatter =>
    have := hscatter h
    rwa [hno] at this
  case denied =>
    have := hscatter h
    rwa [hden] at this
  case bag =>
    refine ⟨?_, rfl, hctx c, ?_⟩
    · show val16 (Mod.core m1 c).regs _ = _
      rw [hcore]
    · show (Mod.core m1 c).job = _
      rw [hcore]
  case deliver =>
    intro po m2 out
    have hdeliver := bagDeliver_complete hb hkind hall hfree hnew
    refine ⟨fun m3 hpush => ?_, fun m3 q qs hpush => ?_⟩
    · refine gives_same (hdeliver.trans ?_)
      rw [show Mod.pushOut _ b _ = _ from hpush]
      rfl
    · refine gives_same (hdeliver.trans ?_)
      rw [show Mod.pushOut _ b _ = _ from hpush]
      rfl
  case null =>
    refine gives_same ?_
    simp only [Mod.nullEngine, show Mod.canIssue s.mod c = true from hissue, show s.mod.sys.grade = .s64 from hgrade,
      show Mod.rawRole s.mod c = true from hrole, beq_self_eq_true, Bool.and_self, if_true]
    cases tok <;> rfl

/-! ## The table cache -/

section
variable {m : Mod} {t page k v : Nat} {bs : List Byte}

/-- A dirty page whose way is valid and readable is merged into the oldest way of its set (R259). -/
theorem writeBack_merges (hdirty : Mod.dirtyRows m t page ≠ []) (hbound : (Mod.bound m t).isSome = true)
    (hway : Mod.findWay m t (page / 2 ^ 40) (page % 2 ^ 40) = some k) (hvalid : (Mod.way m k).valid = true)
    (hread : Mod.vaRead m (brimTlbOf (Mod.wayVa m k)) 0xFF (Mod.wayVa m k) 4096 = .inr (bs, false))
    (hold : Mod.oldestWay m ((waysOf (Mod.cacheSet m t (page % 2 ^ 40))).filter fun j => j != k && !(Mod.way m j).filling)
      = some v) : Mod.writeBack m t page = Mod.wakeScatters (Mod.mergeInto m t page k v bs) := by
  have hgo : ¬ ((Mod.dirtyRows m t page).isEmpty || (Mod.bound m t).isNone) = true := by
    rw [List.isEmpty_eq_false_iff.mpr hdirty, Option.isNone_eq_false_iff.mpr hbound]
    decide
  simp only [Mod.writeBack]
  rw [if_neg hgo]
  simp only [hway, hvalid, hread, hold, Bool.not_true, Bool.false_eq_true, if_false]

end

/-- Settles O39: by the way that a fill, a write-back or a copy names. -/
theorem tableCache : Obligations.TableCache := by
  unfold Obligations.TableCache
  intro s t copy page k m w set asked
  refine ⟨fun hway hfill hload => ?fill, fun bs v hasked hdirty hbound hway hvalid hread hold => ?writeBack,
    fun m1 v bs hwrite => mergeInto_updates m m1 t page k v bs hwrite, fun b hb hcopy hbit => ?copied⟩
  case fill =>
    refine gives_same ?_
    simp only [Mod.fillDone, show Mod.findWay s.mod t copy page = some k from hway,
      show (Mod.way s.mod k).filling = true from hfill, show (Mod.way s.mod k).loaded = true from hload, Bool.not_true,
      Bool.or_self, Bool.false_eq_true, if_false]
    rfl
  case writeBack =>
    have hdue : (Mod.updHigh s.mod || s.mod.host.flights.any fun f =>
        f.flushes.contains (t, page) && !f.merged.contains (t, page)) = true := by
      rw [Bool.or_eq_true, List.any_eq_true]
      refine hasked.imp_right ?_
      rintro ⟨f, hf, hin, hout⟩
      exact ⟨f, hf, by rw [hin, hout]; rfl⟩
    refine gives_same ?_
    simp only [Mod.writeBackCmd]
    rw [if_pos hdue, writeBack_merges hdirty hbound hway hvalid hread hold]
  case copied =>
    have hgo : ¬ (2 ≤ copy || !bitAt b.copying copy) = true := by
      rw [decide_eq_false (Nat.not_le.mpr hcopy), hbit]
      decide
    refine gives_same ?_
    simp only [Mod.shardCopyDone, show Mod.bound s.mod t = some b from hb]
    exact if_neg hgo

/-! ## Drives -/

/-- The queues a drive grants are as many as it has, and one of them is for writes (R521). -/
theorem grants_sum {d : Drive} (hwr : 1 ≤ fld d.queues.toNat 22 16) (hgrant : 1 ≤ d.grant) :
    d.grants.1 + d.grants.2.1 + d.grants.2.2
        = min d.grant (fld d.queues.toNat 6 0 + fld d.queues.toNat 14 8 + fld d.queues.toNat 22 16)
      ∧ 1 ≤ d.grants.2.2 := by
  simp only [Drive.grants]
  omega

section
variable {m : Mod} {p cid : Nat} {x : Nvme}

theorem dropDrive_up (h : (Mod.drive m p).state = 1 ∨ (Mod.drive m p).state = 3) : Mod.dropDrive m p = Mod.driveOffline m p :=
  if_pos h

/-- The command that timed out is issued again and the count of timeouts goes up (R255, R256). -/
def timedOut (m : Mod) (p cid : Nat) (x : Nvme) : Mod :=
  Mod.reissue (Mod.modDrive (Mod.dropCmd m p cid) p fun y => { y with timeouts := (Mod.drive m p).timeouts + 1 }) p x

/-- The timeout of a write of a table's page (R255). -/
theorem nvmeTimeout_write (h : (Mod.drive m p).outstanding.find? (fun c => c.cid == cid) = some x) (hcls : x.cls = 2)
    (hkv : x.kvPage = 0) : ∃ a b, Mod.nvmeTimeout m p cid =
      if 3 ≤ (Mod.drive m p).timeouts + 1 then Mod.driveOffline (tallied (timedOut m p cid x) a b) p
      else tallied (timedOut m p cid x) a b := by
  obtain ⟨a, b, hv⟩ := visorBrim_tallied (Mod.dropCmd m p cid) p 0xFF 0x51 1
  refine ⟨a, b, ?_⟩
  have hread : ¬ x.cls ≤ 1 := by omega
  simp only [Mod.nvmeTimeout, h, hread, hkv, hv, decide_false, Bool.false_and, Bool.and_false, ne_eq, not_true_eq_false,
    Bool.false_eq_true, if_false]
  rfl

end

/-- Settles O40: each event of a drive by the drive's state and its outstanding commands. -/
theorem drives : Obligations.Drives := by
  unfold Obligations.Drives
  intro s p m d up
  refine ⟨fun gen width lbas grant nsids wrr h => ?bringUp, fun h => ?timeout, fun h => gives_same (dropDrive_up h),
    fun h => gives_same (dropDrive_up h), fun cid ok x h hx => ?completion, fun cid x hx hcls hkv hfew => ?retried,
    fun cid x hx hcls hkv hmany => ?third, fun v hready hport hvalid hstate => ?queues, ?grants⟩
  case bringUp =>
    refine gives_same ?_
    exact if_neg fun hne => hne h
  case timeout => exact gives_same (if_pos h)
  case completion =>
    have hup : Mod.driveReady s.mod p = true := beq_iff_eq.mpr h
    refine gives_same ?_
    simp only [hup, if_true, List.foldl_cons, List.foldl_nil, Mod.nvmePoll,
      show (Mod.drive s.mod p).outstanding.find? (fun c => c.cid == cid) = some x from hx]
    rfl
  case retried =>
    obtain ⟨a, b, e⟩ := nvmeTimeout_write hx hcls hkv
    exact gives_onMod ⟨a, b, e.trans (if_neg (Nat.not_le.mpr (Nat.succ_lt_succ hfew)))⟩
  case third =>
    obtain ⟨a, b, e⟩ := nvmeTimeout_write hx hcls hkv
    refine ⟨a, b, ?_⟩
    have := e.trans (if_pos (Nat.succ_le_succ hmany))
    show (.next (s.onMod fun m => Mod.nvmeTimeout m p cid) : Out) = _
    simp only [State.onMod]
    rw [this]
    rfl
  case queues =>
    refine onReg_gives hready ?_
    have hgo : ¬ (Config.flashPorts s.mod.sys.grade ≤ p || !flpValid (v.toNat &&& flpMask)) = true := by
      rw [decide_eq_false (Nat.not_le.mpr hport), hvalid]
      decide
    simp only [Mod.flpWrite]
    rw [if_neg hgo]
    exact if_pos hstate
  case grants =>
    intro g q hwr hgrant
    exact grants_sum hwr hgrant

/-! ## Limits of waiting -/

/-- Settles O41: a read that waits too long by what it has been asked of. -/
theorem readLimits : Obligations.ReadLimits := by
  unfold Obligations.ReadLimits
  intro s r m f m1 here
  refine ⟨fun k hr hnew hlocal hway hfill hload hon hother => ?hedge, fun q hr hq hremote hnew => ?again,
    fun hr hremote => ?remote, fun hr hlocal hnone => ?page⟩
  case hedge =>
    refine gives_onMod ?_
    simp only [Mod.hedge, show s.mod.flash.reads.find? (fun x => x.id == r.id) = some r from hr, hnew, hlocal,
      show Mod.findWay s.mod r.table r.copy r.page = some k from hway, show (Mod.way s.mod k).filling = true from hfill,
      show (Mod.way s.mod k).loaded = false from hload, show Mod.hedgeOn s.mod r.table r.copy = true from hon,
      show (Mod.otherHolder s.mod r.table r.copy).isSome = true from hother, Bool.not_false, Bool.and_self,
      Bool.false_eq_true, if_false, if_true]
    exact visorBrim_tallied _ _ _ _ _
  case again =>
    refine gives_same ?_
    simp only [Mod.remoteTimeout, show s.mod.flash.reads.find? (fun x => x.id == r.id) = some r from hr,
      show s.mod.fab.reqs.find? (fun q => q.ptype == 0x06 && q.va == r.id) = some q from hq, hremote, hnew, Bool.not_true,
      Bool.false_eq_true, if_false]
    rfl
  case remote =>
    refine gives_same ?_
    simp only [Mod.readGiveUp, show s.mod.flash.reads.find? (fun x => x.id == r.id) = some r from hr, hremote,
      Bool.true_or, if_true]
    rfl
  case page =>
    have hnone' : Mod.readsOf (Mod.poisonRead s.mod r) r.table r.copy r.page = [] := hnone
    refine gives_same ?_
    simp only [Mod.readGiveUp, show s.mod.flash.reads.find? (fun x => x.id == r.id) = some r from hr, hlocal, hnone',
      List.isEmpty_nil, Bool.not_true, Bool.or_self, Bool.false_eq_true, if_false]
    rfl

end Sys2Proof.Proofs

/-!
The fabric's collective groups (R418 to R426).
-/
namespace Sys2Proof.Proofs

open Sys2Proof Sys2Proof.Machine Sys2Proof.Claims Sys2Proof.Laws

section
variable {m : Mod} {fl : Flight} {d : CollDesc}

/-- A COLLECTIVE_GROUP of another number, an ill-formed one, or one of a group that is declared, is turned away (R418). -/
theorem declareGroup_invalid (h : Mod.ready m fl.id 0x0C = some fl) (hbit : bitAt (descFld fl.raw 0x10 31 0) 16 = false)
    (hbad : Mod.collOk m d = false ∨ (Mod.group m d.group).isSome = true) :
    Mod.declareGroup m fl.id d = Mod.endFlight m fl.id .descriptorInvalid 0 0 := by
  simp only [Mod.declareGroup, h, hbit, Bool.false_eq_true, if_false]
  refine if_pos ?_
  rcases hbad with hbad | hbad <;> simp [hbad]

/-- A COLLECTIVE_GROUP that is well-formed goes by the grade (R419). -/
theorem declareGroup_ok (h : Mod.ready m fl.id 0x0C = some fl) (hbit : bitAt (descFld fl.raw 0x10 31 0) 16 = false)
    (hnum : d.group = descFld fl.raw 0x10 15 0) (hok : Mod.collOk m d = true) (hnew : Mod.group m d.group = none) :
    Mod.declareGroup m fl.id d =
      if !Config.reduction m.sys.grade && d.ops.any fun (o : CollOp) => o.op ≤ 2 then
        Mod.endFlight m fl.id .gradeUnsupported 0 0
      else Mod.endFlight (Mod.firstGrants (Mod.setGroup m d.group { d := d }) d.group { d := d }) fl.id .ok 0 0 := by
  simp only [Mod.declareGroup, h, hbit, Bool.false_eq_true, if_false]
  exact if_neg (by simp [← hnum, hok, hnew])

end

/-- Settles O42: a group's commands by its declaration, its turn and the packet that arrives. -/
theorem collectives : Obligations.Collectives := by
  unfold Obligations.Collectives
  intro s fl d n g m asks gn reduces
  refine ⟨fun ⟨h, hbit⟩ hnum hok hnew hgrade => gives_same ((declareGroup_ok h hbit hnum hok hnew).trans (if_neg ?declared)),
    fun ⟨h, hbit⟩ hnum hok hnew hgrade hred => gives_same ((declareGroup_ok h hbit hnum hok hnew).trans (if_pos ?graded)),
    fun ⟨h, hbit⟩ hbad => gives_same (declareGroup_invalid h hbit hbad), fun ⟨h, hbit⟩ hsome => ?dissolve,
    fun h hidle hgood hops hset => ?trigger, fun h hdone => ?done, fun h hrun hdone hslow => ?watchdog,
    fun p htype h hgood => ?data, fun p htype h hnone => ?grant⟩
  case declared =>
    intro hcut
    rw [Bool.and_eq_true, Bool.not_eq_true'] at hcut
    exact Bool.false_ne_true ((hgrade hcut.1).symm.trans hcut.2)
  case graded => exact Bool.and_eq_true_iff.mpr ⟨by rw [hgrade]; rfl, hred⟩
  case dissolve =>
    have hno : (Mod.group s.mod (descFld fl.raw 0x10 15 0)).isNone = false := Option.isNone_eq_false_iff.mpr hsome
    refine gives_same ?_
    simp only [Mod.dissolveGroup, show Mod.ready s.mod fl.id 0x0C = some fl from h, hbit, hno, Bool.not_true,
      Bool.false_eq_true, if_false]
    rfl
  case trigger =>
    refine gives_same ?_
    simp only [Mod.trigger, show Mod.group s.mod n = some g from h, hidle, hgood, List.isEmpty_eq_false_iff.mpr hops,
      show Mod.deviceFlagSet s.mod g.d.context g.cur.trigger = true from hset, Bool.not_true, Bool.or_self,
      Bool.false_eq_true, if_false, m]
    cases Mod.runningJob s.mod g.d.context <;> rfl
  case done =>
    refine gives_same ?_
    simp only [Mod.operationDone, show Mod.group s.mod n = some g from h, hdone, Bool.not_true, Bool.false_eq_true, if_false]
    rfl
  case watchdog =>
    refine gives_same ?_
    simp only [Mod.watchdog, show Mod.group s.mod n = some g from h, hrun, hdone,
      show (Mod.stalledOn s.mod g).any s.mod.fab.slow.contains = false from hslow, Bool.not_true, Bool.or_self,
      Bool.false_eq_true, if_false]
    rfl
  case data =>
    have htaken : Mod.group (Mod.takeIn s.mod p) (p.address / 2 ^ 42) = some g := h
    refine gives_same ?_
    simp only [Mod.collData, htype, ne_eq, not_true_eq_false, if_false, htaken, hgood, Bool.false_eq_true]
    rfl
  case grant =>
    have htaken : Mod.group (Mod.takeIn s.mod p) (p.address / 2 ^ 42) = some g := h
    refine gives_same ?_
    simp only [Mod.takeGrant, htype, ne_eq, not_true_eq_false, if_false, htaken, hnone, List.foldl_nil]
    rw [← hnone]

end Sys2Proof.Proofs

/-!
The fabric's ports (R399 to R408, R414, R427, R428, R446, R522).
-/
namespace Sys2Proof.Proofs

open Sys2Proof Sys2Proof.Machine Sys2Proof.Claims Sys2Proof.Laws

section
variable {s : State} {m : Mod} {p : Nat}

/-- A change of a port and a step to a state are one change of the port (R403). -/
theorem gives_port {f : Mod → Mod} {g : Port → Port} {st : Nat}
    (h : f s.mod = Mod.toState (Mod.modPort s.mod p g) p st) :
    Gives (.next (s.onMod f)) s (Mod.modPort s.mod p fun x => { g x with state := st }) :=
  gives_toState h (modPort_modPort ..)

/-- A step to a state is a change of the port (R403). -/
theorem gives_state {f : Mod → Mod} {st : Nat} (h : f s.mod = Mod.toState s.mod p st) :
    Gives (.next (s.onMod f)) s (Mod.modPort s.mod p fun x => { x with state := st }) :=
  gives_toState h rfl

/-- The end of a training stage on the lanes that are usable (R402). -/
theorem gives_trained {f : Mod → Mod} {next mask l : Nat} (h : f s.mod = Mod.trained s.mod p next mask)
    (hl : lanesOf mask = some l) :
    Gives (.next (s.onMod f)) s (Mod.modPort s.mod p fun x => { x with lanes := l, state := next }) := by
  refine gives_port (g := fun x => { x with lanes := l }) (h.trans ?_)
  simp only [Mod.trained, hl]

/-- The end of a training stage that leaves no usable lanes (R402). -/
theorem gives_untrained {f : Mod → Mod} {next mask : Nat} (h : f s.mod = Mod.trained s.mod p next mask)
    (hl : lanesOf mask = none) :
    Gives (.next (s.onMod f)) s (Mod.modPort s.mod p fun x => { x with state := 1 }) := by
  refine gives_state (h.trans ?_)
  simp only [Mod.trained, hl]

theorem onMod_congr {f g : Mod → Mod} (h : f s.mod = g s.mod) : s.onMod f = s.onMod g := by
  simp only [State.onMod, h]

/-- The port with its partner's identity (R404). -/
def namePort (i : IdleInfo) (q : Port) : Port := { q with
  partnerPort := i.port % 256, partnerX := i.coord.1 % 256, partnerY := i.coord.2.1 % 256
  partnerZ := i.coord.2.2 % 256, partnerSpare := i.spare }

/-- The fault record of a link that is refused (R404). -/
def refuseLink (m : Mod) (p : Nat) : Mod × Nat :=
  Mod.raiseFault m .linkRefused .linkSupervisor 0xFF 0 false 0 0 0 p false none

/-- An identity flit at a port that waits for it, by whether R399 implies it (R404). -/
theorem identity_checked {i : IdleInfo} (h : (Mod.port m p).state = 4) : Mod.identity m p i =
    if Mod.identityOk m p i then Mod.toState (Mod.modPort m p (namePort i)) p 5
    else (refuseLink (Mod.toState (Mod.modPort m p (namePort i)) p 8) p).1 :=
  if_neg fun hne => hne h

/-- What the host does to an inactive port it disables: its record is off whatever its state was (R522). -/
theorem disablePort_inactive (hport : Mod.portAbsent m p = false) (h : (Mod.port m p).state ≠ 6) :
    ∃ a b, Mod.disablePort m p =
      tallied (Mod.modPort m p fun x => { x with enable := false, retry := false, state := 0 }) a b := by
  simp only [Mod.disablePort, hport, h, Bool.false_eq_true, if_false]
  by_cases h0 : (Mod.port m p).state = 0
  · rw [if_pos h0]
    exact ⟨m.vis.clVals, m.vis.brVals, modPort_congr m p (fun x => { x with enable := false, retry := false })
      (fun x => { x with enable := false, retry := false, state := 0 })
      (congrArg (fun n => { Mod.port m p with enable := false, retry := false, state := n }) h0)⟩
  · rw [if_neg h0]
    obtain ⟨a, b, e⟩ := toState_tallied (Mod.modPort m p fun x => { x with enable := false, retry := false }) p 0
    exact ⟨a, b, e.trans (by rw [modPort_modPort])⟩

/-- A port as FAILING_PORT_DISABLE leaves it (R446). -/
def Port.shut (q : Port) : Port := { q with
  enable := false, retry := false, replay := [], credits := [], owed := [], txq := [] }

/-- FAILING_PORT_DISABLE's step for one port. -/
def shutPort (m : Mod) (p : Nat) : Mod := Mod.toState (Mod.modPort m p Port.shut) p 0

theorem shutPort_state (m : Mod) (p q : Nat) :
    (Mod.port (shutPort m p) q).state = if q = p then 0 else (Mod.port m q).state := by
  rw [shutPort, toState_port]
  by_cases h : q = p
  · rw [if_pos h, h, port_modPort_same]
  · rw [if_neg h, port_modPort_ne _ _ _ _ h, port_modPort_ne _ _ _ _ h]

theorem shutPort_mem (m : Mod) (p : Nat) : (shutPort m p).mem = m.mem := by
  obtain ⟨a, b, e⟩ := toState_tallied (Mod.modPort m p Port.shut) p 0
  rw [shutPort, e]
  rfl

/-- The ports that are not disabled. -/
def livePorts (m : Mod) : List Nat := (m.fab.ports.filter fun q => q.2.state != 0).map (·.1)

theorem port_state_of_not_live {q : Nat} (h : q ∉ livePorts m) : (Mod.port m q).state = 0 := by
  rcases sget_mem {} m.fab.ports q with hnew | hmem
  · exact congrArg Port.state hnew
  · refine Decidable.byContradiction fun hne => ?_
    exact h (List.mem_map.mpr ⟨_, List.mem_filter.mpr ⟨hmem, bne_iff_ne.mpr hne⟩, rfl⟩)

/-- Shutting every port that is not disabled leaves every port disabled (R446). -/
theorem shutPorts_state (m : Mod) (q : Nat) : (Mod.port ((livePorts m).foldl shutPort m) q).state = 0 := by
  rw [disable_fold _ _ shutPort_state]
  by_cases h : q ∈ livePorts m
  · exact if_pos h
  · rw [if_neg h, port_state_of_not_live h]

end

/-- Settles O43: each command of a port by the port's state. -/
theorem ports : Obligations.Ports := by
  unfold Obligations.Ports
  intro s p lanes i m q at_ named
  refine ⟨fun h => gives_port (g := fun x => { x with retry := true }) (if_pos h), fun h hen hretry => ?retry,
    fun h hfour => ?detected,
    fun l h hl => gives_trained (if_pos h) hl, fun h hl => gives_untrained (if_pos h) hl,
    fun l h hl => gives_trained (if_pos h) hl, fun h hok => ?named, fun h hbad => ?refused,
    fun cs h => gives_same (if_pos h), fun l h hl => ?retrained, fun h hl => ?noLanes, fun h => gives_same (if_pos h),
    fun h => gives_same (if_pos (beq_iff_eq.mpr h)), fun hcfg hport => ⟨fun hserv h => ?enable, fun hserv => ?enableEarly,
      fun h => ?disableActive, fun h => ?disable⟩, fun hcfg h => onReg_gives hcfg (if_pos (beq_iff_eq.mpr h)),
    fun v hcfg hall => onReg_gives hcfg (if_pos ?allOff), fun hfail hports => ?shut⟩
  case retry =>
    refine gives_port (g := fun x => { enable := true, txq := x.txq }) ?_
    have h0 : (Mod.port s.mod p).state = 0 := h
    have hgo : (decide ((Mod.port s.mod p).state = 0) && (Mod.port s.mod p).enable && (Mod.port s.mod p).retry) = true := by
      rw [decide_eq_true h0, show (Mod.port s.mod p).enable = true from hen,
        show (Mod.port s.mod p).retry = true from hretry]
      rfl
    simp only []
    rw [if_neg (by rw [h0]; decide), if_pos hgo]
    rfl
  case detected =>
    refine gives_state (if_pos ?_)
    rw [Bool.and_eq_true]
    exact ⟨decide_eq_true h, decide_eq_true hfour⟩
  case named =>
    exact gives_toState ((identity_checked h).trans (if_pos hok)) rfl
  case refused =>
    obtain ⟨a, b, e⟩ := toState_tallied named p 8
    refine ⟨a, b, congrArg Host.Outcome.next (onMod_congr ?_)⟩
    refine (identity_checked h).trans ((if_neg (by rw [hbad]; decide)).trans ?_)
    exact congrArg (fun m => (refuseLink m p).1) e
  case retrained =>
    refine gives_same ?_
    simp only [show (Mod.port s.mod p).state = 7 from h, hl, ne_eq, not_true_eq_false, if_false]
    rfl
  case noLanes =>
    refine gives_same ?_
    simp only [show (Mod.port s.mod p).state = 7 from h, hl, ne_eq, not_true_eq_false, if_false]
    rfl
  case enable =>
    show Gives (.next (s.onReg fun m => Mod.enablePort m p)) s _
    rw [onReg_ready hcfg]
    refine gives_port (g := fun x => { enable := true, txq := x.txq }) ?_
    simp only [Mod.enablePort, show Mod.portAbsent s.mod p = false from hport,
      show s.mod.sys.serviceReady = true from hserv, Bool.not_true, Bool.false_eq_true, if_false]
    exact if_pos h
  case enableEarly =>
    refine onReg_gives hcfg ?_
    simp only [Mod.enablePort, show Mod.portAbsent s.mod p = false from hport,
      show s.mod.sys.serviceReady = false from hserv, Bool.not_false, Bool.false_eq_true, if_false, if_true]
    rfl
  case disableActive =>
    refine onReg_gives hcfg ?_
    simp only [Mod.disablePort, show Mod.portAbsent s.mod p = false from hport, Bool.false_eq_true, if_false]
    exact if_pos h
  case disable =>
    show Gives (.next (s.onReg fun m => Mod.disablePort m p)) s _
    rw [onReg_ready hcfg]
    exact gives_onMod (disablePort_inactive hport h)
  case allOff => exact List.all_eq_true.mpr fun r hr => beq_iff_eq.mpr (hall r hr)
  case shut =>
    refine ⟨_, rfl, ?_⟩
    have hgo : (s.mod.sys.failing && s.mod.sys.failPorts) = true := by
      rw [Bool.and_eq_true]
      exact ⟨hfail, hports⟩
    simp only [State.onMod]
    rw [if_pos hgo]
    exact ⟨rfl, shutPorts_state s.mod, foldl_mem _ _ shutPort_mem s.mod⟩

end Sys2Proof.Proofs

/-!
The fabric's flits (R405 to R408, R410, R428, R429).
-/
namespace Sys2Proof.Proofs

open Sys2Proof Sys2Proof.Machine Sys2Proof.Claims Sys2Proof.Laws

section
variable {m : Mod} {p : Nat} {h : FlitHdr}

theorem isActive_of_state {q : Port} (h : q.state = 6) : q.isActive = true := beq_iff_eq.mpr h

theorem not_isActive_of_state {q : Port} (h : q.state ≠ 6) : q.isActive = false := beq_eq_false_iff_ne.mpr h

/-- The port after a flit in order (R407): the sequence goes on and a credit is owed. -/
def acceptFlit (h : FlitHdr) (x : Port) : Port := { x with
  seqRx := (x.seqRx + 1) % 1024, nakOut := false, owed := smod 0 x.owed (h.vc % 4 * 4 + h.cls % 4) (· + 1) }

/-- A good data flit in order (R407). -/
theorem dataFlit_inOrder {pkt : Option Packet} (hact : (Mod.port m p).state = 6) (hgood : h.good = true)
    (hseq : h.seq = (Mod.port (Mod.header m p h) p).seqRx) :
    let taken := Mod.modPort (Mod.header m p h) p (acceptFlit h)
    Mod.dataFlit m p h pkt = Mod.pump512 (pkt.elim taken (Mod.arrivePacket taken p h.cls)) p := by
  intro taken
  simp only [Mod.dataFlit, isActive_of_state hact, hgood, Bool.not_true, Bool.false_eq_true, if_false, if_true,
    Bool.true_and, hseq, beq_self_eq_true]
  cases pkt <;> rfl

/-- A good data flit out of order (R407): one nak, unless one is awaited. -/
theorem dataFlit_outOfOrder {pkt : Option Packet} (hact : (Mod.port m p).state = 6) (hgood : h.good = true)
    (hseq : h.seq ≠ (Mod.port (Mod.header m p h) p).seqRx) :
    let m1 := Mod.header m p h
    Mod.dataFlit m p h pkt = Mod.pump512 (if (Mod.port m1 p).nakOut then m1 else Mod.sendNak m1 p) p := by
  intro m1
  simp only [Mod.dataFlit, isActive_of_state hact, hgood, Bool.not_true, Bool.false_eq_true, if_false, if_true,
    Bool.true_and, beq_eq_false_iff_ne.mpr hseq, m1]

/-- The port after a nak: its time is noted (R408). -/
def noteNak (now : Nat) (x : Port) : Port := { x with nakAt := (now :: x.nakAt).take 63 }

/-- 64 naks within 1 ms, by the times of the last 63 (R408). -/
def manyNaks (now : Nat) (q : Port) : Bool :=
  match q.nakAt[62]? with | some t => decide (now ≤ t + ticksMs) | none => false

theorem manyNaks_of_few {now : Nat} {q : Port} (h : q.nakAt.length < 63) : manyNaks now q = false := by
  simp only [manyNaks, List.getElem?_eq_none (Nat.le_of_lt_succ h)]

/-- A nak at an active port (R407, R408): the flits from the one it names again, or a retrain. -/
theorem nakFlit_good (seq : Nat) (hact : (Mod.port m p).state = 6) (hgood : h.good = true) : Mod.nakFlit m p h seq =
    let q1 := Mod.port (Mod.header m p h) p
    let m2 := Mod.modPort (Mod.header m p h) p (noteNak (Mod.now m))
    if (q1.replay.any fun e => seqLe seq e.1 && 16 ≤ e.2.1) || manyNaks (Mod.now m) q1 then Mod.enterRetrain m2 p
    else Mod.pump512 (Mod.resend m2 p fun e => seqLe seq e) p := by
  simp only [Mod.nakFlit, isActive_of_state hact, hgood, Bool.not_true, Bool.or_self, Bool.false_eq_true, if_false]
  rfl

end

/-- Settles O44: each flit by its header and the port's sequence. -/
theorem flits : Obligations.Flits := by
  unfold Obligations.Flits
  intro s p h m m1 q q1 taken
  refine ⟨fun hact hgood => ⟨fun pkt hseq => gives_same (dataFlit_inOrder hact hgood hseq), fun pkt hseq hout => ?nak,
      fun pkt hseq hout => ?awaited, fun i hhealth => ?idle, fun seq hfresh hfew => ?replay,
      fun seq e he hseq htired => ?tired⟩,
    fun hact hout => ?nakAgain, fun hact => ?heartbeat, fun hact => gives_same (if_pos hact), ?held,
    fun tag r hr => ?timeout, fun e => ?acked⟩
  case nak =>
    refine gives_same ((dataFlit_outOfOrder hact hgood hseq).trans ?_)
    rw [if_neg (by rw [show (Mod.port (Mod.header s.mod p h) p).nakOut = false from hout]; decide)]
  case awaited =>
    refine gives_same ((dataFlit_outOfOrder hact hgood hseq).trans ?_)
    rw [if_pos (show (Mod.port (Mod.header s.mod p h) p).nakOut = true from hout)]
  case idle =>
    refine gives_same ?_
    simp only [Mod.idleFlit, isActive_of_state (show (Mod.port s.mod p).state = 6 from hact), hgood, hhealth, Bool.not_true,
      Bool.or_self, Bool.false_eq_true, if_false, decide_false, Bool.false_and]
    rfl
  case replay =>
    intro m2
    refine gives_same ((nakFlit_good seq hact hgood).trans ?_)
    have hrested : (q1.replay.any fun e => seqLe seq e.1 && 16 ≤ e.2.1) = false := by
      refine List.any_eq_false.mpr fun e he => ?_
      rw [Bool.and_eq_true, decide_eq_true_eq]
      exact fun hcut => Nat.not_le.mpr (hfresh e he hcut.1) hcut.2
    refine if_neg ?_
    rw [hrested, manyNaks_of_few hfew]
    decide
  case tired =>
    intro m2
    refine gives_same ((nakFlit_good seq hact hgood).trans ?_)
    have htired : (q1.replay.any fun e => seqLe seq e.1 && 16 ≤ e.2.1) = true :=
      List.any_eq_true.mpr ⟨e, he, by rw [hseq, decide_eq_true htired]; rfl⟩
    refine if_pos ?_
    rw [htired]
    rfl
  case nakAgain =>
    refine gives_same (if_pos ?_)
    rw [Bool.and_eq_true]
    exact ⟨isActive_of_state hact, hout⟩
  case heartbeat =>
    refine gives_same ?_
    simp only [show (Mod.port s.mod p).state = 6 from hact]
    rfl
  case held =>
    intro ps hheld
    refine gives_same (if_neg ?_)
    rw [Bool.not_eq_true, List.any_eq_false]
    intro x hx
    rw [not_isActive_of_state (hheld x hx)]
    decide
  case timeout =>
    refine gives_same ?_
    simp only [show s.mod.fab.reqs.find? (fun r => r.tag == tag) = some r from hr]
    rfl
  case acked =>
    show e ∈ (Mod.port (Mod.header s.mod p h) p).replay ↔ _
    rw [header_replay, List.mem_filter, Bool.not_eq_true']

end Sys2Proof.Proofs

/-!
The fabric's packets at their destination (R249, R325, R411 to R413).
-/
namespace Sys2Proof.Proofs

open Sys2Proof Sys2Proof.Machine Sys2Proof.Claims Sys2Proof.Laws

section
variable {m : Mod} {k : Packet}

/-- A flag change at a flag that has no cluster of its own (R325). -/
theorem flagPacket_shared {c : Ctx} (htype : k.ptype = 0x05) (hctx : Mod.ctx m k.context = some c)
    (hclass : Ctx.flagClass c k.address ≠ .cluster) : Mod.flagPacket m k =
      Mod.changeFlag (Mod.takeIn m k) k.context 0 k.address (bitAt (nth 0 k.data 0).toNat 0) := by
  simp only [Mod.flagPacket, htype, ne_eq, not_true_eq_false, if_false, takeIn_ctx, hctx]

/-- A flag change at a cluster flag, whose home this module has (R325). -/
theorem flagPacket_cluster {c : Ctx} {l : Nat} (htype : k.ptype = 0x05) (hctx : Mod.ctx m k.context = some c)
    (hclass : Ctx.flagClass c k.address = .cluster) (hhome : Mod.flagHome m k.context k.address = some l) :
    Mod.flagPacket m k = Mod.changeFlag (Mod.takeIn m k) k.context l k.address (bitAt (nth 0 k.data 0).toNat 0) := by
  have hhome' : Mod.flagHome (Mod.takeIn m k) k.context k.address = some l := hhome
  simp only [Mod.flagPacket, htype, ne_eq, not_true_eq_false, if_false, takeIn_ctx, hctx, hclass, hhome']

/-- A row that is asked for and that a copy of this module holds is looked up (R249). -/
theorem rowRequest_row (htype : k.ptype = 0x06) (hkind : rowReqKind k = 0)
    (hbound : (Mod.bound m (rowReqTable k)).isSome = true) :
    let d := Mod.tableD m (rowReqTable k)
    let copy := if rowShard d k.address = d.localShard then 0 else 1
    copyShard d copy ≠ 0xFFFF →
    let r := Mod.newRead (Mod.takeIn m k) { id := 0, table := rowReqTable k, copy := copy, page := rowPage d k.address
                                            row := k.address, lc := k.lc, reply := some k }
    Mod.rowRequest m k = Mod.lookup r.1 r.2 := by
  intro d copy hshard r
  have hgo : ¬ ((Mod.bound (Mod.takeIn m k) (rowReqTable k)).isNone || copyShard d copy = 0xFFFF) = true := by
    rw [show (Mod.bound (Mod.takeIn m k) (rowReqTable k)).isNone = false from Option.isNone_eq_false_iff.mpr hbound,
      decide_eq_false hshard]
    decide
  simp only [Mod.rowRequest, htype, hkind, ne_eq, not_true_eq_false, if_false, Nat.reduceEqDiff]
  exact if_neg hgo

end

/-- Settles O45: each packet by its type, and by what it finds at this module. -/
theorem packets : Obligations.Packets := by
  unfold Obligations.Packets
  intro s k m m1 row
  refine ⟨fun m2 htype hlines hwrite => ?written, fun m2 f d htype hlines hwrite => ?writeFault,
    fun bs po htype hread => ?read, fun r m2 htype hreq hwrite => ?response, fun r htype hdata hreq hjob hrt => ?acked,
    fun htype hroom hctx => ?pushed, fun c htype hctx hclass => gives_same (flagPacket_shared htype hctx hclass),
    fun c l htype hctx hclass hhome => gives_same (flagPacket_cluster htype hctx hclass hhome),
    fun htype hkind hroom => ?deltas, fun htype hkind hbound => ?asked,
    fun q r htype hreq hread hremote hpoison => ?answered⟩
  case written =>
    refine gives_same ?_
    simp only [Mod.writePacket, htype, hlines, ne_eq, not_true_eq_false, Bool.false_eq_true, if_false]
    rw [show Mod.vaWrite _ _ _ _ _ _ = _ from hwrite]
  case writeFault =>
    refine gives_same ?_
    simp only [Mod.writePacket, htype, hlines, ne_eq, not_true_eq_false, Bool.false_eq_true, if_false]
    rw [show Mod.vaWrite _ _ _ _ _ _ = _ from hwrite]
  case read =>
    refine gives_same ?_
    simp only [Mod.readPacket, htype, ne_eq, not_true_eq_false, if_false]
    rw [show Mod.vaRead _ _ _ _ _ = _ from hread]
  case response =>
    refine gives_same ?_
    simp only [Mod.readResponse, htype, ne_eq, not_true_eq_false, if_false,
      show (Mod.takeIn s.mod k).fab.reqs.find? (fun r => r.tag == k.tag && r.ptype == 0x02) = some r from hreq]
    rw [show Mod.vaWrite _ _ _ _ _ _ = _ from hwrite]
  case acked =>
    refine gives_same ?_
    simp only [Mod.writeAck, htype, hdata, List.isEmpty_nil, Bool.not_true, Bool.false_eq_true, ne_eq, not_true_eq_false,
      if_false, show (Mod.takeIn s.mod k).fab.reqs.find? (fun r => r.tag == k.tag && r.ptype != 0x02 && r.ptype != 0x06)
        = some r from hreq, hjob, hrt, if_true]
    rfl
  case pushed =>
    intro x
    have hno : (Mod.ctx (Mod.takeIn s.mod k) k.context).isNone = false := Option.isNone_eq_false_iff.mpr hctx
    refine gives_same ?_
    simp only [Mod.queuePush, htype, ne_eq, not_true_eq_false, if_false, hno, Bool.false_eq_true]
    exact if_neg (Nat.not_le.mpr hroom)
  case deltas =>
    refine gives_same ?_
    simp only [Mod.rowRequest, htype, hkind, ne_eq, not_true_eq_false, if_false, Nat.reduceEqDiff, if_true]
    exact if_pos hroom
  case asked =>
    intro d copy hshard r
    exact gives_same (rowRequest_row htype hkind hbound hshard)
  case answered =>
    refine gives_same ?_
    simp only [Mod.rowResponse, htype, ne_eq, not_true_eq_false, if_false,
      show (Mod.takeIn s.mod k).fab.reqs.find? (fun q => q.tag == k.tag && q.ptype == 0x06) = some q from hreq,
      show (Mod.takeIn s.mod k).flash.reads.find? (fun r => r.id == q.va) = some r from hread, hremote, hpoison,
      Bool.not_true, Bool.false_and, Bool.false_eq_true]
    rfl

end Sys2Proof.Proofs

/-!
The buddy area and the takeover by a spare (R435 to R440).
-/
namespace Sys2Proof.Proofs

open Sys2Proof Sys2Proof.Machine Sys2Proof.Claims Sys2Proof.Laws

section
variable {m : Mod} {t : Takeover}

theorem any_isSome_true {α : Type} {l : List (Nat × Option α)} (h : ∃ p ∈ l, p.2 ≠ none) :
    (l.any fun p => p.2.isSome) = true := by
  obtain ⟨p, hp, hne⟩ := h
  exact List.any_eq_true.mpr ⟨p, hp, Option.isSome_iff_ne_none.mpr hne⟩

theorem takeoverOn_begun (h : m.rcv.takeover = some t) (hbegun : t.begun = true) (hspare : Mod.isSpare m = true) :
    Mod.takeoverOn m = true := by
  simp only [Mod.takeoverOn, h, hbegun, hspare, Bool.and_self]

/-- The weights come from the area only if it holds a whole model of the image's hash (R440). -/
theorem source_area {img : Image} {bh : BitVec 384} :
    Takeover.source t img bh = 1 ↔ t.valid = true ∧ t.mode = 1 ∧ t.hash = img.hash := by
  have hcond : (t.valid && t.mode == 1 && t.hash == img.hash) = true ↔
      t.valid = true ∧ t.mode = 1 ∧ t.hash = img.hash := by
    simp only [Bool.and_eq_true, beq_iff_eq, and_assoc]
  rw [← hcond, Takeover.source]
  constructor
  · intro h
    refine Decidable.byContradiction fun hne => ?_
    rw [if_neg hne] at h
    split at h
    · exact absurd h (by decide)
    · exact absurd h (by decide)
  · exact fun h => if_pos h

end

/-- Settles O47: the buddy's registers by whether a context exists, the takeover by its stage. -/
theorem buddyAndTakeover : Obligations.BuddyAndTakeover := by
  unfold Obligations.BuddyAndTakeover
  intro s t header slots m w va off
  refine ⟨fun v hcfg hnone => onReg_gives hcfg (if_neg ?none), fun v hcfg hsome =>
      onReg_gives hcfg (if_pos (any_isSome_true hsome)),
    fun v hcfg => onReg_gives hcfg rfl, fun m1 m2 ht hnew hspare hhead harea hslots => ?begins,
    fun id img blk bh ws objs m1 ht hbegun hspare => ?loads, fun img bh => source_area⟩
  case none =>
    rw [any_isSome_false _ hnone]
    decide
  case begins =>
    refine gives_same ?_
    simp only [Mod.beginTakeover, show s.mod.rcv.takeover = some t from ht, show Mod.isSpare s.mod = true from hspare, hnew,
      Bool.not_true, Bool.or_self, Bool.false_eq_true, if_false]
    rw [show Mod.vaWrite s.mod _ _ _ header _ = _ from hhead]
    simp only []
    rw [show Mod.vaWrite m1 _ _ _ slots _ = _ from hslots]
  case loads =>
    intro src hload l m2
    refine gives_same ?_
    simp only [Mod.takeoverLoad, show s.mod.rcv.takeover = some t from ht,
      show Mod.takeoverOn s.mod = true from takeoverOn_begun ht hbegun hspare, Bool.not_true, Bool.false_eq_true, if_false]
    rw [show (if Takeover.source t img bh = 3 then _ else _) = _ from hload]
    rfl

end Sys2Proof.Proofs

/-!
What the management helper answers (R477 to R483, R503).
-/
namespace Sys2Proof.Proofs

open Sys2Proof Sys2Proof.Machine Sys2Proof.Claims Sys2Proof.Laws

theorem sensor_isSome (s : State) (n : Nat) : (s.sensor n).isSome = true ↔ 1 ≤ n ∧ n ≤ 24 := by
  by_cases h : n = 1 ∨ n = 2 ∨ n = 3 ∨ (4 ≤ n ∧ n ≤ 7) ∨ (8 ≤ n ∧ n ≤ 23) ∨ n = 24
  · refine ⟨fun _ => by omega, fun _ => ?_⟩
    rcases h with rfl | rfl | rfl | ⟨h1, h2⟩ | ⟨h1, h2⟩ | rfl
    · rfl
    · rfl
    · rfl
    · simp [State.sensor, show n ≠ 1 ∧ n ≠ 2 ∧ n ≠ 3 by omega, h1, h2]
    · simp [State.sensor, show n ≠ 1 ∧ n ≠ 2 ∧ n ≠ 3 ∧ ¬ (4 ≤ n ∧ n ≤ 7) by omega, h1, h2]
    · rfl
  · refine ⟨fun hsome => ?_, fun hrange => by omega⟩
    simp only [not_or] at h
    obtain ⟨h1, h2, h3, hdie, hsite, hceil⟩ := h
    simp only [State.sensor, h1, h2, h3, hdie, hsite, hceil, if_false, Option.isSome_none, Bool.false_eq_true] at hsome

/-- The ceiling the management plane may set lies within 600 W and 2,000 W (R482). -/
theorem clampW_range (w : Nat) :
    600 ≤ clampW w ∧ clampW w ≤ 2000 ∧ (600 ≤ w → w ≤ 2000 → clampW w = w) := by
  simp only [clampW]
  omega

/-- While 54 V is present the helper runs what it takes by itself (R477). -/
theorem helper_runs {s t : State} {o : Out} {f : State → State} (hin : s.mod.sys.input = true) (ho : o = s.byHelper f)
    (h : f s = t) : o = .next t := by
  rw [ho, byHelper_on hin, h]

/-- Settles O51: with 54 V present every message runs, and each answers by the case it meets. -/
theorem managementHelper : Obligations.ManagementHelper := by
  unfold Obligations.ManagementHelper
  intro s hin g replies
  refine ⟨fun t => (helper_runs hin rfl rfl : execTelemetrySample t s = _), fun hi3c => ?fallback,
    fun a hbus => ?address, fun eid h0 hff => ?endpoint, (helper_runs hin rfl rfl : execGetEndpointId s = _),
    (helper_runs hin rfl rfl : execGetMctpVersionSupport s = _),
    (helper_runs hin rfl rfl : execGetMessageTypeSupport s = _),
    (helper_runs hin rfl rfl : execGetVendorDefinedMessageSupport s = _),
    (helper_runs hin rfl rfl : execGettid s = _), (helper_runs hin rfl rfl : execGetpldmversion s = _),
    (helper_runs hin rfl rfl : execGetpldmtypes s = _), (helper_runs hin rfl rfl : execGetpldmcommands s = _),
    fun n v h => ?reading, fun n h => ?unread, fun n h => ?noSensor, sensor_isSome s,
    (helper_runs hin rfl rfl : execGetstatesensorreadings 30 s = _),
    (helper_runs hin rfl rfl : execGetstatesensorreadings 31 s = _),
    (helper_runs hin rfl rfl : execGetnumericeffectervalue 1 s = _),
    fun w => ⟨(helper_runs hin rfl rfl : execSetnumericeffectervalue 1 w s = _), clampW_range w⟩,
    (helper_runs hin rfl rfl : execGetpdrrepositoryinfo s = _), fun r hr => ?record, fun h => ?noAlert,
    fun k x rest h => ?alert, ?led⟩
  case fallback =>
    refine (helper_runs hin rfl ?_ : execSmbusFallback s = _)
    exact if_neg (by rw [hi3c]; decide)
  case address =>
    refine (helper_runs hin rfl ?_ : execDynamicAddressAssignment a s = _)
    exact if_neg (by rw [show s.mgt.smbus = false from hbus]; decide)
  case endpoint =>
    refine (helper_runs hin rfl ?_ : execSetEndpointId eid s = _)
    exact if_neg (not_or.mpr ⟨h0, hff⟩)
  case reading =>
    refine (helper_runs hin rfl ?_ : execGetsensorreading n s = _)
    simp only [h]
  case unread =>
    refine (helper_runs hin rfl ?_ : execGetsensorreading n s = _)
    simp only [h]
  case noSensor =>
    refine (helper_runs hin rfl ?_ : execGetsensorreading n s = _)
    simp only [h]
  case record =>
    refine (helper_runs hin rfl ?_ : execGetpdr r s = _)
    exact if_pos hr
  case noAlert =>
    refine (helper_runs hin rfl ?_ : execPollforplatformeventmessage s = _)
    simp only [h]
  case alert =>
    refine (helper_runs hin rfl ?_ : execPollforplatformeventmessage s = _)
    simp only [h]
  case led =>
    rw [faultLed_of_input hin]
    refine ⟨fun htrip => if_pos htrip, fun htrip halarm => ?_, fun htrip hfail hcrown => ?_⟩
    · rw [if_neg (by rw [htrip]; decide), if_pos halarm]
    · rw [if_neg (by rw [htrip]; decide), if_neg (by rw [hfail]; simpa using hcrown)]

end Sys2Proof.Proofs

/-!
Keys, attestation, the mailbox and the halves of 64-bit registers (R486, R488, R489, R511, R512, R523).
-/
namespace Sys2Proof.Proofs

open Sys2Proof Sys2Proof.Machine Sys2Proof.Claims Sys2Proof.Laws

section
variable {s : State} {off : Nat} {r : Reg}

/-- A write to the register of an offset (R511). -/
theorem regWriteAt_of_some (h : regAt off = some r) (v : Nat) : s.regWriteAt off v = s.regWrite r v := by
  simp only [State.regWriteAt, h]

/-- An 8-byte write of a 64-bit register (R511). -/
theorem barWrite_eight_wide (hcfg : s.mod.sys.cfgReady = true) (ho : off % 8 = 0) (h : regAt off = some r)
    (hwide : r.wide = true) (v : Nat) : s.barWrite off 8 v = s.regWrite r v := by
  have hbase : off / 8 * 8 = off := by omega
  have haligned : ((8 : Nat) != 4 && (8 : Nat) != 8 || off % 8 != 0) = false := by rw [ho]; rfl
  simp only [State.barWrite, hcfg, haligned, hbase, h, hwide, Bool.not_true, Bool.false_or, Bool.false_eq_true, if_false,
    if_true]
  exact regWriteAt_of_some h v

/-- The lower half of a 64-bit register is held (R511). -/
theorem barWrite_low (hcfg : s.mod.sys.cfgReady = true) (ho : off % 8 = 0) (h : regAt off = some r)
    (hwide : r.wide = true) (v : Nat) : s.barWrite off 4 v = s.holdLow (some (off, BitVec.ofNat 32 v)) := by
  have hbase : off / 8 * 8 = off := by omega
  have haligned : ((4 : Nat) != 4 && (4 : Nat) != 8 || off % 4 != 0) = false := by rw [show off % 4 = 0 by omega]; rfl
  have hsize : ¬ (4 : Nat) = 8 := by decide
  simp only [State.barWrite, hcfg, haligned, hsize, hbase, h, hwide, Bool.not_true, Bool.false_or, Bool.false_eq_true,
    if_false, if_true]

/-- The upper half of a 64-bit register writes it with the half that is held (R511). -/
theorem barWrite_high {lo : Word} (hcfg : s.mod.sys.cfgReady = true) (ho : off % 8 = 4) (h : regAt (off - 4) = some r)
    (hwide : r.wide = true) (hheld : s.mod.sys.heldLow = some (off - 4, lo)) (v : Nat) :
    s.barWrite off 4 v = (s.holdLow none).regWrite r (lo.toNat + 2 ^ 32 * (v % 2 ^ 32)) := by
  have hbase : off / 8 * 8 = off - 4 := by omega
  have haligned : ((4 : Nat) != 4 && (4 : Nat) != 8 || off % 4 != 0) = false := by rw [show off % 4 = 0 by omega]; rfl
  have hsize : ¬ (4 : Nat) = 8 := by decide
  have hupper : ¬ off = off - 4 := by omega
  simp only [State.barWrite, hcfg, haligned, hsize, hbase, h, hwide, hheld, Bool.not_true, Bool.false_or,
    Bool.false_eq_true, if_false, if_true]
  rw [if_neg hupper, regWriteAt_of_some h]

end

/-- A key operation that is locked out or that fails its check is refused (R486). -/
theorem keyOp_refused {s : State} {ok : Bool} {f : Mgmt → Mgmt} (hin : s.mod.sys.input = true)
    (hserve : s.crownServes = true) (hno : s.mgt.locked = true ∨ ok = false) :
    s.keyOp ok f = .next (s.answer errInvalid []) := by
  rw [keyOp_on hin hserve]
  refine congrArg Host.Outcome.next (if_pos ?_)
  rw [Bool.or_eq_true, Bool.not_eq_true']
  exact hno

theorem signedBy_revoked {g : Mgmt} {signer : Nat} {msg : List Byte} {sig : BitVec 768}
    (h : bitAt g.fwRevoked signer = true) : g.signedBy signer msg sig = false := by
  rw [Mgmt.signedBy, h]
  rfl

/-- A part of the certificate chain is at most 1,024 bytes (R488). -/
theorem certPart_length (n : Nat) : (certPart Config.certChain n).length ≤ 1024 := List.length_take_le _ _

/-- Settles O53: messages by the lock and the signature, the mailbox by its flags, registers by their map. -/
theorem securityAndRegisters : Obligations.SecurityAndRegisters := by
  unfold Obligations.SecurityAndRegisters
  intro s g y served open_
  refine ⟨fun slot key signer sig ⟨⟨hin, hserve⟩, hlock⟩ hfree => ?enrol,
    fun slot key signer sig ⟨⟨hin, hserve⟩, hlock⟩ htaken => ?enrolTaken,
    fun slot signer sig ⟨⟨hin, hserve⟩, hlock⟩ => ?revoke,
    fun slot key signer sig fw ⟨hin, hserve⟩ hno => ⟨?noEnrol, ?noRevoke⟩,
    fun v hcfg hlock => ?policy, fun v hlock => ?policyLocked,
    fun n ⟨hin, hserve⟩ => ⟨(byVendor_on hin hserve _ : execGetcertchain n s = _), certPart_length n⟩,
    fun nonce ⟨hin, hserve⟩ => ⟨(byVendor_on hin hserve _ : execGetattestation nonce s = _), report_nonce s nonce⟩,
    fun msg hcfg hidle => ?inbound, fun msg hbusy => ?inboundBusy, fun msg hserve hbusy hfull => ?outboundWaits,
    fun msg hserve hbusy hfree => ?outbound, fun hcfg hfull hnone => ?cleared, fun w ws hcfg hfull hwait hserve => ?next,
    fun off v hsilent => ?silent, fun n hgrade => ?lacked, fun off v r hcfg ho hreg hwide => ?whole,
    fun off v r lo hcfg ho hreg hwide hheld => congrArg Host.Outcome.next (barWrite_high hcfg ho hreg hwide hheld _),
    fun off v r hcfg ho hreg hnarrow hbase => ?narrow⟩
  case enrol =>
    refine (keyOp_on hin hserve _ _ : execKeyenrol slot key signer sig s = _).trans (congrArg Host.Outcome.next ?_)
    rw [show s.mgt.locked = false from hlock, show sget 0 s.mgt.imageKeys slot.val = 0 from hfree]
    cases s.mgt.signedBy signer (enrolBytes slot key) sig <;> simp [g]
  case enrolTaken =>
    refine keyOp_refused (f := fun g => { g with imageKeys := sset 0 g.imageKeys slot key }) hin hserve (.inr ?_)
    rw [beq_eq_false_iff_ne.mpr (show sget 0 s.mgt.imageKeys slot.val ≠ 0 from htaken), Bool.and_false]
  case revoke =>
    refine (keyOp_on hin hserve _ _ : execKeyrevoke false slot signer sig s = _).trans (congrArg Host.Outcome.next ?_)
    rw [show s.mgt.locked = false from hlock]
    cases s.mgt.signedBy signer (revokeBytes false slot) sig <;> simp [g]
  case noEnrol =>
    refine (keyOp_refused hin hserve (hno.imp_right fun hrev => ?_) : execKeyenrol slot key signer sig s = _)
    rw [signedBy_revoked hrev, Bool.false_and]
  case noRevoke =>
    refine (keyOp_refused hin hserve (hno.imp_right fun hrev => ?_) : execKeyrevoke fw slot signer sig s = _)
    rw [signedBy_revoked hrev, Bool.false_and]
  case policy =>
    refine congrArg Host.Outcome.next ((if_pos hcfg).trans ?_)
    exact if_neg (by rw [show s.mgt.locked = false from hlock]; decide)
  case policyLocked =>
    refine congrArg Host.Outcome.next ?_
    rw [State.writePolicy, if_pos (show s.mgt.locked = true from hlock), ite_self]
  case inbound =>
    refine congrArg Host.Outcome.next (if_pos ?_)
    rw [show s.mod.sys.cfgReady = true from hcfg, show s.mgt.inBusy = false from hidle]
    rfl
  case inboundBusy =>
    refine congrArg Host.Outcome.next (if_neg ?_)
    rw [show s.mgt.inBusy = true from hbusy, Bool.not_true, Bool.and_false]
    decide
  case outboundWaits =>
    refine congrArg Host.Outcome.next ((if_pos ?_).trans (if_pos hfull))
    rw [hserve, show s.mgt.inBusy = true from hbusy]
    rfl
  case outbound =>
    refine congrArg Host.Outcome.next ((if_pos ?_).trans (if_neg ?_))
    · rw [hserve, show s.mgt.inBusy = true from hbusy]
      rfl
    · rw [show s.mgt.outReady = false from hfree]
      decide
  case cleared =>
    refine congrArg Host.Outcome.next ((if_pos hcfg).trans ?_)
    simp only [State.clearOut, show s.mgt.outReady = true from hfull, show s.mgt.outWait = [] from hnone, Bool.not_true,
      Bool.false_eq_true, if_false]
    rw [← show s.mgt.outWait = [] from hnone]
  case next =>
    refine congrArg Host.Outcome.next ((if_pos hcfg).trans ?_)
    simp only [State.clearOut, show s.mgt.outReady = true from hfull, show s.mgt.outWait = w :: ws from hwait,
      Bool.not_true, Bool.false_eq_true, if_false]
    exact if_pos hserve
  case silent =>
    rcases hsilent with hnone | ⟨r, hreg, habsent⟩
    · exact ⟨regRead_of_none hnone, regWriteAt_of_none hnone v⟩
    · exact ⟨regRead_of_absent hreg habsent, regWriteAt_of_absent hreg habsent v⟩
  case lacked => exact ⟨regAbsent_eq_lackedByS64 hgrade _, regAbsent_eq_lackedByS64 hgrade _,
    regAbsent_eq_lackedByS64 hgrade _, regAbsent_eq_lackedByS64 hgrade _, regAbsent_eq_lackedByS64 hgrade _⟩
  case whole => exact ⟨congrArg Host.Outcome.next (barWrite_eight_wide hcfg ho hreg hwide _),
    congrArg Host.Outcome.next (barWrite_low hcfg ho hreg hwide _)⟩
  case narrow =>
    refine congrArg Host.Outcome.next ((barWrite_four ho hbase hcfg _).trans ?_)
    exact regWriteAt_of_some hreg _

end Sys2Proof.Proofs

/-!
The memories: a read after a write, what a write leaves, its poison, and the canonical form (R210, R211, R215, R217, R219).
-/
namespace Sys2Proof.Proofs

open Sys2Proof Sys2Proof.Machine Sys2Proof.Claims Sys2Proof.Laws

section
variable {m : Mod} {pa : Nat} {bs : List Byte}

/-- A write lands (R211, R215): the site is there, the address is outside the reserve, and there are bytes. -/
def Lands (m : Mod) (pa : Nat) (bs : List Byte) : Prop := Mod.paAbsent m pa = false ∧ inReserve pa = false ∧ bs ≠ []

/-- A write with poison that lands (R219). -/
theorem physWrite_poisoned (h : Lands m pa bs) : Mod.physWrite m pa bs true = { m with mem := { m.mem with
    gddr := wrBytes m.mem.gddr pa bs
    granules := setRun false m.mem.granules (pa / 64) true ((pa + bs.length - 1) / 64 + 1 - pa / 64) } } :=
  if_neg (physWrite_lands h)

/-- `j` lies outside a run of `c` keys from `k` on. -/
def outsideRun (k c j : Nat) : Bool := decide (j < k ∨ k + c ≤ j)

/-- The granules' directory after a write without poison of `n` bytes at `pa` (R219): what it covers whole is out. -/
def clearedGranules (m : Mod) (pa n : Nat) : SMap Bool :=
  m.mem.granules.filter fun p => outsideRun (wholeGranules pa n).1 (wholeGranules pa n).2 p.1

/-- The blocks' directory after the same write. -/
def clearedBlocks (m : Mod) (pa n : Nat) : SMap Bool :=
  m.mem.blocks.filter fun p => outsideRun ((pa + 65535) / 65536) ((pa + n) / 65536 - (pa + 65535) / 65536) p.1

/-- A write without poison that lands (R219). -/
theorem physWrite_clean (h : Lands m pa bs) : Mod.physWrite m pa bs false = { m with mem := { m.mem with
    gddr := wrBytes m.mem.gddr pa bs
    granules := clearedGranules m pa bs.length
    blocks := clearedBlocks m pa bs.length } } :=
  if_neg (physWrite_lands h)

/-- A write that lands, with or without poison, stores its bytes. -/
theorem physWrite_gddr (h : Lands m pa bs) (poison : Bool) :
    (Mod.physWrite m pa bs poison).mem.gddr = wrBytes m.mem.gddr pa bs := by
  cases poison with
  | true => rw [physWrite_poisoned h]
  | false => rw [physWrite_clean h]

theorem physWrite_of_absent (h : Mod.paAbsent m pa = true ∨ inReserve pa = true) (poison : Bool) :
    Mod.physWrite m pa bs poison = m := by
  refine if_pos ?_
  rw [Bool.or_eq_true, Bool.or_eq_true]
  exact .inl h

/-- A byte outside the write stays, whether or not the write lands. -/
theorem physWrite_outside (poison : Bool) {a : Nat} (ha : a < pa ∨ pa + bs.length ≤ a) :
    sget 0 (Mod.physWrite m pa bs poison).mem.gddr a = sget 0 m.mem.gddr a := by
  by_cases h : Lands m pa bs
  · rw [physWrite_gddr h, sget_wrBytes_out _ _ _ _ ha]
  · have hdrop : (Mod.paAbsent m pa || inReserve pa || bs.isEmpty) = true := by
      refine Decidable.byContradiction fun hno => ?_
      simp only [Bool.not_eq_true, Bool.or_eq_false_iff, List.isEmpty_eq_false_iff] at hno
      exact h ⟨hno.1.1, hno.1.2, hno.2⟩
    rw [Mod.physWrite, if_pos hdrop]

/-- A poisoned write leaves its first granule poisoned (R219). -/
theorem rangePoison_poisoned (h : Lands m pa bs) :
    Mod.rangePoison (Mod.physWrite m pa bs true) pa bs.length = true := by
  have hpos : 0 < bs.length := List.length_pos_iff.mpr h.2.2
  rw [physWrite_poisoned h, Mod.rangePoison, if_neg (by omega), Bool.or_eq_true]
  refine .inl (anyIn_of_sget _ _ _ (pa / 64) ?_ (by omega))
  rw [sget_setRun, if_pos (by omega)]

/-- A write of whole blocks without poison leaves none in them (R219). -/
theorem rangePoison_clean (h : Lands m pa bs) (hpa : pa % 65536 = 0) (hlen : bs.length % 65536 = 0) :
    Mod.rangePoison (Mod.physWrite m pa bs false) pa bs.length = false := by
  have hpos : 0 < bs.length := List.length_pos_iff.mpr h.2.2
  rw [physWrite_clean h, Mod.rangePoison, if_neg (by omega), Bool.or_eq_false_iff]
  refine ⟨anyIn_none _ _ _ fun p hp => ?_, anyIn_none _ _ _ fun p hp => ?_⟩
  · have := of_decide_eq_true (List.mem_filter.mp hp).2
    simp only [wholeGranules] at this
    omega
  · have := of_decide_eq_true (List.mem_filter.mp hp).2
    omega

/-- A granule that is written whole without poison, in a block without poison, has none (R219). -/
theorem granulePoison_clean (h : Lands m pa bs) (hpa : pa % 64 = 0) (hlen : bs.length % 64 = 0) {g : Nat}
    (hg : pa / 64 ≤ g ∧ g < (pa + bs.length) / 64) (hblock : sget false m.mem.blocks (g / 1024) = false) :
    Mod.granulePoison (Mod.physWrite m pa bs false) g = false := by
  rw [physWrite_clean h, Mod.granulePoison, Bool.or_eq_false_iff]
  constructor
  · have hout : ¬ outsideRun (wholeGranules pa bs.length).1 (wholeGranules pa bs.length).2 g = true := by
      rw [outsideRun, decide_eq_true_eq]
      simp only [wholeGranules]
      omega
    exact (sget_filter_key false (outsideRun _ _) _ g).trans (if_neg hout)
  · refine (sget_filter_key false (outsideRun _ _) _ (g / 1024)).trans ?_
    rw [hblock, ite_self]

/-- Bytes of host memory that are written with poison are poisoned. -/
theorem hostPoison_set (h : bs ≠ []) : anyIn (Mod.hostWrite m pa bs true).mem.hostPoison pa bs.length = true := by
  have hpos : 0 < bs.length := List.length_pos_iff.mpr h
  have hset : (Mod.hostWrite m pa bs true).mem.hostPoison = setRun false m.mem.hostPoison pa true bs.length :=
    if_neg (by rw [Bool.not_true, Bool.and_false]; decide)
  rw [hset]
  refine anyIn_of_sget _ _ _ pa ?_ (by omega)
  rw [sget_setRun, if_pos (by omega)]

/-- Bytes of host memory that are written without poison have none. -/
theorem hostPoison_cleared : anyIn (Mod.hostWrite m pa bs false).mem.hostPoison pa bs.length = false := by
  refine anyIn_none _ _ _ fun p hp => ?_
  simp only [Mod.hostWrite] at hp
  split at hp
  · cases hp
  · exact (mem_setRun_false _ _ _ _ hp).2

end

/-- Settles O56: by whether the write lands, and by its poison. -/
theorem memoryReadsAndWrites : Obligations.MemoryReadsAndWrites := by
  unfold Obligations.MemoryReadsAndWrites
  intro m pa bs poison w h lands
  have hone {x y : SMap Byte} {a : Nat} (e : sget 0 x a = sget 0 y a) : rdBytes x a 1 = rdBytes y a 1 :=
    rdBytes_congr _ _ _ _ fun k hlo hhi => by rwa [show k = a by omega]
  refine ⟨fun hl => ?readBack, fun a ha => hone (physWrite_outside poison ha), fun ha => physWrite_of_absent ha poison,
    fun hl hp => ?poisoned, fun hl hp hpa hlen => ?clean, fun hl hp hpa hlen hblocks g hlo hhi => ?granule,
    rdBytes_wrBytes _ _ _, fun a ha => hone (sget_wrBytes_out _ _ _ _ ha), fun hne hp => ?hostPoisoned,
    fun hp => ?hostClean, fun hwf => ⟨physWrite_wf _ _ _ hwf, hostWrite_wf _ _ _ hwf⟩⟩
  case readBack =>
    show rdBytes (Mod.physWrite m pa bs poison).mem.gddr pa bs.length = bs
    rw [physWrite_gddr hl, rdBytes_wrBytes]
  case poisoned =>
    show (_ || Mod.rangePoison (Mod.physWrite m pa bs poison) pa bs.length) = true
    rw [hp, rangePoison_poisoned hl, Bool.or_true]
  case clean =>
    have habsent : Mod.paAbsent (Mod.physWrite m pa bs false) pa = false := by
      rw [physWrite_clean hl]
      exact hl.1
    subst hp
    show (_ || Mod.rangePoison (Mod.physWrite m pa bs false) pa bs.length) = false
    rw [rangePoison_clean hl hpa hlen, habsent, Bool.or_self]
  case granule =>
    show Mod.granulePoison (Mod.physWrite m pa bs poison) g = false
    rw [hp]
    exact granulePoison_clean hl hpa hlen ⟨hlo, hhi⟩ (hblocks g hlo hhi)
  case hostPoisoned =>
    show anyIn (Mod.hostWrite m pa bs poison).mem.hostPoison pa bs.length = true
    rw [hp, hostPoison_set hne]
  case hostClean =>
    show anyIn (Mod.hostWrite m pa bs poison).mem.hostPoison pa bs.length = false
    rw [hp, hostPoison_cleared]

end Sys2Proof.Proofs

/-!
What the state holds right after reset (R211, R216, R513): every register by its place in BAR0, evaluated.
-/
namespace Sys2Proof.Proofs

open Sys2Proof Sys2Proof.Machine Sys2Proof.Claims Sys2Proof.Laws

/-- A register that the grade has reads its value (R512). -/
theorem regRead_of_present {s : State} {off v : Nat} {r : Reg} (h : regAt off = some r)
    (hpresent : Mod.regAbsent s.mod r = false) (hv : s.regValue r = v) : s.regRead off = v := by
  simp only [State.regRead, h, hpresent, Bool.false_eq_true, if_false, hv]

/-! Where the registers of each array stand (R516). -/

theorem regAt_ring : ∀ n : Fin 64,
    (regAt (32 * n) = some (.sqBase n) ∧ regAt (32 * n + 8) = some (.sqDoorbell n)
      ∧ regAt (32 * n + 0x10) = some (.sqCtrl n) ∧ regAt (32 * n + 0x18) = some (.sqFetch n))
    ∧ (regAt (0x800 + 32 * n) = some (.cqBase n) ∧ regAt (0x800 + 32 * n + 8) = some (.cqHead n)
      ∧ regAt (0x800 + 32 * n + 0x10) = some (.cqCtrl n) ∧ regAt (0x800 + 32 * n + 0x18) = some (.cqPosted n)) := by
  decide +kernel

theorem regAt_flash : ∀ n : Fin 4,
    regAt (0x1C00 + 8 * n) = some (.flpQueues n) ∧ regAt (0x1C40 + 8 * n) = some (.flpPort n) := by
  decide +kernel

theorem regAt_port : ∀ n : Fin 16, regAt (0x2100 + 8 * n) = some (.portCtrl n)
    ∧ regAt (0x2180 + 8 * n) = some (.portStatus n) ∧ regAt (0x6000 + 8 * n) = some (.clsel n) := by
  decide +kernel

theorem regAt_brsel : ∀ n : Fin 64, regAt (0x6080 + 4 * n) = some (.brsel n) := by
  decide +kernel

theorem regAt_island : ∀ n : Fin 256, regAt (0x4400 + 4 * n) = some (.pwrFloor n)
    ∧ regAt (0x4800 + 4 * n) = some (.pwrPin n) ∧ regAt (0x4C00 + 8 * n) = some (.pwrIsland n) := by
  decide +kernel

/-! What they hold. -/

theorem reset_rings (n : Fin 64) : ∀ k ∈ [0, 8, 0x10, 0x18],
    State.reset.regRead (32 * n + k) = 0 ∧ State.reset.regRead (0x800 + 32 * n + k) = 0 := by
  obtain ⟨⟨hbase, hbell, hctrl, hfetch⟩, hcbase, hchead, hcctrl, hcposted⟩ := regAt_ring n
  simp only [List.forall_mem_cons, List.not_mem_nil, false_implies, implies_true, and_true]
  exact ⟨⟨regRead_of_present hbase rfl rfl, regRead_of_present hcbase rfl rfl⟩,
    ⟨regRead_of_present hbell rfl rfl, regRead_of_present hchead rfl rfl⟩,
    ⟨regRead_of_present hctrl rfl rfl, regRead_of_present hcctrl rfl rfl⟩,
    ⟨regRead_of_present hfetch rfl rfl, regRead_of_present hcposted rfl rfl⟩⟩

theorem reset_flpPort : ∀ n : Fin 4, State.reset.regValue (.flpPort n) = 0 := by
  decide +kernel

theorem reset_brsel : ∀ n : Fin 64, State.reset.regValue (.brsel n) = 0x00FF_0000 := by
  decide +kernel

theorem reset_flash (n : Fin 4) :
    State.reset.regRead (0x1C00 + 8 * n) = 0x0300_0400_0004_0808 ∧ State.reset.regRead (0x1C40 + 8 * n) = 0 := by
  have hpresent : Mod.regAbsent State.reset.mod (.flpQueues n) = false := decide_eq_false (Nat.not_le.mpr n.isLt)
  exact ⟨regRead_of_present (regAt_flash n).1 hpresent rfl,
    regRead_of_present (regAt_flash n).2 hpresent (reset_flpPort n)⟩

theorem reset_ports (n : Fin 16) : State.reset.regRead (0x2100 + 8 * n) = 0 ∧ State.reset.regRead (0x2180 + 8 * n) = 0
    ∧ State.reset.regRead (0x6000 + 8 * n) = 0 := by
  obtain ⟨hctrl, hstatus, hclsel⟩ := regAt_port n
  have hpresent : Mod.regAbsent State.reset.mod (.portCtrl n) = false := decide_eq_false (Nat.not_le.mpr n.isLt)
  exact ⟨regRead_of_present hctrl hpresent rfl, regRead_of_present hstatus hpresent rfl,
    regRead_of_present hclsel rfl rfl⟩

theorem reset_islands (n : Fin 256) : State.reset.regRead (0x4400 + 4 * n) = 0 ∧ State.reset.regRead (0x4800 + 4 * n) = 0
    ∧ State.reset.regRead (0x4C00 + 8 * n) = 0x0000_02EE := by
  obtain ⟨hfloor, hpin, hisland⟩ := regAt_island n
  exact ⟨regRead_of_present hfloor rfl rfl, regRead_of_present hpin rfl rfl, regRead_of_present hisland rfl rfl⟩

theorem reset_singles : ∀ k ∈ [0x1000, 0x1008, 0x1400, 0x1408, 0x1410, 0x1418, 0x2000, 0x2040, 0x2048, 0x2050, 0x3008,
    0x3010, 0x3018, 0x6180, 0x6188, 0x7008], State.reset.regRead k = 0 := by
  decide +kernel

theorem reset_values : State.reset.regRead 0x3000 = 0x0000_0004 ∧ State.reset.regRead 0x3100 = 0x0000_00C8_0000_0000
    ∧ State.reset.regRead 0x4000 = 0x07D0_07D0 ∧ State.reset.regRead 0x4008 = 0x0000_0010_0000_07D0
    ∧ State.reset.regRead 0x8000 = 0x0000_0055 := by
  decide +kernel

/-- No fuse is blown and no register is set (R466, R486). -/
theorem sound_reset : Sound State.reset.mgt where
  svn := by decide
  imageBits := by decide
  firmwareBits := by decide
  slots := fun _ _ => rfl
  form := rfl
  policy := by decide
  sideband := by decide
  booted := by decide
  resets := by decide
  recent := by decide
  endpoint := by decide

/-- Settles O57: each array by where its registers stand, the rest by evaluation. -/
theorem resetState : Obligations.ResetState := by
  unfold Obligations.ResetState
  intro r
  obtain ⟨hstatus, hpreempt, hceiling, hpower, hsideband⟩ := reset_values
  exact ⟨reset_rings, reset_singles, reset_flash, reset_ports,
    fun n => regRead_of_present (regAt_brsel n) rfl (reset_brsel n), reset_islands, hstatus, hpreempt, hceiling, hpower,
    hsideband, rfl, rfl, rfl, rfl, reset_wf, sound_reset⟩

end Sys2Proof.Proofs
